-- ==== Sys2Proof/Word.lean ====
section
/-! DEFINITION. Words, bytes, sparse tables and the small shapes every other file uses. -/
namespace Sys2Proof

/-- A 64-bit scalar word (04 R62). -/
abbrev Word := BitVec 64

/-- One byte of any memory of the part. -/
abbrev Byte := BitVec 8

/-- A virtual address of 57 bits (14 R361). -/
abbrev VA := BitVec 57

/-- A tile line of 64 cells of 32 bits (02 R39). -/
abbrev LineBits := BitVec 2048

/-- A sparse table in one canonical form: keys strictly rising, and no entry equal to what an
unlisted key reads as. The operations are in Machine/Tbl.lean. -/
abbrev Tbl (α : Type) := List (Nat × α)

/-- The four sequencers of a context, numbered C 0, L 1, X 2, S 3 (05 R91). -/
inductive Sq where
  | c | l | x | s
  deriving DecidableEq, Repr, Inhabited

/-- Number of a sequencer (05 R91). -/
def Sq.num : Sq → Nat
  | .c => 0
  | .l => 1
  | .x => 2
  | .s => 3

/-- Sequencer of a 2-bit number. -/
def Sq.ofNum (n : Nat) : Sq :=
  if n % 4 = 0 then .c else if n % 4 = 1 then .l else if n % 4 = 2 then .x else .s

/-- One value for each sequencer of a context. -/
structure Quad (α : Type) where
  c : α
  l : α
  x : α
  s : α
  deriving DecidableEq, Repr, Inhabited

/-- The value of one sequencer. -/
def Quad.get {α : Type} (q : Quad α) : Sq → α
  | .c => q.c
  | .l => q.l
  | .x => q.x
  | .s => q.s

/-- The four values with one of them replaced. -/
def Quad.set {α : Type} (q : Quad α) (y : Sq) (v : α) : Quad α :=
  match y with
  | .c => { q with c := v }
  | .l => { q with l := v }
  | .x => { q with x := v }
  | .s => { q with s := v }

/-- The same value for each sequencer. -/
def Quad.all {α : Type} (v : α) : Quad α := ⟨v, v, v, v⟩

/-- The four sequencers in the order C, L, X, S. -/
def Sq.order : List Sq := [.c, .l, .x, .s]

end Sys2Proof
end

