-- ==== Sys2Proof/Machine/Float.lean ====
section
/-! DEFINITION. Floating-point formats, exact values and rounding (09 R210, R216 to R219). An exact
magnitude is `m * 2 ^ e`; a magnitude known only to lie strictly between `m * 2 ^ e` and
`(m + 1) * 2 ^ e` is given as `(4 * m + 1) * 2 ^ (e - 2)`, which every rounding of fewer digits treats
alike. -/
namespace Sys2Proof.Machine

/-- A floating-point format (09 Table 9.1): exponent and fraction bits, and whether it has infinities. -/
structure Fmt where
  eb : Nat
  mb : Nat
  hasInf : Bool
  deriving DecidableEq, Repr, Inhabited

def Fmt.fp32 : Fmt := ⟨8, 23, true⟩
def Fmt.fp16 : Fmt := ⟨5, 10, true⟩
def Fmt.bf16 : Fmt := ⟨8, 7, true⟩
def Fmt.e4m3 : Fmt := ⟨4, 3, false⟩
def Fmt.e5m2 : Fmt := ⟨5, 2, true⟩
def Fmt.fp64 : Fmt := ⟨11, 52, true⟩

/-- Bits of a code. -/
def Fmt.width (f : Fmt) : Nat := 1 + f.eb + f.mb

/-- The exponent bias. -/
def Fmt.bias (f : Fmt) : Nat := 2 ^ (f.eb - 1) - 1

/-- The exponent of the smallest normal. -/
def Fmt.emin (f : Fmt) : Int := 1 - (f.bias : Int)

/-- Whether fz flushes the format (R219): FP32, FP16 and BF16. -/
def Fmt.flushes (f : Fmt) : Bool := f == .fp32 || f == .fp16 || f == .bf16

/-- The code of +infinity (all exponent bits); for E4M3 it encodes numbers. -/
def Fmt.infCode (f : Fmt) : Nat := (2 ^ f.eb - 1) * 2 ^ f.mb

/-- The canonical NaN (Table 9.1). -/
def Fmt.nan (f : Fmt) : Nat :=
  if f.hasInf then f.infCode + 2 ^ (f.mb - 1) else 2 ^ (f.eb + f.mb) - 1

/-- The code of the largest finite magnitude. -/
def Fmt.maxCode (f : Fmt) : Nat := if f.hasInf then f.infCode - 1 else 2 ^ (f.eb + f.mb) - 2

/-- The sign bit of a code. -/
def Fmt.signBit (f : Fmt) : Nat := 2 ^ (f.eb + f.mb)

/-- A value: a NaN (signalling or quiet), an infinity, or a sign and an exact magnitude. -/
inductive FV where
  | nan (signalling : Bool)
  | inf (neg : Bool)
  | fin (neg : Bool) (m : Nat) (e : Int)
  deriving DecidableEq, Repr, Inhabited

/-- The value of a code (Table 9.1); with `fz`, a subnormal source is zero of its sign (R219). -/
def Fmt.value (f : Fmt) (fz : Bool) (c : Nat) : FV :=
  let neg := c / f.signBit % 2 == 1
  let mag := c % f.signBit
  let ex := mag / 2 ^ f.mb
  let fr := mag % 2 ^ f.mb
  if f.hasInf && ex == 2 ^ f.eb - 1 then
    if fr = 0 then .inf neg else .nan (decide (fr < 2 ^ (f.mb - 1)) && f != .e5m2)
  else if !f.hasInf && mag == f.signBit - 1 then .nan false
  else if ex = 0 then
    if fz && f.flushes then .fin neg 0 0 else .fin neg fr (f.emin - f.mb)
  else .fin neg (2 ^ f.mb + fr) ((ex : Int) - f.bias - f.mb)

/-- The flags of 04 Table 4.6. -/
structure FFlags where
  nv : Bool := false
  dz : Bool := false
  of : Bool := false
  uf : Bool := false
  nx : Bool := false
  deriving DecidableEq, Repr, Inhabited

/-- Flags of two operations together. -/
def FFlags.or (a b : FFlags) : FFlags :=
  ⟨a.nv || b.nv, a.dz || b.dz, a.of || b.of, a.uf || b.uf, a.nx || b.nx⟩

/-- Flags as the bits of FPFLAGS. -/
def FFlags.bits (a : FFlags) : BitVec 5 :=
  (if a.nv then 1 else 0) ||| (if a.dz then 2 else 0) ||| (if a.of then 4 else 0) |||
    (if a.uf then 8 else 0) ||| (if a.nx then 16 else 0)

/-- Length of a number in bits. -/
def bitLen (m : Nat) : Nat := if m = 0 then 0 else Nat.log2 m + 1

/-- The multiple of `2 ^ u` that a mode chooses for `m * 2 ^ e` (R216), as its quotient. -/
def roundAt (rm : Nat) (neg : Bool) (m : Nat) (e u : Int) : Nat :=
  if u ≤ e then m * 2 ^ (e - u).toNat
  else
    let sh := (u - e).toNat
    let q := m / 2 ^ sh
    let r := m % 2 ^ sh
    let up : Bool :=
      if rm = 0 then decide (2 ^ sh < 2 * r) || (decide (2 * r = 2 ^ sh) && q % 2 == 1)
      else if rm = 1 then false
      else if rm = 2 then neg && r != 0
      else if rm = 3 then !neg && r != 0
      else decide (2 ^ sh ≤ 2 * r)
    if up then q + 1 else q

/-- Whether a quotient times `2 ^ u` is not `m * 2 ^ e`. -/
def inexactAt (m : Nat) (e u : Int) : Bool := decide (e < u) && m % 2 ^ (u - e).toNat != 0

/-- Whether a mode overflows a sign to infinity (Table 9.3). -/
def overflowsToInf (rm : Nat) (neg : Bool) : Bool :=
  rm == 0 || rm == 4 || (rm == 2 && neg) || (rm == 3 && !neg)

/-- A magnitude above the largest finite one, after rounding with unbounded exponents. -/
def Fmt.overflows (f : Fmt) (q : Nat) (u : Int) : Bool :=
  if f.hasInf then decide ((f.bias : Int) + 1 < u + (bitLen q : Int))
  else decide (448 * 2 ^ 64 < q * 2 ^ (u + 64).toNat)

/-- The code of an exact value in a format, with its flags (R216, R218, R219): rounding by `rm`,
saturating or not, flushing or not. -/
def Fmt.round (f : Fmt) (rm : Nat) (sat fz neg : Bool) (m : Nat) (e : Int) : Nat × FFlags :=
  let s := if neg then f.signBit else 0
  if m = 0 then (s, {})
  else
    let top : Int := e + (bitLen m : Int) - 1
    let u0 := top - f.mb
    let q0 := roundAt rm neg m e u0
    if f.overflows q0 u0 then
      if !sat && overflowsToInf rm neg then
        if f.hasInf then (s + f.infCode, { of := true, nx := true })
        else (f.nan, { nv := true, of := true, nx := true })
      else (s + f.maxCode, { of := true, nx := true })
    else
      let tiny := decide (u0 + (bitLen q0 : Int) - 1 < f.emin)
      if tiny && fz && f.flushes then (s, { uf := true, nx := true })
      else
        let u := max u0 (f.emin - f.mb)
        let q := roundAt rm neg m e u
        let nx := inexactAt m e u
        (s + ((u + f.mb + f.bias).toNat * 2 ^ f.mb + q - 2 ^ f.mb), { uf := tiny && nx, nx := nx })

/-- A magnitude known to within one unit below, as `Fmt.round` takes it. -/
def sticky (m : Nat) (e : Int) (inexact : Bool) : Nat × Int := (4 * m + (if inexact then 1 else 0), e - 2)

/-- Exact sum of two signed magnitudes: sign, magnitude, exponent. Zero takes the sign given. -/
def exactAdd (zeroNeg : Bool) (n1 : Bool) (m1 : Nat) (e1 : Int) (n2 : Bool) (m2 : Nat) (e2 : Int) :
    Bool × Nat × Int :=
  let e := min e1 e2
  let a : Int := (m1 * 2 ^ (e1 - e).toNat : Nat)
  let b : Int := (m2 * 2 ^ (e2 - e).toNat : Nat)
  let t := (if n1 then -a else a) + (if n2 then -b else b)
  if t = 0 then (if n1 == n2 then n1 else zeroNeg, 0, 0) else (decide (t < 0), t.natAbs, e)

/-- Comparison of two values that are no NaNs: the sign of a - b, with -0 equal to +0. -/
def FV.cmp (a b : FV) : Int :=
  match a, b with
  | .inf x, .inf y => if x = y then 0 else if x then -1 else 1
  | .inf x, _ => if x then -1 else 1
  | _, .inf y => if y then 1 else -1
  | .fin n1 m1 e1, .fin n2 m2 e2 =>
    let (n, m, _) := exactAdd false n1 m1 e1 (!n2) m2 e2
    if m = 0 then 0 else if n then -1 else 1
  | _, _ => 0

/-- Whether a value is a NaN. -/
def FV.isNan : FV → Bool
  | .nan _ => true
  | .inf _ => false
  | .fin _ _ _ => false

/-- Whether a value is a signalling NaN. -/
def FV.isSig : FV → Bool
  | .nan s => s
  | .inf _ => false
  | .fin _ _ _ => false

/-- The sign of a value. -/
def FV.neg : FV → Bool
  | .nan _ => false
  | .inf n => n
  | .fin n _ _ => n

/-- A value with its sign changed. -/
def FV.negate : FV → FV
  | .nan s => .nan s
  | .inf n => .inf (!n)
  | .fin n m e => .fin (!n) m e

/-- The code of a value in a format. -/
def Fmt.pack (f : Fmt) (rm : Nat) (sat fz : Bool) (v : FV) : Nat × FFlags :=
  match v with
  | .nan _ => (f.nan, {})
  | .inf n =>
    if f.hasInf then ((if n then f.signBit else 0) + f.infCode, {}) else (f.nan, { nv := true })
  | .fin n m e => f.round rm sat fz n m e

/-- Sum of two values (10, 07 R171): a NaN for a NaN or opposite infinities. The exact zero sum of opposite
signs is -0 only under RDN. -/
def Fmt.add (f : Fmt) (rm : Nat) (fz : Bool) (a b : FV) : Nat × FFlags :=
  let sig := a.isSig || b.isSig
  match a, b with
  | .nan _, _ => (f.nan, { nv := sig })
  | _, .nan _ => (f.nan, { nv := sig })
  | .inf x, .inf y => if x = y then f.pack rm false fz (.inf x) else (f.nan, { nv := true })
  | .inf x, _ => f.pack rm false fz (.inf x)
  | _, .inf y => f.pack rm false fz (.inf y)
  | .fin n1 m1 e1, .fin n2 m2 e2 =>
    let (n, m, e) := exactAdd (rm == 2) n1 m1 e1 n2 m2 e2
    f.round rm false fz n m e

/-- Product of two values that are finite or infinite; none for zero times infinity. -/
def FV.mul (a b : FV) : Option FV :=
  match a, b with
  | .nan _, _ => none
  | _, .nan _ => none
  | .inf x, .inf y => some (.inf (x != y))
  | .inf x, .fin n m _ => if m = 0 then none else some (.inf (x != n))
  | .fin n m _, .inf x => if m = 0 then none else some (.inf (x != n))
  | .fin n1 m1 e1, .fin n2 m2 e2 => some (.fin (n1 != n2) (m1 * m2) (e1 + e2))

/-- Integer square root by digits, over `n` pairs of bits. -/
def isqrt : Nat → Nat → Nat
  | 0, _ => 0
  | n + 1, v =>
    let r := 2 * isqrt n (v / 4)
    if (r + 1) * (r + 1) ≤ v then r + 1 else r

/-- A value rounded to an integer by a mode: sign and magnitude, and whether it was exact (R216). -/
def roundInt (rm : Nat) (neg : Bool) (m : Nat) (e : Int) : Int × Bool :=
  let q := roundAt rm neg m e 0
  (if neg then -(q : Int) else q, inexactAt m e 0)

end Sys2Proof.Machine
end

