-- ==== Sys2Proof/Syntax.lean ====
section
/-! DEFINITION. The syntax: operands, and the one inductive of the table's 304 rows. The first 188
rows are words of the compute cores, the eight from `rfetch` to `qbind` are words of the scheduler
cores, and the others are the steps of the part's other agents (95_what_each_step_holds.md), whose
parameters say where the step takes place and what arrives from outside. -/
namespace Sys2Proof

/-- The common fields of a compute-core word (02 Table 2.1). -/
structure Common where
  tw : BitVec 4
  ew : BitVec 4
  ts : BitVec 4
  es : BitVec 4
  deriving DecidableEq, Repr, Inhabited

/-- A scalar specifier (02 Table 2.14). -/
inductive Spec where
  | s (n : BitVec 5)
  | q (y : Sq)
  | li (n : BitVec 3)
  deriving DecidableEq, Repr, Inhabited

/-- The direction of a tile line (02 R38). -/
inductive Dir where
  | row | col | diag | anti
  deriving DecidableEq, Repr, Inhabited

/-- A line specifier in the tile form (02 Table 2.15). -/
structure TileLine where
  tile : BitVec 6
  dir : Dir
  idx : BitVec 3
  deriving DecidableEq, Repr, Inhabited

/-- A line specifier of either form (02 R38). -/
inductive Line where
  | tile (t : TileLine)
  | gen (g : BitVec 3)
  deriving DecidableEq, Repr, Inhabited

/-- Operations of AMO, RED and REDUCE (07 Table 7.6). -/
inductive AmoOp where
  | swap | add | and | or | xor | min | max | minu | maxu | fadd | fmin | fmax
  deriving DecidableEq, Repr, Inhabited

/-- Operations of VFRED and VFSCAN (10 Table 10.2). -/
inductive RedOp where
  | sum | max | min
  deriving DecidableEq, Repr, Inhabited

/-- Operations of VIRED (10 Table 10.2). -/
inductive IRedOp where
  | add | min | max | and | or | xor
  deriving DecidableEq, Repr, Inhabited

/-- The kind of an access that is translated (14 Table 14.3, access). -/
inductive Access where
  | read | write | exec | atomic
  deriving DecidableEq, Repr, Inhabited

/-- Who writes a control register (15 R371, R373, 22 R422). -/
inductive Writer where
  | sched (core : Nat)
  | vesper
  | host (fn : Nat)
  deriving DecidableEq, Repr, Inhabited

/-- An access of a control register: who makes it, and of how many bytes. -/
structure RegAccess where
  who : Writer
  size : Nat
  deriving DecidableEq, Repr, Inhabited

/-- The uncorrectable words that a scrub pass meets (06 R141): of the core, each by slot, tile or scratchpad, and place,
and of the L2 slices, by physical address. -/
structure ScrubFound where
  cells : List (Nat × Bool × Nat)
  lines : List Nat
  deriving DecidableEq, Repr, Inhabited

/-- The side a Vesper command comes from (22 R431, R432). -/
inductive Side where
  | host | sideBand
  deriving DecidableEq, Repr, Inhabited

/-- Why a pre-emption is requested (14 R357). -/
inductive StopWhy where
  | window | tileTime | move | yield | firmware | power
  deriving DecidableEq, Repr, Inhabited

/-- What a debugger does to an unlocked context (23 Table 23.5): halt it, release it, and read or write its image, by scalar
register, restart address, byte of scratchpad, special register, cell of a tile, and quarter of a predicate. -/
inductive DebugOp where
  | halt
  | release
  | readReg (y : Sq) (n : Nat)
  | writeReg (y : Sq) (n : Nat) (v : Word)
  | readPc (y : Sq)
  | writePc (y : Sq) (v : VA)
  | readSpad (addr : Nat)
  | writeSpad (addr : Nat) (v : Byte)
  | readSr (y : Sq) (n : Nat)
  | writeSr (n : Nat) (v : Word)
  | readCell (z row col : Nat)
  | writeCell (z row col : Nat) (v : BitVec 32)
  | readPred (p i : Nat)
  | writePred (p i : Nat) (v : Word)
  deriving DecidableEq, Repr, Inhabited

/-- The rows of spec/opcode_table.json, one constructor each. -/
inductive Instr where
  /-- ADD (R68). Adds two scalar operands modulo 2^64. -/
  | add (cm : Common) (d a b : Spec)
  /-- SUB (R68). Subtracts two scalar operands modulo 2^64. -/
  | sub (cm : Common) (d a b : Spec)
  /-- MUL (R68). Writes the low 64 bits of the product. -/
  | mul (cm : Common) (d a b : Spec)
  /-- MULH (R68). Writes the high 64 bits of the signed product. -/
  | mulh (cm : Common) (d a b : Spec)
  /-- MULHU (R68). Writes the high 64 bits of the unsigned product. -/
  | mulhu (cm : Common) (d a b : Spec)
  /-- DIV (R68). Signed division truncated towards zero, with fixed results for divide by zero and overflow. -/
  | div (cm : Common) (d a b : Spec)
  /-- DIVU (R68). Unsigned division. -/
  | divu (cm : Common) (d a b : Spec)
  /-- REM (R68). Signed remainder. -/
  | rem (cm : Common) (d a b : Spec)
  /-- REMU (R68). Unsigned remainder. -/
  | remu (cm : Common) (d a b : Spec)
  /-- AND (R68). Bitwise AND of two scalars. -/
  | andR (cm : Common) (d a b : Spec)
  /-- OR (R68). Bitwise OR of two scalars. -/
  | orR (cm : Common) (d a b : Spec)
  /-- XOR (R68). Bitwise XOR of two scalars. -/
  | xorR (cm : Common) (d a b : Spec)
  /-- SLL (R68). Logical left shift by the low 6 bits of b. -/
  | sll (cm : Common) (d a b : Spec)
  /-- SRL (R68). Logical right shift. -/
  | srl (cm : Common) (d a b : Spec)
  /-- SRA (R68). Arithmetic right shift. -/
  | sra (cm : Common) (d a b : Spec)
  /-- MIN (R68). Signed minimum. -/
  | minR (cm : Common) (d a b : Spec)
  /-- MAX (R68). Signed maximum. -/
  | maxR (cm : Common) (d a b : Spec)
  /-- MINU (R68). Unsigned minimum. -/
  | minu (cm : Common) (d a b : Spec)
  /-- MAXU (R68). Unsigned maximum. -/
  | maxu (cm : Common) (d a b : Spec)
  /-- SLT (R68). Signed set-less-than. -/
  | slt (cm : Common) (d a b : Spec)
  /-- SLTU (R68). Unsigned set-less-than. -/
  | sltu (cm : Common) (d a b : Spec)
  /-- ADDI (R69). Adds a sign-extended immediate. -/
  | addi (cm : Common) (d a : Spec) (imm : BitVec 28)
  /-- ANDI (R69). ANDs a sign-extended immediate. -/
  | andi (cm : Common) (d a : Spec) (imm : BitVec 28)
  /-- ORI (R69). ORs a sign-extended immediate. -/
  | ori (cm : Common) (d a : Spec) (imm : BitVec 28)
  /-- XORI (R69). XORs a sign-extended immediate. -/
  | xori (cm : Common) (d a : Spec) (imm : BitVec 28)
  /-- SLLI (R69). Logical left shift by an immediate of 0 to 63. -/
  | slli (cm : Common) (d a : Spec) (sh : BitVec 6)
  /-- SRLI (R69). Logical right shift by an immediate. -/
  | srli (cm : Common) (d a : Spec) (sh : BitVec 6)
  /-- SRAI (R69). Arithmetic right shift by an immediate. -/
  | srai (cm : Common) (d a : Spec) (sh : BitVec 6)
  /-- SLTI (R69). Signed set-less-than against an immediate. -/
  | slti (cm : Common) (d a : Spec) (imm : BitVec 28)
  /-- LI (R70). Long form that writes the 64-bit value of its extension word. -/
  | li (cm : Common) (d : Spec) (v : Word)
  /-- BFX (R71). Extracts a bit field, zero- or sign-extended. -/
  | bfx (cm : Common) (d a : Spec) (pos lenM1 : BitVec 6) (sx : Bool)
  /-- BFI (R71). Inserts a bit field into the destination register. -/
  | bfi (cm : Common) (d a : Spec) (pos lenM1 : BitVec 6)
  /-- CLZ (R72). Counts leading zero bits. -/
  | clz (cm : Common) (d a : Spec)
  /-- CTZ (R72). Counts trailing zero bits. -/
  | ctz (cm : Common) (d a : Spec)
  /-- POPC (R72). Counts one bits. -/
  | popc (cm : Common) (d a : Spec)
  /-- CMP (R73). Compares two registers and writes a branch condition. -/
  | cmp (cm : Common) (kd : BitVec 3) (a b : Spec) (cond : BitVec 3)
  /-- CMPI (R73). Compares a register with an immediate and writes a branch condition. -/
  | cmpi (cm : Common) (kd : BitVec 3) (a : Spec) (cond : BitVec 3) (imm : BitVec 24)
  /-- KOP (R74). Combines two conditions through a 4-bit truth table. -/
  | kop (cm : Common) (kd ka kb : BitVec 3) (table : BitVec 4)
  /-- SEL (R75). Selects one of two scalars by a condition. -/
  | sel (cm : Common) (d a b : Spec) (k : BitVec 3) (neg : Bool)
  /-- PBR (R77). Prepares a PC-relative branch target in a b register. -/
  | pbr (cm : Common) (bn : BitVec 3) (off : BitVec 33)
  /-- PBRR (R77). Prepares a branch target from a register value. -/
  | pbrr (cm : Common) (bn : BitVec 3) (a : Spec)
  /-- BR (R78). Branches to a prepared target when the condition holds. -/
  | br (cm : Common) (bn k : BitVec 3) (neg : Bool)
  /-- CALL (R78). Branches to a prepared target and writes the link to b7. -/
  | call (cm : Common) (bn k : BitVec 3) (neg : Bool)
  /-- LOOP (R80). Pushes a hardware loop level, or skips the body on a trip count of zero. -/
  | loop (cm : Common) (level : BitVec 3) (count : Spec) (body : BitVec 31)
  /-- ENDL (R82). Leaves a hardware loop level when the condition holds. -/
  | endl (cm : Common) (level k : BitVec 3) (neg : Bool)
  /-- MFS (R84). Reads a special register. -/
  | mfs (cm : Common) (d : Spec) (num : BitVec 9)
  /-- MTS (R85). Writes a special register at retire. -/
  | mts (cm : Common) (num : BitVec 9) (a : Spec)
  /-- NOP (R86). Does nothing beyond its token and event fields. -/
  | nop (cm : Common)
  /-- END (R87). Ends its sequencer's instruction stream in this instance. -/
  | endSeq (cm : Common)
  /-- QDISC (R94). Discards avail entries, tokens or outcomes of channels from named sources. -/
  | qdisc (cm : Common) (srcs : BitVec 4) (kinds : BitVec 3)
  /-- QSTAT (R95). Reads a snapshot of one channel's counts. -/
  | qstat (cm : Common) (d : Spec) (ch : BitVec 4)
  /-- EVSET (R97). Sets events of a mask at retire. -/
  | evset (cm : Common) (a : Spec) (mask : BitVec 15)
  /-- EVCLR (R97). Clears events of a mask at retire. -/
  | evclr (cm : Common) (a : Spec) (mask : BitVec 15)
  /-- EVWAITM (R98). Waits for all or any of a list of events and returns their state. -/
  | evwaitm (cm : Common) (d : Spec) (mask : BitVec 15) (any : Bool)
  /-- BOPUSH (R99). Pushes a branch outcome towards another sequencer. -/
  | bopush (cm : Common) (dest : Sq) (k : BitVec 3) (neg : Bool)
  /-- BRQ (R100). Pops a branch outcome and branches to a prepared target on it. -/
  | brq (cm : Common) (bn : BitVec 3) (src : Sq) (neg : Bool)
  /-- RINIT (R102). Checks a specification and initialises a ring. -/
  | rinit (cm : Common) (rg : BitVec 4) (a : Spec)
  /-- RACQ (R103). Claims a free ring slot for fill. -/
  | racq (cm : Common) (d : Spec) (rg : BitVec 4)
  /-- RPUT (R104). Posts the oldest claimed fill slot as filled. -/
  | rput (cm : Common) (rg : BitVec 4)
  /-- RGET (R103). Claims a filled ring slot for consume. -/
  | rget (cm : Common) (d : Spec) (rg : BitVec 4)
  /-- RREL (R104). Releases the oldest consume claim of a ring. -/
  | rrel (cm : Common) (rg : BitVec 4)
  /-- RSTAT (R105). Reads a snapshot of a ring's state. -/
  | rstat (cm : Common) (d : Spec) (rg : BitVec 4)
  /-- WDOG (R111). Reads the last wait count and sets a one-shot watchdog limit. -/
  | wdog (cm : Common) (d : Spec) (n : BitVec 24)
  /-- LDS (R130). Loads 1 to 8 bytes from scratchpad. -/
  | lds (cm : Common) (d a : Spec) (size : BitVec 2) (sx : Bool) (off : BitVec 22)
  /-- STS (R130). Stores 1 to 8 bytes to scratchpad. -/
  | sts (cm : Common) (d a : Spec) (size : BitVec 2) (off : BitVec 22)
  /-- VLD_ADDRESS (R131). Loads a 256-byte scratchpad line at an address into a tile line. -/
  | vldAddress (cm : Common) (d : TileLine) (a : Spec) (tag : BitVec 5) (off : BitVec 7)
  /-- VLD_GENERATOR (R131). Pops a generator line into a tile line. -/
  | vldGenerator (cm : Common) (d : TileLine) (g : BitVec 3) (tag : BitVec 5)
  /-- VST_ADDRESS (R131). Stores a tile line to a 256-byte scratchpad line at an address. -/
  | vstAddress (cm : Common) (d : Spec) (a : TileLine) (off : BitVec 7)
  /-- VST_GENERATOR (R131). Pushes a tile line into a write generator. -/
  | vstGenerator (cm : Common) (g : BitVec 3) (a : TileLine)
  /-- GSET (R134). Configures an address generator from a parameter record. -/
  | gset (cm : Common) (g : BitVec 4) (a : Spec)
  /-- GPOS (R135). Sets a generator's position and empties its buffer. -/
  | gpos (cm : Common) (g : BitVec 4) (a : Spec)
  /-- GENSTAT (R137). Reads a generator's status snapshot. -/
  | genstat (cm : Common) (d : Spec) (g : BitVec 4)
  /-- ZZERO (R138). Sets a run of tiles UNTYPED and clears their written bits. -/
  | zzero (cm : Common) (tile countM1 : BitVec 6)
  /-- ZINFO (R139). Reads a tile's tag, written rows and dirty bit. -/
  | zinfo (cm : Common) (d : Spec) (tile : BitVec 6)
  /-- LD (R169). Loads from device, host or peer memory. -/
  | ld (cm : Common) (d a : Spec) (size : BitVec 2) (sx : Bool) (off : BitVec 22)
  /-- ST (R169). Stores to device memory. -/
  | st (cm : Common) (d a : Spec) (size : BitVec 2) (off : BitVec 22)
  /-- LDA (R170). Loads at home and acquires at a scope. -/
  | lda (cm : Common) (d a : Spec) (scope : BitVec 4) (width : BitVec 2)
  /-- STL (R170). Releases at a scope and stores to device memory. -/
  | stl (cm : Common) (a b : Spec) (scope : BitVec 4) (width : BitVec 2)
  /-- AMO (R171). Atomic read-modify-write that returns the old value, acquiring and releasing. -/
  | amo (cm : Common) (d a b : Spec) (scope : BitVec 4) (op : AmoOp) (width : BitVec 2)
  /-- CAS (R172). Atomic compare and swap. -/
  | cas (cm : Common) (d : BitVec 5) (a b : Spec) (scope : BitVec 4) (width : BitVec 2)
  /-- RED (R171). Atomic reduction with release and no result. -/
  | red (cm : Common) (a b : Spec) (scope : BitVec 4) (op : AmoOp) (width : BitVec 2)
  /-- FENCE (R175). Waits for engine commands and releases, acquires, or orders code, by its kinds. -/
  | fence (cm : Common) (scope : BitVec 4) (kinds : BitVec 3)
  /-- SCSET (R176). Writes a scope entry's members and advances its generation. -/
  | scset (cm : Common) (n : BitVec 4) (a d : Spec)
  /-- SCGET (R177). Reads a scope entry's core mask or slice word. -/
  | scget (cm : Common) (d : Spec) (n : BitVec 4) (slices : Bool)
  /-- CPUSH (R196). Checks a copy command and queues it. -/
  | cpush (cm : Common) (d : Spec) (q : Bool) (a : Spec)
  /-- CPOP (R197). Pops a completion record and acquires the command's writes. -/
  | cpop (cm : Common) (d : Spec) (q : Bool)
  /-- CPEEK (R198). Reads the oldest completion record without popping it. -/
  | cpeek (cm : Common) (d : Spec) (q : Bool)
  /-- CCHAIN (R199). Sets a queue's chain pointer and starts the chain running. -/
  | cchain (cm : Common) (q : Bool) (a : Spec) (spad : Bool)
  /-- CKICK (R200). Adds credit to a queue's chain. -/
  | ckick (cm : Common) (q : Bool) (a : Spec) (n : BitVec 16)
  /-- CQSTAT (R201). Reads a copy queue's status snapshot. -/
  | cqstat (cm : Common) (d : Spec) (q : Bool)
  /-- CABORT (R202). Aborts one command or a whole copy queue and parks its chain. -/
  | cabort (cm : Common) (q : Bool) (a : Spec)
  /-- CVT (R224). Converts one part of a line between formats. -/
  | cvt (cm : Common) (d a : TileLine) (tag : BitVec 5) (part : BitVec 3) (sat : Bool) (p : BitVec 3)
  /-- CVTR (R225). Converts FP32 elements with stochastic rounding. -/
  | cvtr (cm : Common) (d a b : TileLine) (p : BitVec 3)
  /-- QMX (R226). Quantises blocks to an MXI format and writes the scale word. -/
  | qmx (cm : Common) (d a : TileLine) (sc : BitVec 5) (prec : BitVec 3) (part : BitVec 2) (fit : Bool)
  /-- DQMX (R227). Decodes one part of an MXI line to a floating format. -/
  | dqmx (cm : Common) (d a : TileLine) (sc : Spec) (fmt part : BitVec 2) (p : BitVec 3)
  /-- PACK (R228). Narrows two lines into one. -/
  | pack (cm : Common) (d a b : TileLine) (p : BitVec 3)
  /-- UNPACK (R229). Widens half of a line into a line. -/
  | unpack (cm : Common) (d a : TileLine) (tag : BitVec 5) (hi : Bool) (p : BitVec 3)
  /-- ZTAG (R230). Sets a tile's format tag. -/
  | ztag (cm : Common) (tile : BitVec 6) (tag : BitVec 5)
  /-- ZTAGR (R231). Sets a tile's tag from registers and returns the old tag. -/
  | ztagr (cm : Common) (d a b : Spec)
  /-- VFADD (R239). Floating-point element-wise add. -/
  | vfadd (cm : Common) (d a b : Line) (p : BitVec 3)
  /-- VFSUB (R239). Floating-point element-wise subtract. -/
  | vfsub (cm : Common) (d a b : Line) (p : BitVec 3)
  /-- VFMUL (R239). Floating-point element-wise multiply. -/
  | vfmul (cm : Common) (d a b : Line) (p : BitVec 3)
  /-- VFMA (R240). Multiply-add, fused under NBV 2 and unfused under NBV 1. -/
  | vfma (cm : Common) (d : TileLine) (a b : Line) (p : BitVec 3)
  /-- VFMS (R240). Multiply-subtract. -/
  | vfms (cm : Common) (d : TileLine) (a b : Line) (p : BitVec 3)
  /-- VFNMA (R240). Negated multiply plus addend. -/
  | vfnma (cm : Common) (d : TileLine) (a b : Line) (p : BitVec 3)
  /-- VFMIN (R239). Element-wise minimumNumber. -/
  | vfmin (cm : Common) (d a b : Line) (p : BitVec 3)
  /-- VFMAX (R239). Element-wise maximumNumber. -/
  | vfmax (cm : Common) (d a b : Line) (p : BitVec 3)
  /-- VFABS (R241). Clears the sign bit of each element. -/
  | vfabs (cm : Common) (d a : Line) (p : BitVec 3)
  /-- VFNEG (R241). Inverts the sign bit of each element. -/
  | vfneg (cm : Common) (d a : Line) (p : BitVec 3)
  /-- VFSCALE (R239). Scales each element by a power of two from b. -/
  | vfscale (cm : Common) (d a b : Line) (p : BitVec 3)
  /-- VFRCP (R242). Correctly rounded reciprocal. -/
  | vfrcp (cm : Common) (d a : Line) (p : BitVec 3)
  /-- VFRSQ (R242). Correctly rounded reciprocal square root. -/
  | vfrsq (cm : Common) (d a : Line) (p : BitVec 3)
  /-- VFSQRT (R242). Correctly rounded square root. -/
  | vfsqrt (cm : Common) (d a : Line) (p : BitVec 3)
  /-- VFEXP2 (R242). Correctly rounded power of two. -/
  | vfexp2 (cm : Common) (d a : Line) (p : BitVec 3)
  /-- VFLOG2 (R242). Correctly rounded base-2 logarithm. -/
  | vflog2 (cm : Common) (d a : Line) (p : BitVec 3)
  /-- VFTANH (R242). Correctly rounded hyperbolic tangent. -/
  | vftanh (cm : Common) (d a : Line) (p : BitVec 3)
  /-- VFSIGM (R242). Correctly rounded logistic sigmoid. -/
  | vfsigm (cm : Common) (d a : Line) (p : BitVec 3)
  /-- VFCMP (R243). Floating-point compare into a predicate. -/
  | vfcmp (cm : Common) (pd cond : BitVec 3) (a b : Line) (p : BitVec 3)
  /-- VFRED (R244). Fixed-tree floating-point reduction into element 0. -/
  | vfred (cm : Common) (d : TileLine) (a : Line) (op : RedOp) (p : BitVec 3)
  /-- VFSCAN (R245). Inclusive floating-point scan in ascending order. -/
  | vfscan (cm : Common) (d a : Line) (op : RedOp) (p : BitVec 3)
  /-- VIADD (R246). Integer element-wise add. -/
  | viadd (cm : Common) (d a b : Line) (p : BitVec 3)
  /-- VISUB (R246). Integer element-wise subtract. -/
  | visub (cm : Common) (d a b : Line) (p : BitVec 3)
  /-- VIMUL (R246). Integer element-wise multiply, low half. -/
  | vimul (cm : Common) (d a b : Line) (p : BitVec 3)
  /-- VIMULH (R246). Integer element-wise multiply, high half. -/
  | vimulh (cm : Common) (d a b : Line) (p : BitVec 3)
  /-- VIMIN (R246). Integer element-wise minimum. -/
  | vimin (cm : Common) (d a b : Line) (p : BitVec 3)
  /-- VIMAX (R246). Integer element-wise maximum. -/
  | vimax (cm : Common) (d a b : Line) (p : BitVec 3)
  /-- VIAND (R246). Element-wise AND. -/
  | viand (cm : Common) (d a b : Line) (p : BitVec 3)
  /-- VIOR (R246). Element-wise OR. -/
  | vior (cm : Common) (d a b : Line) (p : BitVec 3)
  /-- VIXOR (R246). Element-wise XOR. -/
  | vixor (cm : Common) (d a b : Line) (p : BitVec 3)
  /-- VISHL (R246). Element-wise left shift. -/
  | vishl (cm : Common) (d a b : Line) (p : BitVec 3)
  /-- VISHR (R246). Element-wise arithmetic right shift. -/
  | vishr (cm : Common) (d a b : Line) (p : BitVec 3)
  /-- VICMP (R243). Integer compare into a predicate. -/
  | vicmp (cm : Common) (pd cond : BitVec 3) (a b : Line) (p : BitVec 3)
  /-- VIRED (R244). Fixed-tree integer reduction into element 0. -/
  | vired (cm : Common) (d : TileLine) (a : Line) (op : IRedOp) (p : BitVec 3)
  /-- VIADDS (R246). Saturating integer add. -/
  | viadds (cm : Common) (d a b : Line) (p : BitVec 3)
  /-- VSEL (R247). Selects elements of a or b by a predicate. -/
  | vsel (cm : Common) (d a b : Line) (p : BitVec 3)
  /-- VMOV (R247). Copies governed elements unchanged. -/
  | vmov (cm : Common) (d a : Line) (p : BitVec 3)
  /-- VBCAST_LINE (R248). Broadcasts one element of a line. -/
  | vbcastLine (cm : Common) (d a : Line) (index : BitVec 9) (p : BitVec 3)
  /-- VBCAST_SCALAR (R248). Broadcasts the low bits of a scalar. -/
  | vbcastScalar (cm : Common) (d : Line) (sc : Spec) (tag : BitVec 5) (p : BitVec 3)
  /-- VEXT_INDEX (R249). Extracts the element at an immediate index to a scalar. -/
  | vextIndex (cm : Common) (d : Spec) (a : Line) (index : BitVec 9)
  /-- VEXT_SCALAR (R249). Extracts the element at a register index to a scalar. -/
  | vextScalar (cm : Common) (d : Spec) (a : Line) (sc : Spec)
  /-- VINS_INDEX (R249). Inserts a scalar at an immediate element index. -/
  | vinsIndex (cm : Common) (d : TileLine) (a : Spec) (index : BitVec 9)
  /-- VINS_SCALAR (R249). Inserts a scalar at a register element index. -/
  | vinsScalar (cm : Common) (d : TileLine) (a sc : Spec)
  /-- VSHUF (R250). Permutes elements of a by indices in b. -/
  | vshuf (cm : Common) (d a b : Line) (p : BitVec 3)
  /-- VARGMAX (R251). Writes the index of the greatest governed element. -/
  | vargmax (cm : Common) (d : Spec) (a : Line) (p : BitVec 3)
  /-- VRNG (R252). Generates a line of random words and advances RNG.CTR. -/
  | vrng (cm : Common) (d : Line) (p : BitVec 3)
  /-- PLOP_LOGICAL (R253). Combines two predicates through a truth table. -/
  | plopLogical (cm : Common) (pd pa pb : BitVec 3) (table : BitVec 4)
  /-- PLOP_FIRST (R253). Sets the first n bits of a predicate. -/
  | plopFirst (cm : Common) (pd : BitVec 3) (a : Spec)
  /-- PCNT (R254). Counts or finds the first one bit of two ANDed predicates. -/
  | pcnt (cm : Common) (d : Spec) (pa pb : BitVec 3) (first : Bool)
  /-- MSHAPE (R262). Checks and writes the matrix shape register. -/
  | mshape (cm : Common) (shape : Word)
  /-- MMA (R264). Block-integer matrix multiply-accumulate into FP32 tiles. -/
  | mma (cm : Common) (acc : BitVec 6) (ga gb : BitVec 3) (bo : Spec) (init : Bool)
  /-- MMAS (R269). Matrix multiply-accumulate with sparse B. -/
  | mmas (cm : Common) (acc : BitVec 6) (ga gb : BitVec 3) (bo : Spec) (init : Bool)
  /-- MMAC (R275). One member's part of a co-operating quad's joint multiply. -/
  | mmac (cm : Common) (acc : BitVec 6) (ga gb : BitVec 3) (bo : Spec) (init : Bool)
  /-- MZERO (R272). Sets four accumulator tiles to FP32 zero. -/
  | mzero (cm : Common) (acc : BitVec 6) (bo : Spec)
  /-- MPLANE (R270). Turns one 32-K block held in tiles into plane records. -/
  | mplane (cm : Common) (acc : BitVec 6) (ga : BitVec 3) (bo : Spec) (fmt block : BitVec 3)
  /-- MSPACK (R271). Packs a 64-K group of dense B into a sparse stream. -/
  | mspack (cm : Common) (acc : BitVec 6) (ga : BitVec 3) (bo : Spec) (fmt : BitVec 3) (group : BitVec 2)
  /-- OQBIND (R273). Binds four cores of a cluster into a co-operating quad. -/
  | oqbind (cm : Common) (a : Spec) (role : BitVec 2)
  /-- OQUNBIND (R274). Leaves a quad binding after its joint operations retire. -/
  | oqunbind (cm : Common)
  /-- MSTAT (R280). Reads the shape, engine status or binding word. -/
  | mstat (cm : Common) (d : Spec) (item : BitVec 2)
  /-- FEEDPOP (R300). Pops a feed record into scratchpad. -/
  | feedpop (cm : Common) (d : Spec) (f : BitVec 4) (a : Spec)
  /-- FEEDPUSH (R301). Appends a feed record or submits a launch record. -/
  | feedpush (cm : Common) (d : Spec) (f : BitVec 4) (a : Spec) (nowait : Bool)
  /-- FEEDSTAT (R302). Reads a feed queue's status. -/
  | feedstat (cm : Common) (d : Spec) (f : BitVec 4)
  /-- TASKPUSH (R303). Pushes a tile-task record with its dependences. -/
  | taskpush (cm : Common) (d : Spec) (t : BitVec 4) (a : Spec)
  /-- TASKPOP (R304). Takes the rerun task or the oldest buffered task as current. -/
  | taskpop (cm : Common) (d a : Spec)
  /-- TASKDONE (R305). Ends or marks for rerun the current task and signals its counter. -/
  | taskdone (cm : Common) (rerun : Bool)
  /-- SLEEP (R306). Waits until a named queue or task is available. -/
  | sleep (cm : Common) (d : Spec) (mask : BitVec 16) (task : Bool)
  /-- FORK (R308). Opens a sample group and appends k continuation records. -/
  | fork (cm : Common) (d : Spec) (f : BitVec 4) (a : Spec)
  /-- GARRIVE (R309). Posts a sibling's reward to its group. -/
  | garrive (cm : Common) (a idx rew : Spec)
  /-- GWAIT (R311). Waits for group completion and reads an advantage. -/
  | gwait (cm : Common) (d a idx : Spec)
  /-- GCANCEL (R310). Cancels one or all siblings of a group. -/
  | gcancel (cm : Common) (a idx : Spec)
  /-- GRPSTAT (R312). Reads word 0 of a group descriptor. -/
  | grpstat (cm : Common) (d a : Spec)
  /-- PWRACQ (R327). Requests a power level, waiting or returning at once. -/
  | pwracq (cm : Common) (d : Spec) (level : BitVec 4) (nowait : Bool)
  /-- PWRREL (R328). Lowers the context's power level. -/
  | pwrrel (cm : Common) (level : BitVec 4)
  /-- PWRQ (R329). Reads the context, partition or cluster power word. -/
  | pwrq (cm : Common) (d : Spec) (item : BitVec 2)
  /-- TRAP (R348). Raises SOFT_TRAP with a code and argument. -/
  | trap (cm : Common) (a : Spec) (code : BitVec 16)
  /-- BRK (R349). Raises BREAK before issue. -/
  | brk (cm : Common) (code : BitVec 16)
  /-- HCALL (R350). Stops the context for a firmware call that supplies a result. -/
  | hcall (cm : Common) (d : BitVec 5) (a : Spec) (code : BitVec 16)
  /-- TRET (R351). Returns from the trap handler and restarts all four sequencers. -/
  | tret (cm : Common)
  /-- BUDGET (R352). Sets the soft budget and returns its old value. -/
  | budget (cm : Common) (d a : Spec) (n : BitVec 28)
  /-- DISCARD (R353). Marks tiles or scratchpad lines that a later image need not keep. -/
  | discard (cm : Common) (a d : Spec) (kind : BitVec 2)
  /-- IFENCE (R354). Invalidates the sequencer's code ring and prepared fetches. -/
  | ifence (cm : Common)
  /-- YIELD (R355). Pre-empts its own context when another waits for the core. -/
  | yield (cm : Common)
  /-- RFETCH (R382). Fetches the next command entry of a bound ring into the slot buffer. -/
  | rfetch (rd rs1 : BitVec 5)
  /-- BFEXT (R383). Extracts a bit field as BFX does. -/
  | bfext (rd rs1 rs2 : BitVec 5)
  /-- SWAIT (R384). Sleeps until a masked signal group word is non-zero or an interrupt arrives. -/
  | swait (rd rs1 rs2 : BitVec 5)
  /-- PCLR (R385). Clears a ring's pending bit and age. -/
  | pclr (rs1 : BitVec 5)
  /-- DISPATCH (R386). Appends a firmware record or submits a launch record to a Bazaar queue. -/
  | dispatch (rd rs1 rs2 : BitVec 5)
  /-- QSAVE (R388). Saves a bound slot's ring as a QCB and unbinds it. -/
  | qsave (rd rs1 rs2 : BitVec 5)
  /-- QLOAD (R388). Checks a QCB and binds its ring to a slot. -/
  | qload (rd rs1 rs2 : BitVec 5)
  /-- QBIND (R388). Binds a ring to a slot from Kiosk state. -/
  | qbind (rd rs1 rs2 : BitVec 5)
  /-- INSTRUCTION_RETIRE (R27). An issued instruction retires, dropping held tokens, pushing reserved tokens and setting es. -/
  | instructionRetire (core slot : Nat) (y : Sq)
  /-- CODE_FETCH (R45). The fetch unit reads a 128 B code line into a code ring, holding any fault with the line. -/
  | codeFetch (core slot : Nat) (y : Sq) (line : Nat)
  /-- WAIT_TIMEOUT (R110). A coupling wait exceeds its watchdog limit and the word traps. -/
  | waitTimeout (core slot : Nat) (y : Sq)
  /-- TRAP_ENTRY (R339). A trapping word stops the context precisely and delivers the cause. -/
  | trapEntry (core slot : Nat)
  /-- BUDGET_EXPIRY (R352). BUDGET.LEFT falls to zero and the context traps BUDGET. -/
  | budgetExpiry (core slot : Nat)
  /-- GENERATOR_REFILL (R136). A read generator reads its next line into its buffer. -/
  | generatorRefill (core slot g : Nat)
  /-- SCRUB_PASS (R141). The scrubber reads and corrects tile, scratchpad and L2 words. -/
  | scrubPass (core corrTile corrSpad : Nat) (found : ScrubFound)
  /-- LEASE_EXPIRY (R150). A lease-cache copy is dropped 4,096 cycles after its fill. -/
  | leaseExpiry (core line : Nat)
  /-- TIME_REBASE (R151). A device-wide quiesce rebases all logical times and empties lease caches. -/
  | timeRebase (amount : Nat)
  /-- TABLE_WALK (R363). A translation walk reads entries in T and returns a translation or a fault. -/
  | tableWalk (core slot : Nat) (va : VA) (acc : Access)
  /-- PAGE_MIGRATION_SWITCH (R369). After invalidation, held writes go to the new copy and the page lock is released. -/
  | pageMigrationSwitch (page dest : Nat) (lock : Bool)
  /-- LAZY_PAGE_LOAD (R439). Daybreak fetches, checks and maps a lazily loaded page and wakes its waiters. -/
  | lazyPageLoad (guest ia : Nat)
  /-- COPY (R184). A copy command starts once at its queue head with its ring claims and moves its elements. -/
  | copy (core slot q seq n : Nat)
  /-- GATHER (R184). A copy whose outermost source offsets come from an index list. -/
  | gather (core slot q seq n : Nat)
  /-- SCATTER (R184). A copy whose outermost destination offsets come from an index list. -/
  | scatter (core slot q seq n : Nat)
  /-- REDUCE (R184). Applies a reduction of each source element at the destination's bank unit. -/
  | reduce (core slot q seq n : Nat)
  /-- FILL (R184). Writes a pattern into every destination element. -/
  | fill (core slot q seq n : Nat)
  /-- CHAIN_FETCH (R193). The engine fetches and validates the next chain entry and queues it or follows a link. -/
  | chainFetch (core slot q : Nat)
  /-- COMMAND_COMPLETE (R190). A command completes: barrier object, ring release and post, events and record. -/
  | commandComplete (core slot q seq : Nat)
  /-- ENGINE_TIMEOUT (R187). A host or peer element receives no completion within 1 ms and ends with TIMEOUT. -/
  | engineTimeout (core slot q seq : Nat)
  /-- MATRIX_COMPLETE (R268). A matrix instruction finishes its blocks, writes its barrier object and retires. -/
  | matrixComplete (core slot n : Nat) (residue : Bool)
  /-- JOINT_OPERATION_START (R275). A quad's joint MMAC starts when all four members have issued with matching shapes. -/
  | jointOperationStart (core slot : Nat)
  /-- LAUNCH (R284). Bazaar accepts a launch record, checks it and places instances or rejects it. -/
  | launch (queue : Nat)
  /-- INSTANCE_BIND (R288). An instance binds to a context once its core has room. -/
  | instanceBind (launch inst : Nat)
  /-- INSTANCE_COMPLETE (R114). After all four ENDs and engine completions, the context discards its channels and ends. -/
  | instanceComplete (core slot : Nat)
  /-- LAUNCH_COMPLETION_POST (R285). Bazaar posts a launch completion record once there is room. -/
  | launchCompletionPost (launch : Nat)
  /-- DEPENDENCE_MET (R294). A bank unit finds a task dependence met and reports it to Bazaar. -/
  | dependenceMet (task : Nat)
  /-- TASK_PLACE (R295). Bazaar pushes a ready task into a prefetch buffer on its owner core. -/
  | taskPlace (task : Nat)
  /-- TASK_AGEING_EXPIRY (R296). A ready task's ageing interval ends and it becomes stealable. -/
  | taskAgeingExpiry (task : Nat)
  /-- TASK_STEAL (R296). Bazaar moves a stealable task to an idle core's buffer. -/
  | taskSteal (task core slot : Nat)
  /-- GROUP_TIMEOUT (R313). A group's elapsed clock reaches its timeout and pending siblings time out. -/
  | groupTimeout (pa : Nat)
  /-- GROUP_COMPLETE (R314). The home computes advantages and writes the completed group descriptor. -/
  | groupComplete (pa : Nat)
  /-- POWER_GRANT (R323). The controller grants a waiting power request from own or loaned units. -/
  | powerGrant (core slot : Nat)
  /-- LOAN_RECLAIM (R325). Loaned units are reclaimed and borrowers' effective levels lowered. -/
  | loanReclaim (partition : Nat)
  /-- LOAN_RESTORE (R325). Reduced loans are made whole again as units free. -/
  | loanRestore (partition : Nat)
  /-- CLOCK_REQUEST (R332). A write of go to PWR.CLK is checked and accepted or denied. -/
  | clockRequest (cluster : Nat) (v : Word)
  /-- CLOCK_SWITCH (R332). A cluster switches to its newly locked PLL once the rail allows. -/
  | clockSwitch (cluster : Nat)
  /-- VOTE_WITHDRAW (R332). A lowered voltage vote is withdrawn 100 µs after the switch. -/
  | voteWithdraw (cluster : Nat)
  /-- RAIL_HOLD_EXPIRY (R331). A rail's 100 µs hold ends and it ramps down to the highest vote. -/
  | railHoldExpiry (rail : Nat)
  /-- RAIL_MOVE (R331). A write of go to PWR.RAIL moves a cluster to another rail or is refused. -/
  | railMove (cluster : Nat) (v : Word)
  /-- STALL_SAMPLE (R334). At each 10 µs sample the stall counters are copied to PWR.STALL and cleared. The cycles in which
  arbitration kept every awake sequencer from the data port come with it; State counts the others. -/
  | stallSample (cluster : Nat) (active : Unit) (mem : Nat) (pwr : Unit)
  /-- PWR_STALL_READ (R334). A read of PWR.STALL clears its fresh bit. -/
  | pwrStallRead (cluster half : Nat)
  /-- THERMAL_SAMPLE (R336). The controller reads the junction sensors every 10 µs. -/
  | thermalSample (temps : List Nat)
  /-- THROTTLE_STEP (R336). Every 100 µs a throttled cluster's frequency steps down or back up. -/
  | throttleStep (cluster : Nat)
  /-- TRIP_RESUME (R337). Vesper writes resume to PWR.TRIP and clocks restart at 600 MHz. -/
  | tripResume (by_ : Writer)
  /-- IDLE_ENTRY (R338). Vesper moves the part to IDLE after the idle interval passes quiet. -/
  | idleEntry
  /-- IDLE_EXIT (R338). A kick, dispatch, stream period or access returns the part to ACTIVE. -/
  | idleExit
  /-- WAKE_INPUT_RISE (R338). The wake input rises and the part leaves RETENTION. -/
  | wakeInputRise
  /-- WAKE_INPUT_FALL (R338). The wake input falls and the part enters RETENTION. -/
  | wakeInputFall
  /-- SUPPLY_REMOVAL (R338). Removal of supply puts the part in OFF. -/
  | supplyRemoval
  /-- PREEMPT_REQUEST (R357). A pre-emption is requested and the context stops at boundaries. -/
  | preemptRequest (core slot : Nat) (why : StopWhy) (blocks : Nat)
  /-- CONTEXT_SAVE (R358). At its stop point the context image is written to its save area. -/
  | contextSave (core slot : Nat)
  /-- CONTEXT_RESTORE (R360). A saved context is placed with its grant and its image written back. -/
  | contextRestore (saved : Nat)
  /-- XLATE_INV (R367). A write of go to XLATE.INV starts a TLB and walk-cache invalidation. -/
  | xlateInv (v : Word)
  /-- INVALIDATION_COMPLETE (R367). Matching entries and in-flight users are gone and busy clears. -/
  | invalidationComplete
  /-- KICK (R375). A tail value written to a ring is stored and may set pending. -/
  | kick (ring tail : Nat)
  /-- RING_CONFIG_WRITE (R374). A driver or firmware write of a ring's configuration fields. -/
  | ringConfigWrite (by_ : Writer) (ring off size : Nat) (v : Word)
  /-- AGE_TICK (R376). Every 100 µs Kiosk ages each pending unbound ring. -/
  | ageTick
  /-- COMPLETION_ENTRY_WRITE (R379). A completion-ring entry is written once space frees, or held and counted on overflow. -/
  | completionEntryWrite (guest : Nat)
  /-- EVENT_RECORD_POST (R389). A fault, resumable stop or HCALL is written into the firmware core's event ring. -/
  | eventRecordPost (fw : Nat)
  /-- FW_ANSWER_RESUME (R390). A FW.ANSWER write with action resume restores the context. -/
  | fwAnswerResume (ticket : Nat)
  /-- FW_ANSWER_DISCARD (R390). A FW.ANSWER write with action discard treats the event as fatal. -/
  | fwAnswerDiscard (ticket : Nat)
  /-- FW_ANSWER_RESULT (R390). A FW.ANSWER write that resumes an HCALL with FW.RESULT. -/
  | fwAnswerResult (ticket : Nat)
  /-- CONTRACT_WRITE (R391). A write to GUEST[g], taking effect at the next frame or at once for roots and weight. -/
  | contractWrite (by_ : Writer) (guest off size : Nat) (v : Word)
  /-- WAY_CHG (R398). A write of go to WAY.CHG applies a guest's way masks. -/
  | wayChg (guest : Nat)
  /-- PARTITION_CONFIG_WRITE (R393). A write to PART[p] window configuration, taken or refused with err. -/
  | partitionConfigWrite (part off : Nat) (access : RegAccess) (v : Word)
  /-- QUEUE_CONFIG_WRITE (R397). A write to BZ.QCFG[q] creating or changing a Bazaar queue. -/
  | queueConfigWrite (queue off : Nat) (access : RegAccess) (v : Word)
  /-- WINDOW_BOUNDARY (R394). At a window boundary contexts of unadmitted guests are pre-empted and admitted work bound. -/
  | windowBoundary (part : Nat)
  /-- TILE_TIME_EXHAUSTED (R395). A guest's tile-time charge reaches its limit and its contexts are pre-empted. -/
  | tileTimeExhausted (guest : Nat)
  /-- PART_MOVE_PAIRS (R400). A PART.MOVE of kind lending pairs runs its eight steps. -/
  | partMovePairs (src dst : Nat) (mask : BitVec 32)
  /-- PART_MOVE_SLICES (R400). A PART.MOVE of kind slices runs its eight steps. -/
  | partMoveSlices (src dst : Nat) (mask : BitVec 32)
  /-- PART_MOVE_CHANNELS (R400). A PART.MOVE of kind channel pairs runs its eight steps. -/
  | partMoveChannels (src dst : Nat) (mask : BitVec 32)
  /-- PART_MOVE_LANES (R400). A PART.MOVE of kind lanes runs its eight steps. -/
  | partMoveLanes (src dst : Nat) (mask : BitVec 32) (lane : Nat)
  /-- FUNCTION_LEVEL_RESET (R401). A PCIe FLR of a function starts a guest reset. -/
  | functionLevelReset (fn : Nat)
  /-- VF_RESET (R401). A write of go to VF.RESET in PF0's BAR0 resets a virtual function's guest. -/
  | vfReset (vf : Nat)
  /-- GUEST_RESET (R432). The side-band or mailbox command that resets guest g from either side. -/
  | guestReset (side : Side) (guest : Nat)
  /-- MEMORY_TEMP_SAMPLE (R402). Every 1 ms a controller reads channel temperature and sets refresh and bucket rates. -/
  | memoryTempSample (ctrl temp rate : Nat)
  /-- REGISTER_WRITE (R5). A write to a control register without a row of its own, following its access codes. -/
  | registerWrite (by_ : Writer) (addr size : Nat) (v : Word)
  /-- WINDOW_READ (R424). A host read through BAR2 is translated and served in T. -/
  | windowRead (fn off size : Nat)
  /-- WINDOW_WRITE (R424). A host posted write through BAR2 is translated and enters T. -/
  | windowWrite (fn off : Nat) (bytes : List Byte)
  /-- CQ_HEAD_WRITE (R425). A write of CQ.HEAD re-arms the completion interrupt. -/
  | cqHeadWrite (fn head : Nat)
  /-- HOST_LINK_DOWN (R432). The host link goes down, ending the host's command lock. -/
  | hostLinkDown
  /-- PEER_WRITE (R428). An incoming peer write enters the local T as an engine write. -/
  | peerWrite (addr : Nat) (bytes : List Byte)
  /-- PEER_ATOMIC (R428). An incoming peer atomic executes at the home bank unit. -/
  | peerAtomic (addr : Nat) (op : Option AmoOp) (width : BitVec 2) (v expect : Word)
  /-- WALZEL_LINK_DOWN (R428). A Walzel link fails and its elements in flight end with LINK. -/
  | walzelLinkDown (link : Nat)
  /-- CAMERA_FRAME (R430). A camera frame ends in its slot and a kind 2 record is appended. -/
  | cameraFrame (stream : Nat) (bytes : List Byte)
  /-- CAMERA_PERIOD_END (R430). A camera period ends without a frame and a missing record is appended. -/
  | cameraPeriodEnd (stream : Nat)
  /-- DISPLAY_PERIOD_START (R430). A display pipe pops posted frames, scans the newest and appends its record. -/
  | displayPeriodStart (stream : Nat)
  /-- MBOX_GO (R431). A write of go to the PF0 mailbox submits a Vesper command. -/
  | mboxGo
  /-- GET_STATUS (R431). Returns power state, partitions and link states. -/
  | getStatus (side : Side)
  /-- LOCK_ACQUIRE (R432). Takes the command lock for the requesting side. -/
  | lockAcquire (side : Side)
  /-- LOCK_RELEASE (R432). Gives up the command lock. -/
  | lockRelease (side : Side)
  /-- PART_MOVE (R431). Side-band command that starts a partition move. -/
  | partMove (side : Side) (v : Word)
  /-- STREAM_SET (R431). Side-band command that writes a stream context. -/
  | streamSet (side : Side) (stream : Nat) (v : List Byte)
  /-- POWER_SET (R431). Side-band command that sets rail votes and cluster clocks. -/
  | powerSet (side : Side) (votes : List (Nat × Nat)) (clocks : List (Nat × Word))
  /-- POWER_STATE (R338). Side-band command that moves the part or partitions to a power state. -/
  | powerState (side : Side) (target mask idle : Nat)
  /-- DEBUG_UNLOCK (R443). Returns a nonce or checks a signed token and changes the debug state. -/
  | debugUnlock (side : Side) (token : List Byte)
  /-- NONCE_EXPIRY (R443). A debug nonce expires 60 s after it was answered. -/
  | nonceExpiry
  /-- DEBUG_ACCESS (R444). A debugger access to an unlocked context, waking the part from IDLE. -/
  | debugAccess (core slot : Nat) (op : DebugOp)
  /-- GET_VERSION (R441). SPDM request for supported versions. -/
  | getVersion
  /-- GET_CAPABILITIES (R441). SPDM request for capabilities. -/
  | getCapabilities
  /-- NEGOTIATE_ALGORITHMS (R441). SPDM algorithm negotiation. -/
  | negotiateAlgorithms (slots : Nat)
  /-- GET_DIGESTS (R441). SPDM request for certificate chain digests. -/
  | getDigests
  /-- GET_CERTIFICATE (R441). SPDM request for a certificate chain. -/
  | getCertificate (chain : Nat)
  /-- CHALLENGE (R441). SPDM challenge signed with the slot's key. -/
  | challenge (chain : Nat) (nonce : List Byte)
  /-- GET_MEASUREMENTS (R441). SPDM request for measurement blocks and the debug word. -/
  | getMeasurements (chain block : Nat) (sign : Bool)
  /-- KEY_EXCHANGE (R441). SPDM session key exchange. -/
  | keyExchange (chain : Nat) (data : List Byte)
  /-- FINISH (R441). SPDM session establishment finish. -/
  | finish (session : Nat)
  /-- END_SESSION (R441). Ends an SPDM session. -/
  | endSession (session : Nat)
  /-- KEY_ON_BOOT (R433). Daybreak verifies and measures the manifest and images and releases firmware. -/
  | keyOnBoot
  /-- WALZEL_LINK_UP (R427). A Walzel link finishes training and begins to carry flits, setting WZ.STAT.up. -/
  | walzelLinkUp (link width : Nat)
  /-- HOST_LINK_UP (R421). The PCIe host link trains up at some width and rate and the host can reach the functions again. -/
  | hostLinkUp (width rate : Nat)
  /-- CRC_FAILURE (R427). A flit on a Walzel link fails its CRC, is replayed, and the replays and crc_errors counts rise. -/
  | crcFailure (link : Nat)
  /-- PEER_READ (R427). An incoming read from the peer part reaches local device memory through the peer window. -/
  | peerRead (addr size : Nat)
  /-- RAIL_RAMP_COMPLETE (R414). A rail's ramp reaches the highest vote, and charges that were held at the higher voltage fall to the new one. -/
  | railRampComplete (rail : Nat)
  deriving DecidableEq, Repr, Inhabited

/-- What moves: a sequencer at its head word, a scheduler core at its next instruction, or a step
of another agent. -/
inductive Act where
  | issue (core slot : Nat) (y : Sq)
  | fw (core : Nat)
  | vesper
  | event (i : Instr)
  deriving DecidableEq, Repr, Inhabited

/-- One entry of the order in which the agents move: the microseconds and the cycles of the moving
core's clock that pass before the act, and the act. DESIGN CHOICE, safe: log 5. -/
structure Move where
  us : Nat
  cycles : Nat
  act : Act
  deriving DecidableEq, Repr, Inhabited

end Sys2Proof
end

