-- ==== Sys2Proof/Config.lean ====
section
/-! DEFINITION. What the spec leaves open: constants without a body, of which nothing can be
evaluated, and what an implementation fixes. notes/assumptions names each. -/
namespace Sys2Proof.Config

/-- Which agent moves next where `State.moves` names none. DEDUCED, safe: log 1. -/
opaque freeMove : Nat → Move

/-- A free value of 64 bits. DESIGN CHOICE, safe: log 18. -/
opaque freeWord : Nat → Word

/-- A free choice among finitely many (taken modulo their number). -/
opaque freeNat : Nat → Nat

/-- A free truth value. -/
opaque freeBit : Nat → Bool

/-- mvendorid, marchid, mimpid and mhartid of scheduler core 0 to 3, and of Vesper (4), by CSR number: the spec gives none
(15 R371, R373). DESIGN CHOICE, safe: log 101. -/
opaque rvIdentity : (core csr : Nat) → Word

/-- Whether 128 GiB of device memory are fitted; 64 GiB otherwise (01 R15). -/
opaque fitted128 : Bool

/-- The fuses of PWR.VFLOOR by cluster and frequency step, before the bounds of 13 R333.
DESIGN CHOICE, safe: log 11. -/
opaque vfloorFuse : Nat → Nat → Nat

/-- The fused clamp of a rail, before the bound of 13 R331. DESIGN CHOICE, safe: log 11. -/
opaque railFuse : Nat → Nat

/-- A fused floor within the bounds of 13 R333: it does not fall as the frequency rises, is at most code 40 up to
1,600 MHz, and at most code 59 at 2,000 MHz. -/
def vfloor (cluster step : Nat) : Nat :=
  (List.range (step + 1)).foldl (fun a k => max a (min (vfloorFuse cluster k) (if k ≤ 40 then 40 else 59))) 0

/-- The clamp of a rail, at most 0.90 V (13 R331, 23 Table 23.3). -/
def railClamp (rail : Nat) : Nat := min 70 (railFuse rail)

/-- The channel pair that holds a physical address; the spec gives no such map (01 R16).
DESIGN CHOICE, safe: log 63. -/
opaque channelPair : Nat → Nat

/-- The partition that owns a lending pair, a channel pair or a physical slice once boot has released Vesper (8 and
above: none); the spec gives no rule for it (15 Table 15.10). DESIGN CHOICE, safe: log 63. -/
opaque pairOwner : Nat → Nat
opaque channelOwner : Nat → Nat
opaque sliceOwner : Nat → Nat

/-- The body of a completion of kind 5, for a controller and a rate; the spec gives no layout (15 R402). -/
opaque deratedBody : Nat → Nat → Word × Word

/-! ### Boot and trust (23): the algorithms and fuses that the manual names without their contents -/

/-- SHA-512. DESIGN CHOICE, safe: log 10. -/
opaque sha512 : List Byte → BitVec 512

/-- Ed25519 and ML-DSA-65: whether a signature of a body verifies under a public key.
DESIGN CHOICE, safe: log 10. -/
opaque edVerify : (key sig body : List Byte) → Bool
opaque mldsaVerify : (key sig body : List Byte) → Bool

/-- The fused digests of the vendor's public keys, the digest of Daybreak's ROM, and the fused identity. -/
opaque edFuse : BitVec 512
opaque mldsaFuse : BitVec 512
opaque romDigest : BitVec 512
opaque uniqueId : Word

/-- Where the flash holds the digest of a node after a lazy image (23 R438): by the image's offset and length, the
node's height and its index. -/
opaque nodeOffset : (flashOff length height index : Nat) → Nat

/-- The digest with which a failed page extends MEAS14: entry index and page number (23 R440). -/
opaque failDigest : Nat → Nat → BitVec 512

/-- A Vesper command as the mailbox or MCTP carries it (22 Table 22.5). -/
inductive Request where
  | getStatus
  | lockAcquire
  | lockRelease
  | guestReset (guest : Nat)
  | partMove (v : Word)
  | streamSet (stream : Nat) (v : List Byte)
  | powerSet (votes : List (Nat × Nat)) (clocks : List (Nat × Word))
  | powerState (target mask idle : Nat)
  | debugUnlock (token : List Byte)
  deriving DecidableEq, Repr, Inhabited

/-- The command in the request bytes of the mailbox, and the local guest that they name for PF0's rings: the spec gives
the codes and not the layout (22 R422, R431). DESIGN CHOICE, safe: log 60. -/
opaque mboxDecode : List Byte → Option Request
opaque mboxGuest : List Byte → Option Nat

/-- What GET_STATUS answers after its status byte: power state, partitions switched off, links, and a failed boot's copy
and entry; the spec gives no layout. DESIGN CHOICE, safe: log 60. -/
opaque statusFormat : (power off : Nat) → (hostUp : Bool) → (wz0 wz1 : Word) → Option (Nat × Nat) → List Byte

/-- SPDM (23 R441): the bytes of a response of a code made of some fields, the certificate chain of a slot, and a
signature by a slot's key, which MEAS1 and the device secret fix. -/
opaque spdmFormat : (code : Nat) → List (List Byte) → List Byte
opaque certChain : (slot : Nat) → List Byte
opaque sign : (slot : Nat) → (meas1 : BitVec 512) → (message : List Byte) → List Byte

/-- Whether the policy section of the peer part lists a window for a partition, by base and size (15 Table 15.1b). -/
opaque peerLists : (part base size : Nat) → Bool

/-- Whether the peer part has 128 GiB of device memory fitted; 64 GiB otherwise. -/
opaque peerFitted128 : Bool

end Sys2Proof.Config
end

