-- ==== Sys2Proof/Machine/Context.lean ====
section
/-! DEFINITION. Plain data of one context: its sequencers, channels, rings, generators, tiles and
scratchpad, what its issued instructions hold, and the commands of its copy engine. -/
namespace Sys2Proof.Machine

/-- Bytes by address, in canonical form (Machine/Tbl.lean). -/
abbrev Memory := List Host.Cell

/-! ### What a carrier hands over (07 R145, R148, R156 to R163) -/

/-- The members of a scope entry (07 R163). `only` names the one context of sc0 (R164). -/
structure Members where
  cores : BitVec 64
  slices : BitVec 32
  host : Bool
  peer : Bool
  only : Option Nat
  deriving DecidableEq, Repr, Inhabited

/-- An engine command whose writes an agent has acquired, with the members of one path (R160). `direct` says that the
path is a completion and the carriers of R145 alone (R157, R158), which scratchpad needs (R162); `part` lists the
8-byte chunks of scratchpad where a gathered line acquired only the writes that formed it (R157). -/
structure Acq where
  uid : Nat
  m : Members
  direct : Bool
  part : Option (List Nat)
  deriving DecidableEq, Repr, Inhabited

/-- What an agent has acquired. -/
abbrev Know := List Acq

/-- What a carrier hands over: a program time and acquisitions (R145, R161). -/
structure Carry where
  pts : Nat
  know : Know
  deriving DecidableEq, Repr, Inhabited

/-- One entry of a channel: its value (zero for a token), what it carries, and the number of its slot in the order of
reservations, which is the model's own, for QDISC (R94). -/
structure Entry where
  v : Word
  carry : Carry
  num : Nat
  deriving DecidableEq, Repr, Inhabited

/-- A token counter, data queue or branch-outcome queue (02 R26, R37, 05 R93). `done` counts the
reserved slots that have been written or released; it is the model's own, for QDISC (R94). -/
structure Chan where
  avail : List Entry
  rsv : Nat
  held : Nat
  done : Nat
  deriving DecidableEq, Repr, Inhabited

/-- The three kinds of channel (05 R91). -/
inductive ChanKind where
  | tok | data | bo
  deriving DecidableEq, Repr, Inhabited

/-! ### Traps (14 Tables 14.1 and 14.3) -/

/-- The causes of Table 14.1. -/
inductive Cause where
  | illegalOpc | illegalEnc | illegalSeq | priv | badTarget
  | fetchFault | loadFault | storeFault | align | access
  | fmtMismatch | shape | tileRange | spadRange | genFault
  | fwdWait | waitTimeout | ringFault | queueFault
  | staleScope | scopeFault | amoFault | powerOver | budget
  | eccUncorr | engineErr | groupFault | feedFault | taskFault | softTrap | brk
  deriving DecidableEq, Repr, Inhabited

/-- Where and why a translation failed (Table 14.3: stage, level, access, fault). -/
structure XFault where
  stage2 : Bool
  level : Nat
  access : Access
  fault : Nat
  deriving DecidableEq, Repr, Inhabited

/-- A trap: its cause, whether the word had issued, and what TRAP.ADDR and TRAP.INFO report. -/
structure Trap where
  cause : Cause
  after : Bool
  addr : Word
  detail : Nat
  straddle : Bool
  x : Option XFault
  code : BitVec 16
  /-- ENGINE_ERR of the matrix residue is delivered to firmware as fatal (R342). -/
  fatal : Bool
  deriving DecidableEq, Repr, Inhabited

/-- The first unmet condition of a coupling wait (Table 14.3, detail of WAIT_TIMEOUT). -/
structure Wait where
  kind : Nat
  num : Nat
  deriving DecidableEq, Repr, Inhabited

/-! ### Sequencers -/

/-- A branch-target register (04 R62). -/
structure BReg where
  target : VA
  prepared : Bool
  deriving DecidableEq, Repr, Inhabited

/-- One level of a hardware loop stack (04 R79, R83). -/
structure Loop where
  active : Bool
  start : VA
  stop : VA
  trip : Word
  li : Word
  deriving DecidableEq, Repr, Inhabited

/-- A fetched line of a code ring: its 16 words, or the fault that fetch met (02 R45, R46). -/
structure CodeLine where
  words : List Word
  fault : Option Trap
  deriving DecidableEq, Repr, Inhabited

/-- What an issued instruction reads or writes, for the interlock of 02 R29. -/
inductive Loc where
  | s (n : Nat) | k (n : Nat) | b (n : Nat) | p (n : Nat) | sr (n : Nat) | tile (n : Nat)
  | gen (n : Nat) | shape | accel | all
  deriving DecidableEq, Repr, Inhabited

/-- A line in a generator's buffer, with the gather commands that delivered it (07 R157). -/
structure GLine where
  bits : LineBits
  carry : Carry
  deriving DecidableEq, Repr, Inhabited

/-- An entry that an issued instruction popped and holds (R26, R28, R37, R40). -/
inductive Pop where
  | chan (kind : ChanKind) (ch : Nat) (e : Entry)
  | line (g : Nat) (l : GLine)
  deriving DecidableEq, Repr, Inhabited

/-- A configured generator's record (06 Table 6.5), counts and strides innermost first. -/
structure GenCfg where
  base : Nat
  elem : Nat
  write : Bool
  wrap : Bool
  counts : List Nat
  strides : List Int
  deriving DecidableEq, Repr, Inhabited

/-- An address generator (06 R132 to R137): position, buffered lines, and how many lines issued
instructions hold. -/
structure Gen where
  cfg : Option GenCfg
  pos : Nat
  buf : List GLine
  deriving DecidableEq, Repr, Inhabited

/-- What an instruction does at its retire (R27, and the entry of each instruction). -/
inductive Effect where
  | s (n : Nat) (v : Word)
  | push (kind : ChanKind) (ch : Nat) (v : Word)
  | k (n : Nat) (v : Bool)
  | b (n : Nat) (v : BReg)
  | p (n : Nat) (v : BitVec 256)
  | sr (n : Nat) (v : Word)
  | flags (v : BitVec 5)
  | rngCtr (v : Word)
  | line (t : TileLine) (j : Nat) (v : LineBits) (cells : BitVec 2048)
  | tag (tile tag : Nat)
  /-- The tag of a line's tile, rewritten only where it changes (09 R222). -/
  | retag (tile tag : Nat)
  /-- The tag of a tile at the retire, to a destination (09 R231). -/
  | oldTag (d : Spec) (tile : Nat)
  | zzero (tile count : Nat)
  | genLine (g : Nat) (v : LineBits)
  | genSet (g : Nat) (c : GenCfg)
  | genPos (g pos : Nat)
  | discardChan (kind : ChanKind) (ch below : Nat)
  | event (mask : BitVec 16) (v : Bool)
  | ringInit (n base size count : Nat)
  | ringPut (n : Nat)
  | ringRel (n : Nat)
  | scope (n : Nat) (m : Members)
  | shape (w : Word)
  | budget (v : Nat) (d : Spec)
  | endSeq
  | fence (kinds : BitVec 3) (base : Carry) (uids : List Nat) (scope : Members)
  | spad (addr : Nat) (bytes : List Byte)
  | discard (kind first count : Nat)
  | power (y : Sq) (level : Nat)
  | task (uid : Nat)
  | cpush (uid : Nat)
  deriving DecidableEq, Repr, Inhabited

/-- What the retire of an issued instruction waits for, beside program order. -/
inductive Gate where
  /-- Nothing more. -/
  | open_
  /-- QDISC: the slots marked at its issue are written (05 R94). -/
  | marks (l : List (ChanKind × Nat × Nat))
  /-- FENCE E: these engine commands have completed (07 R175). -/
  | engine (uids : List Nat)
  /-- A matrix instruction: MATRIX_COMPLETE (11 R268). -/
  | matrix
  /-- PWRREL: no issued instruction of the context has a class above the level (13 R328). -/
  | lower (level : Nat)
  deriving DecidableEq, Repr, Inhabited

/-- An issued instruction that has not retired: what it holds, what it reserved, what it will do,
and what it had to hand over at its issue. `uses` names what it will write and `reads` the tiles that it reads.
`undo` is what R28 puts back of the loop stack. -/
structure Pending where
  opc : Nat
  pc : VA
  ts : BitVec 4
  es : BitVec 4
  pops : List Pop
  rsvs : List (ChanKind × Nat)
  effects : List Effect
  gate : Gate
  carry : Carry
  uses : List Loc
  reads : List Loc
  store : Bool
  cls : Nat
  undo : Tbl Loop
  deriving DecidableEq, Repr, Inhabited

/-- One sequencer (01 Table 1.2, 04 R62, R64, 05 R110, R111, 07 R148). `pts` is the time that the accesses it has issued
have reached, and `retPts` the program time that SEQ.PTS reads, which takes an access's time at its retire (07 R149).
`know` holds acquisitions, `seen` the releases that loads read and no acquire has taken yet (R175 kind A), `fence` the
release that the next store carries (Table 7.3), `stalled` whether its word waits for power (13 R324), `memWait` whether
it waits for an LD or a store slot (13 R334). -/
structure Seqr where
  s : Tbl Word
  b : Tbl BReg
  k : BitVec 8
  loops : Tbl Loop
  pc : VA
  ended : Bool
  done : Bool
  retired : Word
  pts : Nat
  retPts : Nat
  know : Know
  seen : Know
  fence : Know
  waited : Nat
  lastWait : Nat
  waiting : Option Wait
  stalled : Bool
  memWait : Bool
  oneShot : Option Nat
  inflight : List Pending
  ring : Tbl CodeLine
  deriving DecidableEq, Repr, Inhabited

/-! ### Local stores -/

/-- A tile (06 R119, R127, R139, 14 R353): rows of 64 cells, written bits, tag, dirty bit, DISCARD
mark, and cells that hold an uncorrectable word (R140). -/
structure Tile where
  rows : Tbl LineBits
  written : BitVec 64
  tag : Nat
  dirty : Bool
  mark : Bool
  bad : Tbl Bool
  deriving DecidableEq, Repr, Inhabited

/-- The scratchpad of a context by context address (06 R116, R127, 14 R353, R359): bytes, and by
512-byte line the written bit, the dirty bit (stored when clear) and the DISCARD mark;
uncorrectable 8-byte words. `old` lists, newest first, the engine writes that a reader may not have
acquired, by 8-byte chunk: the command and the chunk's value before it (07 R160). `phase` holds
what each phase word that a completion wrote hands over to its reader, by the command (07 R158). -/
structure Spad where
  bytes : Memory
  written : Tbl Bool
  clean : Tbl Bool
  mark : Tbl Bool
  bad : Tbl Bool
  old : Tbl (List (Nat × Word))
  phase : Tbl (List (Nat × Carry))
  deriving DecidableEq, Repr, Inhabited

/-- A region of the kernel descriptor (03 Table 3.6). -/
structure Region where
  base : Nat
  count : Nat
  span : Nat
  deriving DecidableEq, Repr, Inhabited

/-- A level of the loop table (03 Table 3.6). -/
structure Level where
  kind : Nat
  cyclic : Bool
  fromArg : Bool
  arg : Nat
  count : Nat
  deriving DecidableEq, Repr, Inhabited

/-- A ring (05 R101). `posted` holds what the posts of the filled slots carry, oldest first. The four
counts of claims, posts and releases keep the claim order that engine posts follow (08 R194). -/
structure Ring where
  valid : Bool
  base : Nat
  size : Nat
  count : Nat
  head : Nat
  tail : Nat
  nfill : Nat
  filled : Nat
  ncons : Nat
  posted : List Carry
  fillClaims : Nat
  posts : Nat
  consClaims : Nat
  rels : Nat
  deriving DecidableEq, Repr, Inhabited

/-- A scope entry (07 R163). -/
structure Scope where
  m : Members
  stale : Bool
  gen : BitVec 16
  deriving DecidableEq, Repr, Inhabited

end Sys2Proof.Machine
end

