-- ==== Sys2Proof/Machine/Part.lean ====
section
/-! DEFINITION. Plain data of the part outside the contexts. -/
namespace Sys2Proof.Machine

/-! ### Memories (07, 08 Table 8.4) -/

/-- The times of a device-memory line of 128 bytes at its home (07 R148). -/
structure LineT where
  wts : Nat
  rts : Nat
  deriving DecidableEq, Repr, Inhabited

/-- A copy in a lease cache (07 R148, R150): its times, the non-zero bytes of the line by offset, and
the releases that its bytes carry, and the cycle of its core at which it was filled. -/
structure Copy where
  wts : Nat
  rts : Nat
  bytes : Memory
  rel : Tbl Know
  filled : Nat
  deriving DecidableEq, Repr, Inhabited

/-- Device memory by physical address: bytes, line times by line number, the releases that each byte
carries (07 R159), uncorrectable chunks (06 R141), and the locked pages, each
with the page that its contents move to (14 R369). `mark` is both times of an
unlisted line: the eviction mark that RETENTION saves (13 R338); `marks` holds the eviction mark of a physical slice that
lost ways while the part ran (15 R398). -/
structure Dram where
  bytes : Memory
  mark : Nat
  marks : Tbl Nat
  lines : Tbl LineT
  rel : Tbl Know
  bad : Tbl Bool
  locks : Tbl (Option Nat)
  deriving DecidableEq, Repr, Inhabited

/-- A memory outside the order T (07): bytes, the releases that each byte carries (R159), and by chunk the engine
writes that a reader may not have acquired, newest first, each with the chunk's value before it. -/
structure Outer where
  bytes : Memory
  rel : Tbl Know
  old : Tbl (List (Nat × Word))
  deriving DecidableEq, Repr, Inhabited

/-! ### Translation (14 R361 to R370) -/

/-- Permissions of a leaf (14 Table 14.6). -/
structure Perm where
  r : Bool
  w : Bool
  x : Bool
  amo : Bool
  deriving DecidableEq, Repr, Inhabited

/-- A translation held by a TLB (14 R364, R365): the range of virtual addresses and what it maps to. -/
structure TlbEntry where
  guest : Nat
  va : Nat
  size : Nat
  pa : Nat
  kind : Nat
  perm1 : Perm
  perm2 : Perm
  deriving DecidableEq, Repr, Inhabited

/-- A table entry held by a walk cache: the guest, the stage, the level, and where it was read. -/
structure WalkEntry where
  guest : Nat
  stage2 : Bool
  level : Nat
  at_ : Nat
  word : Word
  deriving DecidableEq, Repr, Inhabited

/-- Translation structures shared by clusters, XLATE.INV (14 Tables 14.7 and 14.8), and the lazy pages
(guest and page number) whose check failed (R370). -/
structure Xlat where
  tlb : Tbl (List TlbEntry)
  walk : Tbl (List WalkEntry)
  inv : Word
  lazyBad : List (Nat × Nat)
  deriving DecidableEq, Repr, Inhabited

/-- A compute core outside its contexts: CYCLE, LMEM.ECC, its TLB and its lease cache. -/
structure CoreSt where
  cycle : Nat
  ecc : Word
  tlb : List TlbEntry
  lease : Tbl Copy
  deriving DecidableEq, Repr, Inhabited

/-! ### Guests and partitions (15 Tables 15.9 to 15.11) -/

/-- What the part tells Vesper, or a partition (13 R333, R336, 15 R401, R402), oldest first. -/
inductive Notice where
  | clock (cluster status : Nat)
  | throttle (cluster : Nat)
  | trip (cluster : Nat)
  | resetDone (guest : Nat)
  | derated (ctrl : Nat)
  deriving DecidableEq, Repr, Inhabited

/-- A guest's contract GUEST[g] (15 Table 15.9): its four words as written, the first two as in
effect since the last frame start (R391), its ways per logical slice as written and in effect
(R392, R398), its tile-time charge in this frame, and whether its exhaustion has been posted in it (R395). -/
structure Guest where
  w0 : Word
  w1 : Word
  s1 : Word
  s2 : Word
  e0 : Word
  e1 : Word
  ways : Tbl (BitVec 32)
  waysEff : Tbl (BitVec 32)
  charge : Nat
  told : Bool
  deriving DecidableEq, Repr, Inhabited

/-- A partition PART[p] (15 Table 15.10): its words 0 and 5 and window lengths as written, what it owns, the
window lengths in effect (in µs) and those that wait for the next frame start (R393), the present window and the
time at which it ends, whether the partition is switched off or frozen on its way there (13
R338), and the throttle and trip notices posted to it (13 R336). -/
structure PartSt where
  w0 : Word
  lens : Tbl (BitVec 16)
  floor : Word
  pairs : BitVec 32
  chans : BitVec 16
  slices : BitVec 32
  run : List Nat
  next : Option (List Nat)
  frames : BitVec 32
  window : Nat
  edge : Nat
  off : Bool
  frozen : Bool
  notices : List Notice
  deriving DecidableEq, Repr, Inhabited

/-- A token bucket (15 Table 15.11). -/
structure Bucket where
  rate : Nat
  depth : Nat
  level : Nat
  owner : Nat
  valid : Bool
  deriving DecidableEq, Repr, Inhabited

/-! ### Host functions (22 Tables 22.1, 22.2) -/

/-- BAR0 of a function beside its rings and the completion ring of its guest: INT.CTL, WIN.BASE, the four
outbound windows, FN.STATUS with `errOff`, and the program time of its accesses (07 R146). -/
structure HostFn where
  int : Word
  winBase : Word
  outBase : Tbl Word
  outSize : Tbl Word
  busy : Bool
  done : Bool
  winErr : Bool
  errOff : Nat
  pts : Nat
  deriving DecidableEq, Repr, Inhabited

/-- An entry held for a completion ring (15 R379, Table 15.5): `count` is that of an overflow entry. -/
structure CqItem where
  kind : Nat
  ring : Nat
  tag : Nat
  b0 : Word
  b1 : Word
  launch : Option Nat
  deriving DecidableEq, Repr, Inhabited

/-- The completion ring of a guest (22 Table 22.1, 15 R379): its registers, the next slot written, whether its present pass
inverts the phase bit of the first, the count of entries, and the entries held. -/
structure Cq where
  base : Word
  ctl : Nat
  head : Nat
  tail : Nat
  phase : Bool
  seq : Nat
  held : List CqItem
  deriving DecidableEq, Repr, Inhabited

/-! ### Power of a context (13 R324, Table 13.4) -/

/-- G, A, the extra units taken from the partition's own share, the PWRACQs that wait (sequencer and level),
and the sequencer whose grant has been made and has not retired. -/
structure CtxPower where
  g : Nat
  a : Nat
  own : Nat
  waits : List (Sq × Nat)
  given : Option Sq
  deriving DecidableEq, Repr, Inhabited

end Sys2Proof.Machine
end

