-- ==== Sys2Proof/Machine/Complex.lean ====
section
/-! DEFINITION. Plain data of the control complex: scheduler cores and Kiosk (15), the power controller
(13), streams and links (22), Vesper and Daybreak (22, 23). -/
namespace Sys2Proof.Machine

/-! ### Scheduler cores and Kiosk -/

/-- An event record (15 R389) that waits for the event ring or stands in it. -/
structure EvRec where
  kind : Nat
  guest : Nat
  core : Nat
  slot : Nat
  ticket : Nat
  addr : Word
  info : Word
  pcs : Quad VA
  cause : Nat
  deriving DecidableEq, Repr, Inhabited

/-- A slot of a scheduler core that holds a ring (15 R382, R388), with the priority it was bound at. -/
structure RSlot where
  ring : Nat
  prio : Nat
  deriving DecidableEq, Repr, Inhabited

/-- A scheduler core (15 R371), or Vesper's core (R373): the RISC-V registers and machine-mode CSRs, its SRAM, its slots, the event
ring's two indices and the records that wait for it, whether boot released it, whether it sleeps in
SWAIT, its program time (R372), and an LR reservation: the address, its size, and the write time of the line that it read
in device memory. DESIGN CHOICE, safe: log 82. -/
structure FwCore where
  x : Tbl Word
  pc : Word
  mstatus : Word
  mie : Word
  mip : Word
  mtvec : Word
  mepc : Word
  mcause : Word
  mtval : Word
  mscratch : Word
  mcycle : Word
  minstret : Word
  sram : Memory
  slots : Tbl RSlot
  evHead : Nat
  evTail : Nat
  evWait : List EvRec
  released : Bool
  asleep : Bool
  pts : Nat
  reservation : Option (Nat × Nat × Nat)
  deriving DecidableEq, Repr, Inhabited

/-- A guest ring (15 Table 15.2), with the program time that its last kick hands over (22 R425). -/
structure KRing where
  base : Word
  size : Nat
  kind : Bool
  enable : Bool
  head : Nat
  tail : Nat
  gen : Nat
  prio : Nat
  age : Nat
  pending : Bool
  bound : Option (Nat × Nat)
  pts : Nat
  deriving DecidableEq, Repr, Inhabited

/-! ### Power (13) -/

/-- Who waits for a grant: a PWRACQ of a context slot, one of a saved context that keeps its place, or a saved
context that asks for the extra of its restore (13 R323, R327, R330). -/
inductive PWho where
  | ctx (key : Nat) (y : Sq)
  | image (uid : Nat) (y : Sq)
  | saved (uid : Nat)
  deriving DecidableEq, Repr, Inhabited

/-- A loan (13 R323, R325): lender, the context that borrowed, the units lent, and those not revoked. -/
structure Loan where
  lender : Nat
  key : Nat
  units : Nat
  left : Nat
  deriving DecidableEq, Repr, Inhabited

/-- A clock request under way (13 R332): the frequency and voltage asked for, the vote that stood before,
and what the frequency and voltage of its charges are. -/
structure ClkReq where
  f : Nat
  v : Nat
  oldVote : Nat
  deriving DecidableEq, Repr, Inhabited

/-- A cluster (13 Tables 13.6, 13.6a, 13.7): register operands, the frequency and rail in use, the vote,
the request under way, the withdrawal that waits (its vote and the time it is due), what its charges
count as, PWR.STALL with the three counters that its next sample copies (R334), PWR.GOV, and the frequency that a throttle climbs back to. -/
structure Cluster where
  fReq : Nat
  vReq : Nat
  fNow : Nat
  status : Nat
  rail : Nat
  railReq : Nat
  railStatus : Nat
  vote : Nat
  req : Option ClkReq
  withdraw : Option (Nat × Nat)
  chargeF : Nat
  chargeV : Nat
  stall : Word
  nActive : Nat
  nMem : Nat
  nPwr : Nat
  gov : Word
  lastReq : Nat
  throttled : Bool
  temp : Nat
  deriving DecidableEq, Repr, Inhabited

/-- A rail (13 R331): its voltage, the vote of POWER_SET, and the end of a hold. -/
structure Rail where
  v : Nat
  vote : Nat
  hold : Option Nat
  deriving DecidableEq, Repr, Inhabited

/-- PWR.TRIP (13 Table 13.8a). -/
structure Trip where
  tripped : Bool
  cluster : Nat
  peak : Nat
  count : Nat
  deriving DecidableEq, Repr, Inhabited

/-- The power states of 13 Table 13.9 (PARTITION_OFF is per partition). -/
inductive PState where
  | active | idle | retention | off
  deriving DecidableEq, Repr, Inhabited

/-- The power controller (13): requests oldest first, loans oldest first, clusters, rails, the trip, the
power state with its idle interval and the time since the part is quiet. -/
structure Power where
  reqs : List PWho
  loans : List Loan
  clusters : Tbl Cluster
  rails : Tbl Rail
  trip : Trip
  state : PState
  idleInterval : Nat
  quietSince : Nat
  deriving DecidableEq, Repr, Inhabited

/-! ### Partition moves and memory controllers (15) -/

/-- PART.MOVE (15 Table 15.13): its operands and status, and the move under way. -/
structure Move15 where
  word : Word
  busy : Bool
  step : Nat
  status : Nat
  deriving DecidableEq, Repr, Inhabited

/-- A memory controller (15 R402): its last sample, the threshold that limits it (0 none, 1 85 °C, 2 95 °C), and the
bucket rates by partition as firmware wrote them. -/
structure Ctrl where
  temp : Nat
  limit : Nat
  rates : Tbl Nat
  deriving DecidableEq, Repr, Inhabited

/-! ### Streams, links and the side-band (22) -/

/-- A stream context (22 Table 22.4): its writable words, its counters, the buffer that a display scans, and
the start of its period. -/
structure Stream where
  w0 : Word
  w1 : Word
  w2 : Word
  w3 : Word
  frames : Nat
  misses : Nat
  last : Option Word
  start : Nat
  deriving DecidableEq, Repr, Inhabited

/-- The host link and the two Walzel links. -/
structure Links where
  hostUp : Bool
  hostWidth : Nat
  hostRate : Nat
  wz : Tbl Word
  deriving DecidableEq, Repr, Inhabited

/-- Vesper: its core with its SRAM, whether its image runs (23 R433), the lock (22 R432), the mailbox of PF0, and the
answers on the two sides. DESIGN CHOICE, safe: log 77. -/
structure Vesper where
  core : FwCore
  ready : Bool
  lock : Option Side
  mbox : Memory
  answer : List Byte
  notices : List Notice
  deriving DecidableEq, Repr, Inhabited

/-! ### Daybreak (23) -/

/-- A record of the locked policy section (23 Table 23.1a). -/
structure Policy where
  type : Nat
  part : Nat
  dest : Nat
  base : Nat
  size : Nat
  deriving DecidableEq, Repr, Inhabited

/-- Daybreak (23): flash, the measurement registers, the fused floor, whether boot ran and what failed
(copy and entry), the accepted manifest's flash offset, the locked policy, whether the keys exist, the
debug state with the unlocked partitions, the nonce with the time it expires, and SPDM's progress, the
sessions (with whether FINISH has established them) and the answer. -/
structure Trust where
  flash : Memory
  meas : Tbl (BitVec 512)
  floor : Nat
  booted : Bool
  failed : Option (Nat × Nat)
  manifest : Option Nat
  policy : List Policy
  keys : Bool
  debug : Nat
  unlocked : BitVec 8
  nonce : Option (List Byte × Nat)
  spdm : Nat
  algs : Nat
  sessions : List (Nat × Bool)
  spdmAnswer : List Byte
  debugAnswer : Word
  deriving DecidableEq, Repr, Inhabited

end Sys2Proof.Machine
end

