-- ==== Sys2Proof/Machine/Engines.lean ====
section
/-! DEFINITION. Plain data of a context's copy engine (08) and matrix engine (11). -/
namespace Sys2Proof.Machine

/-- One dimension of a command (08 Table 8.2). -/
structure Dim where
  count : Nat
  ss : Int
  ds : Int
  deriving DecidableEq, Repr, Inhabited

/-- A checked engine command with its CONT (08 R183). -/
structure Cmd where
  op : Nat
  dims : List Dim
  elem : Nat
  red : Nat
  scope : Nat
  sk : Nat
  dk : Nat
  wait : BitVec 16
  sig : BitVec 16
  src : Word
  dst : Word
  bar : Option Nat
  norec : Bool
  sring : Option Nat
  dring : Option Nat
  idxSize : Nat
  idxAddr : Nat
  deriving DecidableEq, Repr, Inhabited

/-- Where a command stands: not started, started with elements left, its elements over, or its barrier
object written too. -/
inductive JobState where
  | waiting | running | over | ending
  deriving DecidableEq, Repr, Inhabited

/-- A command in a queue (08 R180, R181, R191, R194, R196). `uid` names it part-wide, `waits` are
the commands it waits for (05 R109), `sclaim` and `dclaim` its ring claims (slot and claim number)
until they are given up, `progress` to `partialDone` what its status word will say, `time` its
completion time (07 R147), `idx` the index list as read at its start, `issued` whether its CPUSH has retired or its entry
was fetched (R209), `begun` whether it ever started (R201), `word` the status word that its
barrier object got (R191), and `hist` what its own writes found in the chunks of device memory, newest first (R186). -/
structure Job where
  seq : Nat
  uid : Nat
  cmd : Cmd
  scope : Members
  carry : Carry
  fz : Bool
  chained : Bool
  waits : List Nat
  st : JobState
  sclaim : Option (Nat × Nat)
  dclaim : Option (Nat × Nat)
  progress : Nat
  kind : Nat
  partialDone : Bool
  time : Nat
  idx : List Word
  issued : Bool
  begun : Bool
  word : Option Word
  hist : Tbl (List Word)
  deriving DecidableEq, Repr, Inhabited

/-- A completion record (08 R182) with what CPOP acquires (07 R157) and the places it occupies. -/
structure Record where
  word : Word
  uid : Nat
  carry : Carry
  places : Nat
  deriving DecidableEq, Repr, Inhabited

/-- One command queue with its chain (08 R180, R193). `st` is 0 idle, 1 running, 2 parked. -/
structure EngQueue where
  jobs : List Job
  records : List Record
  ptr : Word
  inSpad : Bool
  credit : Nat
  st : Nat
  park : Nat
  carry : Carry
  deriving DecidableEq, Repr, Inhabited

/-- A matrix instruction in the engine (11 R262 to R275): what it read at issue; the generator positions at
which its walk of the records starts, not reduced by a wrap; the 32-K blocks completed and their flags; the
lines that an MPLANE or MSPACK pushes; its number for a phase read (07 R158); for a joint operation
whether it has started; whether it goes on from a resume record; and the scale records, of A at 0 and of B at 1, that the
array took with an even block and uses in the next (R267). -/
structure MatRun where
  opc : Nat
  pc : VA
  acc : Nat
  ga : Nat
  gb : Nat
  bar : Option Nat
  init : Bool
  shape : Word
  fz : Bool
  apos : Nat
  bpos : Nat
  blocks : Nat
  flags : BitVec 5
  lines : Nat
  uid : Nat
  started : Bool
  resumed : Bool
  scales : Tbl LineBits
  deriving DecidableEq, Repr, Inhabited

/-- The resume record (11 R278); the positions are those at which the walk of the records starts. `acc`, `ga` and
`gb` are the operands of the word at its address, for the check of a restore. -/
structure Resume where
  pc : VA
  opc : Nat
  shape : Word
  blocks : Nat
  apos : Nat
  bpos : Nat
  acc : Nat
  ga : Nat
  gb : Nat
  deriving DecidableEq, Repr, Inhabited

/-- A binding of a co-operating quad (11 R273 to R276): its word, and the word as the program gave it (`orig`). `phase` is 0 while its OQBIND waits for the others,
1 once the four have met, 2 once its own OQBIND has issued; `joints` counts the joint operations this
member has issued. -/
structure Binding where
  word : Word
  orig : Word
  role : Nat
  phase : Nat
  broken : Bool
  joints : Nat
  deriving DecidableEq, Repr, Inhabited

/-- The matrix side of a context (11 R262, R273, R278, R280). -/
structure Matrix where
  shape : Option Word
  run : Option MatRun
  resume : Option Resume
  binding : Option Binding
  pruned : Nat
  lastKind : Nat
  deriving DecidableEq, Repr, Inhabited

end Sys2Proof.Machine
end

