-- ==== Sys2Proof/Machine/Work.lean ====
section
/-! DEFINITION. Plain data of Bazaar: queues, tasks, launches, and what a context holds of them (12,
15 R397). -/
namespace Sys2Proof.Machine

/-- A record in a queue: its bytes, what its appender hands over, the priority and guest of a launch
record, and the task that a task record stands for, or one more than the descriptor address of a
continuation. -/
structure BRec where
  bytes : List Byte
  carry : Carry
  prio : Nat
  guest : Nat
  task : Nat
  deriving DecidableEq, Repr, Inhabited

/-- A Bazaar queue (15 Table 15.12): configuration, records oldest first, and the append count. -/
structure BQueue where
  capM1 : Nat
  kind : Nat
  owner : Nat
  ageing : Nat
  enable : Bool
  recs : List BRec
  seq : Nat
  deriving DecidableEq, Repr, Inhabited

/-- A tile task (12 R293 to R296): its record, queue and guest, the physical addresses of its dependence
counters, which of them a bank unit has found met, when it became ready, whether it is stealable, whether a context holds it, and what its TASKPOP acquires. -/
structure Task where
  bytes : List Byte
  queue : Nat
  guest : Nat
  dep0 : Nat
  dep1 : Nat
  met0 : Bool
  met1 : Bool
  readyAt : Option Nat
  stealable : Bool
  held : Bool
  carry : Carry
  deriving DecidableEq, Repr, Inhabited

/-- A handle (12 Table 12.1). -/
structure Handle where
  queue : Nat
  kind : Nat
  valid : Bool
  deriving DecidableEq, Repr, Inhabited

/-- A feed wait (12 R292): the queues it names, whether it waits for a task, whether it pops (SLEEP does
not), and its place in the order of waiters (R291). -/
structure FeedWait where
  queues : List Nat
  task : Bool
  pops : Bool
  since : Nat
  deriving DecidableEq, Repr, Inhabited

/-- The task side of a context (12 R297, Table 12.1); `siblings` are the group siblings that it holds (12
R300), by descriptor and index. -/
structure CtxTasks where
  handles : Tbl Handle
  handler : Nat
  buffer : List Nat
  current : Option Nat
  rerun : Bool
  feedWait : Option FeedWait
  siblings : List (Nat × Nat)
  deriving DecidableEq, Repr, Inhabited

/-- A kernel descriptor that passed its checks (03 Table 3.6). -/
structure KDesc where
  nbv : Nat
  heat : Nat
  borrow : Bool
  powerMax : Nat
  tiles : Nat
  gens : Nat
  rings : Nat
  regions : List Region
  levels : List Level
  entries : Quad Nat
  deriving DecidableEq, Repr, Inhabited

/-- An accepted launch (12 R284 to R288): `total` counts its instances, `placed` names those bound so far,
`live` counts those bound or saved now, `end_` the completion code and detail once known, `endedAt`
the order in which records wait for a full done_queue (R285), `posted` whether the record is written. -/
structure Launch where
  guest : Nat
  prio : Nat
  since : Nat
  record : List Byte
  desc : KDesc
  args : Tbl Word
  total : Nat
  placed : List Nat
  live : Nat
  retired : Nat
  qleft : Bool
  fault : Option Nat
  end_ : Option (Nat × Nat)
  endedAt : Nat
  posted : Bool
  deriving DecidableEq, Repr, Inhabited

end Sys2Proof.Machine
end

