-- ==== Sys2Proof/Machine/State.lean ====
section
/-! DEFINITION. The state of the part, as plain data, the two kinds of stop, and the state after
reset. -/
namespace Sys2Proof.Machine

/-- Why a context stops at its next boundaries (14 R339, R357). -/
inductive Stop where
  | trap (y : Sq) (t : Trap)
  | preempt (why : StopWhy)
  | hcall (code : BitVec 16) (arg : Word) (d : Nat)
  deriving DecidableEq, Repr, Inhabited

/-- A context slot (01 Table 1.2, 04 Table 4.2, and the chapters named at each field's type). `late` is a pre-emption
request with the core cycle of its arrival, which a trap of that cycle goes before (14 R341), and `acted` the core cycle in
which a sequencer last issued or retired, with that sequencer's place in the order C, L, X, S (04 R67, 13 R330, 14 R341). -/
structure Ctx where
  bound : Bool
  guest : Nat
  part : Nat
  launch : Nat
  inst : Nat
  heat : Nat
  borrow : Bool
  nbv : Nat
  tilesN : Nat
  gensN : Nat
  ringsN : Nat
  powerMax : Nat
  regions : List Region
  levels : List Level
  args : Tbl Word
  coords : Tbl Word
  seq : Quad Seqr
  toks : Tbl Chan
  data : Tbl Chan
  bos : Tbl Chan
  events : BitVec 16
  evSeq : Tbl Carry
  evEng : Tbl Carry
  evSetter : Tbl Nat
  rings : Tbl Ring
  gens : Tbl Gen
  scopes : Tbl Scope
  preds : Tbl (BitVec 256)
  tiles : Tbl Tile
  spad : Spad
  q0 : EngQueue
  q1 : EngQueue
  nextSeq : Nat
  gathers : Tbl Carry
  doneCarry : Tbl Carry
  allDone : Carry
  matrix : Matrix
  rm : BitVec 3
  fz : Bool
  flags : BitVec 5
  rngKey : Word
  rngCtr : Word
  wdog : BitVec 32
  trapVec : Word
  trapCause : Nat
  trapPc : Quad VA
  trapAddr : Word
  trapInfo : Word
  budget : Nat
  budgetHeld : Bool
  discarded : Bool
  qleft : Bool
  handler : Bool
  shadow : Tbl Loop
  shadowEnded : Bool
  stop : Option Stop
  late : Option (StopWhy × Nat)
  acted : Option (Nat × Nat)
  halted : Bool
  tasks : CtxTasks
  power : CtxPower
  deriving DecidableEq, Repr, Inhabited

/-- A saved context (14 R358): its image, where it ran, the ticket of the event that firmware must answer
before it may be restored, the result that restore writes to an HCALL's destination, its place among
the contexts that wait, and the instance of a launch (true) or saved context (false) that a YIELD put before it (R355).
DESIGN CHOICE, safe: log 37. -/
structure Saved where
  img : Ctx
  core : Nat
  slot : Nat
  ticket : Option Nat
  result : Option (Nat × Word)
  hcall : Option Nat
  since : Nat
  behind : Option (Bool × Nat × Nat)
  deriving DecidableEq, Repr, Inhabited

/-- Who executes a compute-core instruction. -/
structure Who where
  core : Nat
  slot : Nat
  y : Sq
  deriving DecidableEq, Repr, Inhabited

/-- The part. `groups` lists the open groups by descriptor address, with the µs that a locked page keeps from its clock
(07 R153). `moves` is the order in which its agents move (see Step.lean), `free` numbers the values
that the spec leaves open, `who` is the executing sequencer and `fw` the executing scheduler core; these
four are the model's own. -/
structure State where
  moves : List Move
  free : Nat
  who : Who
  fw : Nat
  time : Nat
  nextUid : Nat
  ticks : Tbl Nat
  ctxs : Tbl Ctx
  cores : Tbl CoreSt
  dram : Dram
  staging : Outer
  host : Outer
  peer : Outer
  xlat : Xlat
  guests : Tbl Guest
  parts : Tbl PartSt
  ranges : List (Nat × Nat × Nat)
  buckets : Tbl Bucket
  ctrlBuckets : Tbl Bucket
  lanes : Tbl Word
  ctrls : Tbl Ctrl
  move15 : Move15
  queues : Tbl BQueue
  tasks : Tbl Task
  launches : Tbl Launch
  saved : Tbl Saved
  groups : Tbl Nat
  fws : Tbl FwCore
  fwResult : Word
  wayChg : Word
  route : Word
  rings : Tbl KRing
  cqs : Tbl Cq
  fns : Tbl HostFn
  pf0Guest : Nat
  irqs : List (Nat × Nat)
  peerBase : Tbl Word
  peerSize : Tbl Word
  resets : List Nat
  resetsLater : List Nat
  power : Power
  streams : Tbl Stream
  links : Links
  vesper : Vesper
  trust : Trust
  windowRead : List Byte
  deriving DecidableEq, Repr, Inhabited

/-- What stops the machine for good. -/
inductive Fault where
  /-- Raised by an access to a device-memory address that no memory is fitted at (01 R15). Safe: the
  spec gives such an access no effect. DEDUCED, safe: log 19. -/
  | noDeviceMemory
  deriving DecidableEq, Repr, Inhabited

/-- Why a step has no meaning here. -/
inductive Refusal where
  /-- An instruction that has no meaning yet, by its mnemonic. Safe. -/
  | notModelled (mnemonic : String)
  deriving DecidableEq, Repr, Inhabited

/-- The part right after reset: nothing bound, every memory without a listed byte.
DESIGN CHOICE, unsafe: log 3, 20. -/
def State.reset : State :=
  { moves := [], free := 0, who := ⟨0, 0, .c⟩, fw := 0, time := 0, nextUid := 1, ticks := []
    ctxs := [], cores := []
    dram := ⟨[], 0, [], [], [], [], []⟩
    staging := ⟨[], [], []⟩, host := ⟨[], [], []⟩, peer := ⟨[], [], []⟩
    xlat := ⟨[], [], 0, []⟩
    guests := [], parts := [], ranges := [], buckets := [], ctrlBuckets := [], lanes := [], ctrls := []
    move15 := ⟨0, false, 0, 0⟩
    queues := [], tasks := [], launches := [], saved := [], groups := []
    fws := [], fwResult := 0, wayChg := 0, route := 0, rings := []
    cqs := [], fns := [], pf0Guest := 0, irqs := [], peerBase := [], peerSize := [], resets := [], resetsLater := []
    power := { reqs := [], loans := [], clusters := [], rails := [], trip := ⟨false, 0, 0, 0⟩,
               state := .active, idleInterval := 0, quietSince := 0 }
    streams := []
    links := ⟨false, 0, 0, []⟩
    vesper := ⟨{ (default : FwCore) with mstatus := 0x1800 }, false, none, [], [], []⟩
    trust := { flash := [], meas := [], floor := 0, booted := false, failed := none, manifest := none,
               policy := [], keys := true, debug := 0, unlocked := 0, nonce := none, spdm := 0, algs := 0,
               sessions := [], spdmAnswer := [], debugAnswer := 0 }
    windowRead := [] }

end Sys2Proof.Machine
end

