-- ==== Sys2Proof/Machine/Tbl.lean ====
section
/-! DEFINITION. Sparse tables: keys strictly rising, no entry equal to what an unlisted key reads as. -/
namespace Sys2Proof

/-- The value at a key; `d` is what an unlisted key reads as. DESIGN CHOICE, unsafe: log 4. -/
def Tbl.get {α : Type} (d : α) : Tbl α → Nat → α
  | [], _ => d
  | (a, v) :: t, k => if a = k then v else if k < a then d else Tbl.get d t k

/-- The entries above a key. -/
def Tbl.above {α : Type} (t : Tbl α) (k : Nat) : Tbl α := t.dropWhile fun e => decide (e.1 ≤ k)

/-- The table with the value at one key replaced, in canonical form. DEDUCED, unsafe: log 90. -/
def Tbl.put {α : Type} [DecidableEq α] (d : α) : Tbl α → Nat → α → Tbl α
  | [], k, v => if v = d then [] else [(k, v)]
  | (a, w) :: t, k, v =>
    if a = k then (if v = d then Tbl.above t k else (k, v) :: t)
    else if k < a then (if v = d then (a, w) :: t else (k, v) :: (a, w) :: t)
    else (a, w) :: Tbl.put d t k v

/-- The value at a key changed by a function. -/
def Tbl.upd {α : Type} [DecidableEq α] (d : α) (t : Tbl α) (k : Nat) (f : α → α) : Tbl α :=
  Tbl.put d t k (f (Tbl.get d t k))

/-- The entry at a key, where absence has a meaning of its own. -/
def Tbl.find {α : Type} : Tbl α → Nat → Option α
  | [], _ => none
  | (a, v) :: t, k => if a = k then some v else if k < a then none else Tbl.find t k

/-- The table with an entry at a key. -/
def Tbl.ins {α : Type} : Tbl α → Nat → α → Tbl α
  | [], k, v => [(k, v)]
  | (a, w) :: t, k, v =>
    if a = k then (k, v) :: t else if k < a then (k, v) :: (a, w) :: t else (a, w) :: Tbl.ins t k v

/-- The table without the entry at a key. DEDUCED, unsafe: log 90. -/
def Tbl.del {α : Type} : Tbl α → Nat → Tbl α
  | [], _ => []
  | (a, w) :: t, k => if a = k then Tbl.above t k else if k < a then (a, w) :: t else (a, w) :: Tbl.del t k

/-- Keys strictly rising from a bound. -/
def Tbl.rising {α : Type} : Nat → Tbl α → Bool
  | _, [] => true
  | n, (a, _) :: t => decide (n ≤ a) && Tbl.rising (a + 1) t

/-- The canonical form of a table whose unlisted keys read as `d`. -/
def Tbl.wf {α : Type} [DecidableEq α] (d : α) (t : Tbl α) : Bool :=
  Tbl.rising 0 t && t.all fun e => decide (e.2 ≠ d)

/-- Every entry changed by a function, in canonical form. -/
def Tbl.mapAll {α : Type} [DecidableEq α] (d : α) (f : Nat → α → α) (t : Tbl α) : Tbl α :=
  (t.map fun e => (e.1, f e.1 e.2)).filter fun e => decide (e.2 ≠ d)

/-- The least key at or above `lo` and below `lo + n` that satisfies a test. -/
def firstFrom (p : Nat → Bool) : Nat → Nat → Option Nat
  | _, 0 => none
  | lo, n + 1 => if p lo then some lo else firstFrom p (lo + 1) n

/-- A list with one place replaced. -/
def setAt {α : Type} : List α → Nat → α → List α
  | [], _, _ => []
  | _ :: t, 0, v => v :: t
  | a :: t, n + 1, v => a :: setAt t n v

end Sys2Proof
end

