-- ==== Sys2Proof/WellFormed.lean ====
section
/-! DEFINITION. The static checks of an instruction: what 02 R35, R36 and the entries of the
instructions call ILLEGAL_ENC whatever the executing sequencer is. -/
namespace Sys2Proof

/-- A specifier that may be a destination: a register or a queue, no loop index (02 R36). -/
def Spec.isDest : Spec → Bool
  | .s _ => true
  | .q _ => true
  | .li _ => false

/-- A specifier that names a register s0 to s31. -/
def Spec.isReg : Spec → Bool
  | .s _ => true
  | .q _ => false
  | .li _ => false

/-- FP32 operations of Table 7.6 (07 R171). -/
def AmoOp.isFp : AmoOp → Bool
  | .fadd => true
  | .fmin => true
  | .fmax => true
  | .swap => false
  | .add => false
  | .and => false
  | .or => false
  | .xor => false
  | .min => false
  | .max => false
  | .minu => false
  | .maxu => false

/-- A generator destination takes a whole line, so its predicate is p0 (10 R237). -/
abbrev genWhole (d : Line) (p : BitVec 3) : Prop := (match d with | .gen _ => false | .tile _ => true) = true ∨ p = 0

/-- The checks of the shape word (11 R262, Table 11.3). -/
def shapeOk (w : Word) : Bool :=
  let pa := w.extractLsb' 24 3
  let pb := w.extractLsb' 27 3
  let nsc := w.extractLsb' 32 4
  decide (w.extractLsb' 7 1 = 0 ∧ w.extractLsb' 15 1 = 0 ∧ w.extractLsb' 37 27 = 0 ∧
    pa.toNat ≤ 4 ∧ pb.toNat ≤ 4 ∧ nsc.toNat ≤ 13 ∧
    (w.getLsbD 30 = true → pa = 2) ∧ (w.getLsbD 31 = true → pb = 2) ∧
    (nsc ≠ 0 → w.getLsbD 16 = true))

/-- The static checks of every row. The steps of the part's other agents have no encoding, so
nothing can be wrong with one. -/
def Instr.wellFormed : Instr → Bool
  | .add _ d _ _ => decide (d.isDest = true)
  | .sub _ d _ _ => decide (d.isDest = true)
  | .mul _ d _ _ => decide (d.isDest = true)
  | .mulh _ d _ _ => decide (d.isDest = true)
  | .mulhu _ d _ _ => decide (d.isDest = true)
  | .div _ d _ _ => decide (d.isDest = true)
  | .divu _ d _ _ => decide (d.isDest = true)
  | .rem _ d _ _ => decide (d.isDest = true)
  | .remu _ d _ _ => decide (d.isDest = true)
  | .andR _ d _ _ => decide (d.isDest = true)
  | .orR _ d _ _ => decide (d.isDest = true)
  | .xorR _ d _ _ => decide (d.isDest = true)
  | .sll _ d _ _ => decide (d.isDest = true)
  | .srl _ d _ _ => decide (d.isDest = true)
  | .sra _ d _ _ => decide (d.isDest = true)
  | .minR _ d _ _ => decide (d.isDest = true)
  | .maxR _ d _ _ => decide (d.isDest = true)
  | .minu _ d _ _ => decide (d.isDest = true)
  | .maxu _ d _ _ => decide (d.isDest = true)
  | .slt _ d _ _ => decide (d.isDest = true)
  | .sltu _ d _ _ => decide (d.isDest = true)
  | .addi _ d _ _ => decide (d.isDest = true)
  | .andi _ d _ _ => decide (d.isDest = true)
  | .ori _ d _ _ => decide (d.isDest = true)
  | .xori _ d _ _ => decide (d.isDest = true)
  | .slli _ d _ _ => decide (d.isDest = true)
  | .srli _ d _ _ => decide (d.isDest = true)
  | .srai _ d _ _ => decide (d.isDest = true)
  | .slti _ d _ _ => decide (d.isDest = true)
  | .li _ d _ => decide (d.isDest = true)
  | .bfx _ d _ pos lenM1 _ => decide (d.isDest = true ∧ pos.toNat + lenM1.toNat + 1 ≤ 64)
  | .bfi _ d _ pos lenM1 => decide (d.isReg = true ∧ pos.toNat + lenM1.toNat + 1 ≤ 64)
  | .clz _ d _ => decide (d.isDest = true)
  | .ctz _ d _ => decide (d.isDest = true)
  | .popc _ d _ => decide (d.isDest = true)
  | .cmp _ _ _ _ _ => true
  | .cmpi _ _ _ _ _ => true
  | .kop _ _ _ _ _ => true
  | .sel _ d _ _ _ _ => decide (d.isDest = true)
  | .pbr _ _ _ => true
  | .pbrr _ _ _ => true
  | .br _ _ _ _ => true
  | .call _ _ _ _ => true
  | .loop _ _ _ body => decide (body ≠ 0)
  | .endl _ _ _ _ => true
  | .mfs _ d _ => decide (d.isDest = true)
  | .mts _ _ _ => true
  | .nop _ => true
  | .endSeq _ => true
  | .qdisc _ srcs kinds => decide (srcs ≠ 0 ∧ kinds ≠ 0)
  | .qstat _ d ch => decide (d.isDest = true ∧ ch.toNat < 12)
  | .evset _ _ _ => true
  | .evclr _ _ _ => true
  | .evwaitm _ d mask _ => decide (d.isDest = true ∧ mask ≠ 0)
  | .bopush _ _ _ _ => true
  | .brq _ _ _ _ => true
  | .rinit _ _ _ => true
  | .racq _ d _ => decide (d.isDest = true)
  | .rput _ _ => true
  | .rget _ d _ => decide (d.isDest = true)
  | .rrel _ _ => true
  | .rstat _ d _ => decide (d.isDest = true)
  | .wdog _ d _ => decide (d.isDest = true)
  | .lds _ d _ size sx _ => decide (d.isDest = true ∧ (¬(size = 3 ∧ sx = true)))
  | .sts _ _ _ _ _ => true
  | .vldAddress _ _ _ tag _ => decide (tag.toNat ≤ 16)
  | .vldGenerator _ _ _ tag => decide (tag.toNat ≤ 16)
  | .vstAddress _ _ _ _ => true
  | .vstGenerator _ _ _ => true
  | .gset _ _ _ => true
  | .gpos _ _ _ => true
  | .genstat _ d _ => decide (d.isDest = true)
  | .zzero _ tile countM1 => decide (tile.toNat + countM1.toNat ≤ 63)
  | .zinfo _ d _ => decide (d.isDest = true)
  | .ld _ d _ size sx _ => decide (d.isDest = true ∧ (¬(size = 3 ∧ sx = true)))
  | .st _ _ _ _ _ => true
  | .lda _ d _ _ _ => decide (d.isDest = true)
  | .stl _ _ _ _ _ => true
  | .amo _ d _ _ _ op width => decide (d.isDest = true ∧ (op.isFp = true → width = 2))
  | .cas _ _ _ _ _ _ => true
  | .red _ _ _ _ op width => decide (op ≠ .swap ∧ (op.isFp = true → width = 2))
  | .fence _ _ kinds => decide (kinds ≠ 0)
  | .scset _ n _ _ => decide (4 ≤ n.toNat)
  | .scget _ d _ _ => decide (d.isDest = true)
  | .cpush _ d _ _ => decide (d.isDest = true)
  | .cpop _ d _ => decide (d.isDest = true)
  | .cpeek _ d _ => decide (d.isDest = true)
  | .cchain _ _ _ _ => true
  | .ckick _ _ _ _ => true
  | .cqstat _ d _ => decide (d.isDest = true)
  | .cabort _ _ _ => true
  | .cvt _ _ _ tag _ _ _ => decide (1 ≤ tag.toNat ∧ tag.toNat ≤ 10)
  | .cvtr _ _ _ _ _ => true
  | .qmx _ _ _ sc prec _ _ => decide (sc ≠ 0 ∧ prec.toNat ≤ 4)
  | .dqmx _ _ _ _ fmt _ _ => decide (fmt.toNat ≤ 2)
  | .pack _ _ _ _ _ => true
  | .unpack _ _ _ tag _ _ => decide (tag.toNat ∈ [1, 2, 3, 6, 7, 8])
  | .ztag _ _ tag => decide (tag.toNat ≤ 16)
  | .ztagr _ d _ _ => decide (d.isDest = true)
  | .vfadd _ d _ _ p => decide (genWhole d p)
  | .vfsub _ d _ _ p => decide (genWhole d p)
  | .vfmul _ d _ _ p => decide (genWhole d p)
  | .vfma _ _ _ _ _ => true
  | .vfms _ _ _ _ _ => true
  | .vfnma _ _ _ _ _ => true
  | .vfmin _ d _ _ p => decide (genWhole d p)
  | .vfmax _ d _ _ p => decide (genWhole d p)
  | .vfabs _ d _ p => decide (genWhole d p)
  | .vfneg _ d _ p => decide (genWhole d p)
  | .vfscale _ d _ _ p => decide (genWhole d p)
  | .vfrcp _ d _ p => decide (genWhole d p)
  | .vfrsq _ d _ p => decide (genWhole d p)
  | .vfsqrt _ d _ p => decide (genWhole d p)
  | .vfexp2 _ d _ p => decide (genWhole d p)
  | .vflog2 _ d _ p => decide (genWhole d p)
  | .vftanh _ d _ p => decide (genWhole d p)
  | .vfsigm _ d _ p => decide (genWhole d p)
  | .vfcmp _ pd _ _ _ _ => decide (pd ≠ 0)
  | .vfred _ _ _ _ _ => true
  | .vfscan _ d _ _ p => decide (genWhole d p)
  | .viadd _ d _ _ p => decide (genWhole d p)
  | .visub _ d _ _ p => decide (genWhole d p)
  | .vimul _ d _ _ p => decide (genWhole d p)
  | .vimulh _ d _ _ p => decide (genWhole d p)
  | .vimin _ d _ _ p => decide (genWhole d p)
  | .vimax _ d _ _ p => decide (genWhole d p)
  | .viand _ d _ _ p => decide (genWhole d p)
  | .vior _ d _ _ p => decide (genWhole d p)
  | .vixor _ d _ _ p => decide (genWhole d p)
  | .vishl _ d _ _ p => decide (genWhole d p)
  | .vishr _ d _ _ p => decide (genWhole d p)
  | .vicmp _ pd _ _ _ _ => decide (pd ≠ 0)
  | .vired _ _ _ _ _ => true
  | .viadds _ d _ _ p => decide (genWhole d p)
  | .vsel _ _ _ _ _ => true
  | .vmov _ d _ p => decide (genWhole d p)
  | .vbcastLine _ d _ _ p => decide (genWhole d p)
  | .vbcastScalar _ d _ tag p => decide (tag.toNat ≤ 16 ∧ genWhole d p)
  | .vextIndex _ d _ _ => decide (d.isDest = true)
  | .vextScalar _ d _ _ => decide (d.isDest = true)
  | .vinsIndex _ _ _ _ => true
  | .vinsScalar _ _ _ _ => true
  | .vshuf _ d _ _ p => decide (genWhole d p)
  | .vargmax _ d _ _ => decide (d.isDest = true)
  | .vrng _ d p => decide (genWhole d p)
  | .plopLogical _ pd _ _ _ => decide (pd ≠ 0)
  | .plopFirst _ pd _ => decide (pd ≠ 0)
  | .pcnt _ d _ _ _ => decide (d.isDest = true)
  | .mshape _ shape => decide (shapeOk shape = true)
  | .mma _ acc _ _ _ _ => decide (acc.toNat % 4 = 0)
  | .mmas _ acc _ _ _ _ => decide (acc.toNat % 4 = 0)
  | .mmac _ acc _ _ _ _ => decide (acc.toNat % 4 = 0)
  | .mzero _ acc _ => decide (acc.toNat % 4 = 0)
  | .mplane _ acc _ _ fmt block => decide (fmt.toNat ≤ 4 ∧ acc ≠ 63 ∧ ¬(4 ≤ block.toNat ∧ 3 ≤ fmt.toNat))
  | .mspack _ acc _ _ fmt group => decide (fmt.toNat ≤ 4 ∧ acc ≠ 63 ∧ ¬(2 ≤ group.toNat ∧ 3 ≤ fmt.toNat))
  | .oqbind _ _ _ => true
  | .oqunbind _ => true
  | .mstat _ d item => decide (d.isDest = true ∧ item.toNat ≤ 2)
  | .feedpop _ d _ _ => decide (d.isDest = true)
  | .feedpush _ d _ _ _ => decide (d.isDest = true)
  | .feedstat _ d _ => decide (d.isDest = true)
  | .taskpush _ d _ _ => decide (d.isDest = true)
  | .taskpop _ d _ => decide (d.isDest = true)
  | .taskdone _ _ => true
  | .sleep _ d mask task => decide (d.isDest = true ∧ (mask ≠ 0 ∨ task = true))
  | .fork _ d _ _ => decide (d.isDest = true)
  | .garrive _ _ _ _ => true
  | .gwait _ d _ _ => decide (d.isDest = true)
  | .gcancel _ _ _ => true
  | .grpstat _ d _ => decide (d.isDest = true)
  | .pwracq _ d _ _ => decide (d.isDest = true)
  | .pwrrel _ _ => true
  | .pwrq _ d item => decide (d.isDest = true ∧ item.toNat ≤ 2)
  | .trap _ _ _ => true
  | .brk _ _ => true
  | .hcall _ _ _ _ => true
  | .tret _ => true
  | .budget _ d _ _ => decide (d.isDest = true)
  | .discard _ a d kind => decide (kind.toNat ≤ 2 ∧ (kind = 2 → a = .s 0 ∧ d = .s 0))
  | .ifence _ => true
  | .yield _ => true
  | .instructionRetire _ _ _ => true
  | .codeFetch _ _ _ _ => true
  | .waitTimeout _ _ _ => true
  | .trapEntry _ _ => true
  | .budgetExpiry _ _ => true
  | .generatorRefill _ _ _ => true
  | .scrubPass _ _ _ _ => true
  | .leaseExpiry _ _ => true
  | .timeRebase _ => true
  | .tableWalk _ _ _ _ => true
  | .pageMigrationSwitch _ _ _ => true
  | .lazyPageLoad _ _ => true
  | .copy _ _ _ _ _ => true
  | .gather _ _ _ _ _ => true
  | .scatter _ _ _ _ _ => true
  | .reduce _ _ _ _ _ => true
  | .fill _ _ _ _ _ => true
  | .chainFetch _ _ _ => true
  | .commandComplete _ _ _ _ => true
  | .engineTimeout _ _ _ _ => true
  | .matrixComplete _ _ _ _ => true
  | .jointOperationStart _ _ => true
  | .launch _ => true
  | .instanceBind _ _ => true
  | .instanceComplete _ _ => true
  | .launchCompletionPost _ => true
  | .dependenceMet _ => true
  | .taskPlace _ => true
  | .taskAgeingExpiry _ => true
  | .taskSteal _ _ _ => true
  | .groupTimeout _ => true
  | .groupComplete _ => true
  | .powerGrant _ _ => true
  | .loanReclaim _ => true
  | .loanRestore _ => true
  | .clockRequest _ _ => true
  | .clockSwitch _ => true
  | .voteWithdraw _ => true
  | .railHoldExpiry _ => true
  | .railMove _ _ => true
  | .stallSample _ _ _ _ => true
  | .pwrStallRead _ _ => true
  | .thermalSample _ => true
  | .throttleStep _ => true
  | .tripResume _ => true
  | .idleEntry => true
  | .idleExit => true
  | .wakeInputRise => true
  | .wakeInputFall => true
  | .supplyRemoval => true
  | .preemptRequest _ _ _ _ => true
  | .contextSave _ _ => true
  | .contextRestore _ => true
  | .xlateInv _ => true
  | .invalidationComplete => true
  | .kick _ _ => true
  | .ringConfigWrite _ _ _ _ _ => true
  | .ageTick => true
  | .completionEntryWrite _ => true
  | .eventRecordPost _ => true
  | .fwAnswerResume _ => true
  | .fwAnswerDiscard _ => true
  | .fwAnswerResult _ => true
  | .contractWrite _ _ _ _ _ => true
  | .wayChg _ => true
  | .partitionConfigWrite _ _ _ _ => true
  | .queueConfigWrite _ _ _ _ => true
  | .windowBoundary _ => true
  | .tileTimeExhausted _ => true
  | .partMovePairs _ _ _ => true
  | .partMoveSlices _ _ _ => true
  | .partMoveChannels _ _ _ => true
  | .partMoveLanes _ _ _ _ => true
  | .functionLevelReset _ => true
  | .vfReset _ => true
  | .guestReset _ _ => true
  | .memoryTempSample _ _ _ => true
  | .registerWrite _ _ _ _ => true
  | .windowRead _ _ _ => true
  | .windowWrite _ _ _ => true
  | .cqHeadWrite _ _ => true
  | .hostLinkDown => true
  | .peerWrite _ _ => true
  | .peerAtomic _ _ _ _ _ => true
  | .walzelLinkDown _ => true
  | .cameraFrame _ _ => true
  | .cameraPeriodEnd _ => true
  | .displayPeriodStart _ => true
  | .mboxGo => true
  | .getStatus _ => true
  | .lockAcquire _ => true
  | .lockRelease _ => true
  | .partMove _ _ => true
  | .streamSet _ _ _ => true
  | .powerSet _ _ _ => true
  | .powerState _ _ _ _ => true
  | .debugUnlock _ _ => true
  | .nonceExpiry => true
  | .debugAccess _ _ _ => true
  | .getVersion => true
  | .getCapabilities => true
  | .negotiateAlgorithms _ => true
  | .getDigests => true
  | .getCertificate _ => true
  | .challenge _ _ => true
  | .getMeasurements _ _ _ => true
  | .keyExchange _ _ => true
  | .finish _ => true
  | .endSession _ => true
  | .keyOnBoot => true
  | .rfetch _ _ => true
  | .bfext _ _ _ => true
  | .swait _ _ _ => true
  | .pclr _ => true
  | .dispatch _ _ _ => true
  | .qsave _ _ _ => true
  | .qload _ _ _ => true
  | .qbind _ _ _ => true
  | .walzelLinkUp _ _ => true
  | .hostLinkUp _ _ => true
  | .crcFailure _ => true
  | .peerRead _ _ => true
  | .railRampComplete _ => true

end Sys2Proof
end

