-- ==== Sys2Proof/Machine/Ops.lean ====
section
/-! DEFINITION. The named operations over contexts, sequencers and channels, taking a trap and
returning from one, the issue of an instruction and its retire. -/
namespace Sys2Proof.Machine

/-- The outcome of a step. -/
abbrev Out := Host.Outcome State Fault Refusal

/-- What follows a next state; a fault or a refusal stands. -/
def afterNext (o : Out) (f : State → State) : Out :=
  match o with
  | .next s => .next (f s)
  | .fault e => .fault e
  | .refused e => .refused e

/-! ### Contexts and sequencers at rest -/

/-- A sequencer of an empty slot. -/
def Seqr.empty : Seqr :=
  { s := [], b := [], k := 0, loops := [], pc := 0, ended := true, done := true, retired := 0,
    pts := 0, retPts := 0, know := [], seen := [], fence := [], waited := 0, lastWait := 0, waiting := none,
    stalled := false, memWait := false, oneShot := none, inflight := [], ring := [] }

/-- A tile at the start of an instance (06 R119, 14 R359). -/
def Tile.empty : Tile := { rows := [], written := 0, tag := 0, dirty := true, mark := false, bad := [] }

/-- A scratchpad at the start of an instance (06 R128, 14 R359). -/
def Spad.empty : Spad :=
  { bytes := [], written := [], clean := [], mark := [], bad := [], old := [], phase := [] }

/-- An engine queue at the start of an instance. -/
def EngQueue.empty : EngQueue :=
  { jobs := [], records := [], ptr := 0, inSpad := false, credit := 0, st := 0, park := 0,
    carry := ⟨0, []⟩ }

/-- The matrix side at the start of an instance (11 R262). -/
def Matrix.empty : Matrix :=
  { shape := none, run := none, resume := none, binding := none, pruned := 0, lastKind := 0 }

/-- A ring that RINIT has not set (05 R101). -/
def Ring.empty : Ring := default

/-- A scope entry never set (07 R163). -/
def Scope.empty : Scope := { m := ⟨0, 0, false, false, none⟩, stale := false, gen := 0 }

/-- The power side of a context that holds no grant (13 R320). -/
def CtxPower.empty : CtxPower := { g := 4, a := 4, own := 0, waits := [], given := none }

/-- An empty context slot: registers at the reset values of 04 Table 4.2. DESIGN CHOICE, unsafe: log 3. -/
def Ctx.empty : Ctx :=
  { (default : Ctx) with
    seq := Quad.all Seqr.empty
    wdog := 0x01000000
    spad := Spad.empty
    q0 := EngQueue.empty
    q1 := EngQueue.empty
    matrix := Matrix.empty
    power := CtxPower.empty }

/-- Contexts by slot. -/
def State.ctx (s : State) (core slot : Nat) : Ctx := s.ctxs.get Ctx.empty (core * 4 + slot)

/-- The state with one context replaced. -/
def State.setCtx (s : State) (core slot : Nat) (c : Ctx) : State :=
  { s with ctxs := s.ctxs.put Ctx.empty (core * 4 + slot) c }

/-- The executing context. -/
def State.me (s : State) : Ctx := s.ctx s.who.core s.who.slot

/-- The state with the executing context replaced. -/
def State.setMe (s : State) (c : Ctx) : State := s.setCtx s.who.core s.who.slot c

/-- The executing sequencer. -/
def State.sq (s : State) : Seqr := s.me.seq.get s.who.y

/-- A context with one sequencer replaced. -/
def Ctx.setSeq (c : Ctx) (y : Sq) (q : Seqr) : Ctx := { c with seq := c.seq.set y q }

/-- The state with the executing sequencer replaced. -/
def State.setSq (s : State) (q : Seqr) : State := s.setMe (s.me.setSeq s.who.y q)

/-- A fresh number for a value the spec leaves open. DESIGN CHOICE, safe: log 18. -/
def State.fresh (s : State) : State := { s with free := s.free + 1 }

/-! ### Registers -/

/-- A scalar register; s0 reads zero (04 R62). -/
def Seqr.reg (q : Seqr) (n : Nat) : Word := if n = 0 then 0 else q.s.get 0 n

/-- A scalar register written; s0 discards (04 R62). -/
def Seqr.setReg (q : Seqr) (n : Nat) (v : Word) : Seqr :=
  if n = 0 then q else { q with s := q.s.put 0 n v }

/-- A branch condition; k0 reads 1 (04 R62). -/
def Seqr.cond (q : Seqr) (n : Nat) : Bool := if n = 0 then true else q.k.getLsbD n

/-- A branch condition written; k0 discards (04 R62). -/
def Seqr.setCond (q : Seqr) (n : Nat) (v : Bool) : Seqr :=
  if n = 0 then q
  else { q with k := if v then q.k ||| (1#8 <<< n) else q.k &&& ~~~(1#8 <<< n) }

/-- A target register, unprepared with target zero until written (04 R62). -/
def Seqr.breg (q : Seqr) (n : Nat) : BReg := q.b.get ⟨0, false⟩ n

/-- A target register written. -/
def Seqr.setBreg (q : Seqr) (n : Nat) (v : BReg) : Seqr := { q with b := q.b.put ⟨0, false⟩ n v }

/-- A loop level that is not active. -/
def Loop.none : Loop := ⟨false, 0, 0, 0, 0⟩

/-- A level of the loop stack. -/
def Seqr.level (q : Seqr) (n : Nat) : Loop := q.loops.get Loop.none n

/-- A level of the loop stack replaced. -/
def Seqr.setLevel (q : Seqr) (n : Nat) (l : Loop) : Seqr := { q with loops := q.loops.put Loop.none n l }

/-- A loop index; it reads zero while its level is not active (02 R36). -/
def Seqr.li (q : Seqr) (n : Nat) : Word := if (q.level n).active then (q.level n).li else 0

/-- A lane predicate; p0 is all ones (10 R235). -/
def Ctx.pred (c : Ctx) (n : Nat) : BitVec 256 := if n = 0 then BitVec.allOnes 256 else c.preds.get 0 n

/-- A lane predicate written; p0 stays all ones. -/
def Ctx.setPred (c : Ctx) (n : Nat) (v : BitVec 256) : Ctx :=
  if n = 0 then c else { c with preds := c.preds.put 0 n v }

/-! ### Program times and acquisitions (07 R145, R148, R161) -/

/-- Union of two lists of acquisitions. -/
def Know.union (a b : Know) : Know := a ++ b.filter fun e => !a.contains e

/-- What two passings hand over together. -/
def Carry.join (a b : Carry) : Carry := ⟨max a.pts b.pts, a.know.union b.know⟩

/-- What the accesses that a sequencer has issued would hand over. -/
def Seqr.carry (q : Seqr) : Carry := ⟨q.pts, q.know⟩

/-- A sequencer that received something (07 R145, R148, R161). -/
def Seqr.receive (q : Seqr) (c : Carry) : Seqr :=
  { q with pts := max q.pts c.pts, retPts := max q.retPts c.pts, know := q.know.union c.know }

/-! ### Channels (02 R26, R37, 05 R91 to R93) -/

/-- The channel from one sequencer to another (05 R91). -/
def chanIx (y z : Sq) : Nat := 3 * y.num + z.num - (if y.num < z.num then 1 else 0)

/-- An empty channel (05 R92). -/
def Chan.empty : Chan := ⟨[], 0, 0, 0⟩

/-- Entries, reserved slots and held entries of a channel (R26). -/
def Chan.occupancy (c : Chan) : Nat := c.avail.length + c.rsv + c.held

/-- How many entries a channel takes (R26, R37, R93). -/
def ChanKind.cap : ChanKind → Nat
  | .tok => 31
  | .data => 8
  | .bo => 16

/-- A channel of a context. -/
def Ctx.chan (c : Ctx) (k : ChanKind) (ch : Nat) : Chan :=
  match k with
  | .tok => c.toks.get Chan.empty ch
  | .data => c.data.get Chan.empty ch
  | .bo => c.bos.get Chan.empty ch

/-- A context with one channel replaced. -/
def Ctx.setChan (c : Ctx) (k : ChanKind) (ch : Nat) (v : Chan) : Ctx :=
  match k with
  | .tok => { c with toks := c.toks.put Chan.empty ch v }
  | .data => { c with data := c.data.put Chan.empty ch v }
  | .bo => { c with bos := c.bos.put Chan.empty ch v }

/-- A consumer pops the oldest entry and holds it (R26, R37, R93). -/
def Chan.pop (c : Chan) : Chan := { c with avail := c.avail.tail, held := c.held + 1 }

/-- A producer reserves a slot (R26). -/
def Chan.reserve (c : Chan) : Chan := { c with rsv := c.rsv + 1 }

/-- A held entry is dropped at retire (R27). -/
def Chan.drop (c : Chan) : Chan := { c with held := c.held - 1 }

/-- A reserved slot becomes an entry at retire (R27). -/
def Chan.fill (c : Chan) (v : Word) (k : Carry) : Chan :=
  { c with avail := c.avail ++ [⟨v, k, c.done⟩], rsv := c.rsv - 1, done := c.done + 1 }

/-- A held entry returns to the head (R28). -/
def Chan.unpop (c : Chan) (e : Entry) : Chan := { c with avail := e :: c.avail, held := c.held - 1 }

/-- A reserved slot is released (R28). -/
def Chan.release (c : Chan) : Chan := { c with rsv := c.rsv - 1, done := c.done + 1 }

/-! ### Events (05 R96) -/

/-- An event. -/
def Ctx.event (c : Ctx) (n : Nat) : Bool := c.events.getLsbD n

/-- The events of a mask set by a retire, with what it hands over (R96, R145). -/
def Ctx.setEvents (c : Ctx) (m : BitVec 16) (k : Carry) : Ctx :=
  { c with
    events := c.events ||| m
    evSeq := (List.range 16).foldl (fun t n =>
      if m.getLsbD n then t.upd ⟨0, []⟩ n (·.join k) else t) c.evSeq }

/-- The events of a mask cleared (R97). -/
def Ctx.clearEvents (c : Ctx) (m : BitVec 16) : Ctx :=
  { c with
    events := c.events &&& ~~~m
    evSeq := (List.range 16).foldl (fun t n =>
      if m.getLsbD n then t.put ⟨0, []⟩ n ⟨0, []⟩ else t) c.evSeq }

/-- What a word that issues on an event receives (R145, R157). -/
def Ctx.eventCarry (c : Ctx) (n : Nat) : Carry :=
  (c.evSeq.get ⟨0, []⟩ n).join (c.evEng.get ⟨0, []⟩ n)

/-! ### Flow (04 R79 to R83) -/

/-- Where the flow goes after a word: on to the next word, on to an address reached sequentially, to a
target, or to an address with the loop stack as it stands (14 R351). -/
inductive Flow where
  | seq
  | arrive (a : VA)
  | jump (a : VA)
  | goto (a : VA)
  deriving DecidableEq, Repr, Inhabited

/-- Whether the body of a level holds an address (R79). -/
def Loop.holds (l : Loop) (a : VA) : Bool :=
  decide (l.start.toNat ≤ a.toNat) && decide (a.toNat < l.stop.toNat)

/-- Pops every active level whose body does not hold the next address (R79). -/
def Seqr.jump (q : Seqr) (a : VA) : Seqr :=
  { (List.range 8).foldl (fun q n =>
      if (q.level n).active && !(q.level n).holds a then q.setLevel n Loop.none else q) q with pc := a }

/-- The decision of R81 for the levels below `n`, highest first, at an address reached sequentially. -/
def Seqr.arrive (q : Seqr) (a : VA) : Nat → Seqr
  | 0 => { q with pc := a }
  | n + 1 =>
    if (q.level n).active && (q.level n).stop == a then
      if (q.level n).li.toNat + 1 < (q.level n).trip.toNat then
        { q.setLevel n { q.level n with li := (q.level n).li + 1 } with pc := (q.level n).start }
      else (q.setLevel n Loop.none).arrive a n
    else q.arrive a n

/-- The next address of a sequencer (R79, R81). DEDUCED, unsafe: log 88. -/
def Seqr.flow (q : Seqr) (long : Bool) : Flow → Seqr
  | .seq => q.arrive (q.pc + (if long then 16 else 8)) 8
  | .arrive a => q.arrive a 8
  | .jump a => q.jump a
  | .goto a => { q with pc := a }

/-! ### Traps (14 R339 to R346) -/

/-- Codes of Table 14.1. -/
def Cause.code : Cause → Nat
  | .illegalOpc => 0x01 | .illegalEnc => 0x02 | .illegalSeq => 0x03 | .priv => 0x04 | .badTarget => 0x05
  | .fetchFault => 0x08 | .loadFault => 0x09 | .storeFault => 0x0A | .align => 0x0B | .access => 0x0C
  | .fmtMismatch => 0x10 | .shape => 0x11 | .tileRange => 0x12 | .spadRange => 0x13 | .genFault => 0x14
  | .fwdWait => 0x18 | .waitTimeout => 0x1A | .ringFault => 0x1B | .queueFault => 0x1C
  | .staleScope => 0x20 | .scopeFault => 0x21 | .amoFault => 0x22
  | .powerOver => 0x28 | .budget => 0x29 | .eccUncorr => 0x30 | .engineErr => 0x31
  | .groupFault => 0x38 | .feedFault => 0x39 | .taskFault => 0x3A | .softTrap => 0x40 | .brk => 0x41

/-- A trap that reports nothing but its cause. DEDUCED, unsafe: log 21. -/
def Trap.plain (c : Cause) : Trap := ⟨c, false, 0, 0, false, none, 0, false⟩

/-- A trap with an address (R346). DEDUCED, unsafe: log 21. -/
def Trap.at (c : Cause) (a : Word) : Trap := { Trap.plain c with addr := a }

/-- Who receives a cause before R343: the handler, firmware with the context saved, or firmware with
the context gone (Table 14.1). -/
inductive Delivery where
  | handler | resumable | fatal
  deriving DecidableEq, Repr, Inhabited

/-- Where a trap goes (R342, R343). A fault of stage 2 stays resumable in handler mode. -/
def Ctx.delivery (c : Ctx) (t : Trap) : Delivery :=
  let own : Delivery :=
    if t.cause = .eccUncorr || t.fatal then .fatal
    else match t.x with
      | some x => if x.fault = 4 then .fatal else if x.stage2 then .resumable else .handler
      | none => .handler
  match own with
  | .handler => if c.trapVec = 0 || c.handler then .fatal else .handler
  | d => d

/-- Whether R343 sent the trap to firmware. -/
def Ctx.nested (c : Ctx) (t : Trap) : Bool :=
  decide (c.delivery t = .fatal) && !(t.cause = .eccUncorr || t.fatal) &&
    !(match t.x with | some x => x.fault = 4 | none => false)

/-- Number of an access kind (Table 14.3). -/
def Access.code : Access → Nat
  | .read => 0 | .write => 1 | .exec => 2 | .atomic => 3

/-- TRAP.INFO of a trap (Table 14.3); level reads 7 where the trap is no fault of a walk.
DEDUCED, unsafe: log 22. -/
def Trap.info (t : Trap) (y : Sq) (nested : Bool) : Word :=
  let x : Nat := match t.x with
    | some x => (if x.stage2 then 1 else 0) * 2 ^ 12 + x.level * 2 ^ 13 + Access.code x.access * 2 ^ 16
        + x.fault * 2 ^ 18
    | none => 7 * 2 ^ 13
  BitVec.ofNat 64 (t.detail % 256 + y.num * 2 ^ 8 + (if t.after then 2 ^ 10 else 0)
    + (if t.straddle then 2 ^ 11 else 0) + x + (if nested then 2 ^ 21 else 0) + t.code.toNat * 2 ^ 32)

/-- The four members of a quad have met and the context's own OQBIND is on its way to its issue (11 R273). -/
def Ctx.met (c : Ctx) : Bool := match c.matrix.binding with | some b => b.phase == 1 | none => false

/-- No issued instruction of the context is left to retire (R339), an OQBIND whose members have met among them. -/
def Ctx.quiet (c : Ctx) : Bool := (Sq.order.all fun y => (c.seq.get y).inflight.isEmpty) && !c.met

/-- Where the four sequencers stand. -/
def Ctx.pcs (c : Ctx) : Quad VA := ⟨c.seq.c.pc, c.seq.l.pc, c.seq.x.pc, c.seq.s.pc⟩

/-- TRAP.PC as a stop leaves it, in handler mode too (R339 step 3, R357). -/
def Ctx.recordPcs (c : Ctx) : Ctx := { c with trapPc := c.pcs }

/-- The trap registers as R339 steps 3 and 4 leave them. -/
def Ctx.recordTrap (c : Ctx) (y : Sq) (t : Trap) : Ctx :=
  { c.recordPcs with
    trapCause := t.cause.code
    trapAddr := t.addr
    trapInfo := t.info y (c.nested t) }

/-- The fetch fault at a TRAP.VEC above the virtual addresses (R344, R363). -/
def vecFault (a : Word) : Trap := { Trap.at .fetchFault a with x := some ⟨false, 7, .exec, 3⟩ }

/-- The three steps of R344, after R339. A TRAP.VEC above the virtual addresses is a nested fetch fault at once; a
pre-emption that came with the trap, or after it, stops the context in the state that these leave (R341).
DEDUCED, unsafe: log 87. -/
def Ctx.enterHandler (c : Ctx) : Ctx :=
  let q := c.seq.c
  { c with
    handler := true
    shadow := q.loops
    shadowEnded := q.ended
    seq := { c.seq with c := { q with loops := [], pc := c.trapVec.setWidth 57, ended := false, waited := 0, waiting := none } }
    stop := if 2 ^ 57 ≤ c.trapVec.toNat then some (.trap .c (vecFault c.trapVec)) else c.late.map fun w => .preempt w.1
    late := none
    tasks := { c.tasks with feedWait := none } }

/-- A sequencer may act in a core cycle: none after it in the order C, L, X, S has issued or retired in that cycle, so
that traps, MTS writes and power requests of one cycle take that order (R341, 04 R67, 13 R330). -/
def Ctx.mayAct (c : Ctx) (y : Sq) (cycle : Nat) : Bool :=
  match c.acted with
  | some (n, k) => n != cycle || decide (k ≤ y.num)
  | none => true

/-- The context after a sequencer has acted in a core cycle. -/
def Ctx.acts (c : Ctx) (y : Sq) (cycle : Nat) : Ctx := { c with acted := some (cycle, y.num) }

/-- Taking a trap: the trapping word's sequencer and the others issue nothing more; once every issued
instruction has retired the cause is delivered. A handler cause is entered at once when the context
is quiet; TRAP_ENTRY delivers every other trap (R339, R342 to R345). DEDUCED, safe: log 15. -/
def Ctx.takeTrap (c : Ctx) (y : Sq) (t : Trap) : Ctx :=
  if c.quiet && decide (c.delivery t = .handler) then (c.recordTrap y t).enterHandler
  else { c with stop := some (.trap y t) }

/-- The executing sequencer takes a trap. A one-shot watchdog limit is used up (05 R111). DEDUCED, safe: log 15. -/
def State.takeTrap (s : State) (t : Trap) : State :=
  let q := s.sq
  let c := s.me.setSeq s.who.y { q with oneShot := none, waited := 0, waiting := none }
  s.setMe (c.takeTrap s.who.y t)

/-- The lines of the two words at an address dropped where they hold a fetch fault: the return from the handler
fetches both words again (14 R368). DEDUCED, unsafe: log 26. -/
def Seqr.refetch (q : Seqr) (pc : VA) : Seqr :=
  { q with ring := q.ring.filter fun e =>
      e.2.fault.isNone || (e.1 ≠ pc.toNat / 128 && e.1 ≠ (pc + 8).toNat / 128) }

/-- Returning from a trap (R351): C's loop stack comes back from the shadow, every sequencer goes on
at its TRAP.PC, and C's time passes to all four. DEDUCED, unsafe: log 87. -/
def Ctx.returnFromTrap (c : Ctx) : Ctx :=
  let k := c.seq.c.carry
  let back (q : Seqr) (pc : VA) : Seqr := { (q.refetch pc).receive k with pc := pc, waited := if q.pc = pc then q.waited else 0 }
  { c with
    handler := false
    shadow := []
    seq := ⟨{ back c.seq.c c.trapPc.c with loops := c.shadow, ended := c.shadowEnded, waited := 0 }, back c.seq.l c.trapPc.l,
      back c.seq.x c.trapPc.x, back c.seq.s c.trapPc.s⟩ }

end Sys2Proof.Machine
end

