-- ==== Sys2Proof/Machine/Operands.lean ====
section
/-! DEFINITION. Operand forms: scalar specifiers (02 R36, R37), tile lines (R39, 06 R119 to R127),
generator operands (R40, 06 R132 to R136). -/
namespace Sys2Proof.Machine

/-! ### Scalar specifiers -/

/-- The value of a source that pops nothing (R36); a queue reads as zero here. -/
def Seqr.peek (q : Seqr) : Spec → Word
  | .s n => q.reg n.toNat
  | .li n => q.li n.toNat
  | .q _ => 0

/-- The register an operand names, for the interlock (R29). -/
def Spec.loc : Spec → List Loc
  | .s n => if n = 0 then [] else [.s n.toNat]
  | .q _ => []
  | .li _ => []

/-- The queue a specifier names. -/
def Spec.queue : Spec → Option Sq
  | .q y => some y
  | .s _ => none
  | .li _ => none

/-- What a context has popped while an instruction takes its operands. -/
structure Taken where
  ctx : Ctx
  pops : List Pop
  words : List Word
  lines : List LineBits

/-- The oldest entry of a channel popped and held by sequencer `y`, which receives what it carries. -/
def Taken.pop (t : Taken) (y : Sq) (k : ChanKind) (ch : Nat) : Taken × Word :=
  let c := t.ctx.chan k ch
  match c.avail with
  | [] => (t, 0)
  | e :: _ =>
    let x := (t.ctx.setChan k ch c.pop).setSeq y ((t.ctx.seq.get y).receive e.carry)
    ({ t with ctx := x, pops := t.pops ++ [.chan k ch e] }, e.v)

/-- One scalar source read at issue (R36, R37): a queue is popped and held. -/
def Taken.source (y : Sq) (t : Taken) (f : Spec) : Taken :=
  match f with
  | .q z => let (t', v) := t.pop y .data (chanIx z y)
            { t' with words := t'.words ++ [v] }
  | .s _ | .li _ => { t with words := t.words ++ [(t.ctx.seq.get y).peek f] }

/-- Where a result goes at retire (R36, R37). -/
def Spec.write (y : Sq) (d : Spec) (v : Word) : List Effect :=
  match d with
  | .s n => if n = 0 then [] else [.s n.toNat v]
  | .q z => [.push .data (chanIx y z) v]
  | .li _ => []

/-! ### Tile lines -/

/-- A tile of a context. -/
def Ctx.tile (c : Ctx) (n : Nat) : Tile := c.tiles.get Tile.empty n

/-- A context with one tile replaced. -/
def Ctx.setTile (c : Ctx) (n : Nat) (t : Tile) : Ctx := { c with tiles := c.tiles.put Tile.empty n t }

/-- Row and column of element `i` of line `j` (R39). -/
def Dir.cell (d : Dir) (j i : Nat) : Nat × Nat :=
  match d with
  | .row => (j, i)
  | .col => (i, j)
  | .diag => (i, (i + j) % 64)
  | .anti => (i, (j + 64 - i) % 64)

/-- A line made of its 64 cells. -/
def lineOf (f : Nat → BitVec 32) : LineBits :=
  (List.range 64).foldl (fun a i => a ||| ((f i).setWidth 2048 <<< (32 * i))) 0

/-- Cell `i` of a line. -/
def lineCell (l : LineBits) (i : Nat) : BitVec 32 := l.extractLsb' (32 * i) 32

/-- A stored cell of a tile; a row never written holds zero (06 R127). -/
def Tile.cell (t : Tile) (r col : Nat) : BitVec 32 := lineCell (t.rows.get 0 r) col

/-- The stored bits of a line (R39). -/
def Tile.rawLine (t : Tile) (d : Dir) (j : Nat) : LineBits :=
  match d with
  | .row => t.rows.get 0 j
  | .col | .diag | .anti => lineOf fun i => t.cell (Dir.cell d j i).1 (Dir.cell d j i).2

/-- A line as an instruction reads it: an UNTYPED tile reads as +0 (06 R127). -/
def Tile.readLine (t : Tile) (d : Dir) (j : Nat) : LineBits :=
  if t.tag = 0 then 0 else t.rawLine d j

/-- Bits of a row replaced under a mask. -/
def maskBits (old new mask : LineBits) : LineBits := (old &&& ~~~mask) ||| (new &&& mask)

/-- A line written under a mask of bits: rows reached get their written bit, the tile is dirty and
loses its DISCARD mark (06 R127, 14 R353, R359). -/
def Tile.writeLine (t : Tile) (d : Dir) (j : Nat) (v mask : LineBits) : Tile :=
  if mask = 0 then t else
  let one (t : Tile) (i : Nat) : Tile :=
    let (r, col) := Dir.cell d j i
    let m := lineCell mask i
    if m = 0 then t else
    { t with
      rows := t.rows.put 0 r (maskBits (t.rows.get 0 r)
        ((lineCell v i).setWidth 2048 <<< (32 * col)) (m.setWidth 2048 <<< (32 * col)))
      written := t.written ||| (1#64 <<< r)
      bad := if m = BitVec.allOnes 32 then t.bad.put false (r * 64 + col) false else t.bad }
  let t' : Tile := match d with
    | .row => { t with
        rows := t.rows.put 0 j (maskBits (t.rows.get 0 j) v mask)
        written := t.written ||| (1#64 <<< j)
        bad := t.bad.filter fun e => !(e.1 / 64 = j && decide (lineCell mask (e.1 % 64) = BitVec.allOnes 32)) }
    | .col | .diag | .anti => (List.range 64).foldl one t
  { t' with dirty := true, mark := false }

/-- A tile given a tag (06 R122): the tag is a change of the tile (14 R353, R359). -/
def Tile.setTag (t : Tile) (tag : Nat) : Tile := { t with tag := tag, dirty := true, mark := false }

/-- A tile set UNTYPED with its written bits clear (06 R138). -/
def Tile.clear (t : Tile) : Tile :=
  { t with rows := [], written := 0, tag := 0, bad := [], dirty := true, mark := false }

/-- The line number of a tile line: its index register mod 64, s0 giving 0 (02 R38). -/
def TileLine.index (t : TileLine) (q : Seqr) : Nat := (q.reg t.idx.toNat).toNat % 64

/-- An uncorrectable word among the cells that a line reads (06 R140), as its row and column; an UNTYPED tile, whose
cells hold no value, gives none. DESIGN CHOICE, unsafe: log 109. -/
def Tile.badCell (t : Tile) (d : Dir) (j : Nat) : Option (Nat × Nat) :=
  if t.bad.isEmpty || t.tag = 0 then none
  else (firstFrom (fun i => t.bad.get false ((Dir.cell d j i).1 * 64 + (Dir.cell d j i).2)) 0 64).map (Dir.cell d j)

/-- The ECC trap of a tile word (06 R140). -/
def eccTile (tile row : Nat) : Trap :=
  Trap.at .eccUncorr (BitVec.ofNat 64 (2 ^ 63 + tile * 64 + row))

/-! ### Generators -/

/-- A generator of a context. -/
def Ctx.gen (c : Ctx) (n : Nat) : Gen := c.gens.get ⟨none, 0, []⟩ n

/-- A context with one generator replaced. -/
def Ctx.setGen (c : Ctx) (n : Nat) (g : Gen) : Ctx := { c with gens := c.gens.put ⟨none, 0, []⟩ n g }

/-- Product of the counts of a walk (06 R133). -/
def GenCfg.total (g : GenCfg) : Nat := g.counts.foldl (· * ·) 1

/-- Lines of a walk (06 R133). -/
def GenCfg.lines (g : GenCfg) : Nat := (g.total + 256 / 2 ^ g.elem - 1) / (256 / 2 ^ g.elem)

/-- Whether a generator is exhausted (06 R136). -/
def Gen.exhausted (g : Gen) : Bool :=
  match g.cfg with
  | none => false
  | some c => !c.wrap && decide (c.lines ≤ g.pos)

/-- A generator is usable in a direction (02 R40). -/
def Gen.usable (g : Gen) (write : Bool) : Bool :=
  match g.cfg with
  | none => false
  | some c => c.write == write && !g.exhausted

/-- The position after one line (06 R136). -/
def GenCfg.next (c : GenCfg) (pos : Nat) : Nat := if c.wrap && decide (c.lines ≤ pos + 1) then 0 else pos + 1

/-- The next line of a read generator popped and held (02 R40); sequencer `y` acquires what a gather
command delivered with it (07 R157). -/
def Taken.line (y : Sq) (t : Taken) (n : Nat) : Taken :=
  let g := t.ctx.gen n
  match g.buf, g.cfg with
  | l :: r, some c =>
    { t with
      ctx := (t.ctx.setGen n { g with buf := r, pos := c.next g.pos }).setSeq y
        ((t.ctx.seq.get y).receive l.carry)
      pops := t.pops ++ [.line n l]
      lines := t.lines ++ [l.bits] }
  | _, _ => { t with lines := t.lines ++ [0] }

end Sys2Proof.Machine
end

