-- ==== Sys2Proof/Machine/Memory.lean ====
section
/-! DEFINITION. The memories: scratchpad (06 R116, R126, R127), device memory in the order T with its
leases (07 R143 to R150), the memories outside T with what a reader has acquired (R156 to R166), and
translation (14 R361 to R370). -/
namespace Sys2Proof.Machine

/-! ### Bytes and words -/

/-- The little-endian number of some bytes (00 R3). -/
def leNat : List Byte → Nat
  | [] => 0
  | b :: t => b.toNat + 256 * leNat t

/-- The `n` little-endian bytes of a number. -/
def leBytes : Nat → Nat → List Byte
  | 0, _ => []
  | n + 1, v => BitVec.ofNat 8 v :: leBytes n (v / 256)

/-- The byte at an address; a byte that nothing has written reads zero. DESIGN CHOICE, unsafe: log 4. -/
def Memory.byte (m : Memory) (a : Nat) : Byte := Tbl.get 0 m a

/-- `n` bytes from an address. -/
def Memory.read (m : Memory) (a : Nat) : Nat → List Byte
  | 0 => []
  | n + 1 => m.byte a :: m.read (a + 1) n

/-- Bytes written from an address. -/
def Memory.write (m : Memory) (a : Nat) : List Byte → Memory
  | [] => m
  | b :: t => Memory.write (Tbl.put 0 m a b) (a + 1) t

/-- The little-endian number at an address. -/
def Memory.num (m : Memory) (a n : Nat) : Nat := leNat (m.read a n)

/-- The form every memory of the model keeps: addresses strictly rising, no byte of zero listed. -/
def Memory.wf (m : Memory) : Bool := Tbl.wf (0 : Byte) m

/-- Sign extension of the low `n` bits of a number to 64 bits. -/
def sext64 (n v : Nat) : Word :=
  BitVec.ofNat 64 (if v.testBit (n - 1) then v % 2 ^ n + (2 ^ 64 - 2 ^ n) else v % 2 ^ n)

/-! ### What a reader may see of engine writes (07 R160) -/

/-- Values a reader may get of a chunk, each with the engine command that wrote it, where one did: the present one,
then each older one until a write that it has acquired. -/
def olderValues (covered : Nat → Bool) (cur : Word) : List (Nat × Word) → List (Option Nat × Word)
  | [] => [(none, cur)]
  | (u, v) :: t => if covered u then [(some u, cur)] else (some u, cur) :: olderValues covered v t

/-- One of the values, by a free choice. -/
def chooseOne (n : Nat) (l : List (Option Nat × Word)) : Option Nat × Word :=
  match l with
  | [v] => v
  | _ => l.getD (Config.freeNat n % l.length) (none, 0)

/-- A list of chunk versions with the bytes of a later store laid over each (a store is always seen). -/
def patchOld (off : Nat) (bs : List Byte) (l : List (Nat × Word)) : List (Nat × Word) :=
  l.map fun e => (e.1, BitVec.ofNat 64 (leNat
    ((List.range 8).map fun i =>
      if off ≤ i ∧ i < off + bs.length then bs.getD (i - off) 0 else BitVec.ofNat 8 (e.2.toNat / 256 ^ i))))

/-- The versions of a table after a store of some bytes within one chunk. -/
def patchChunk (t : Tbl (List (Nat × Word))) (a : Nat) (bs : List Byte) : Tbl (List (Nat × Word)) :=
  match t.get [] (a / 8) with
  | [] => t
  | l => if bs.length = 8 ∧ a % 8 = 0 then t.put [] (a / 8) [] else t.put [] (a / 8) (patchOld (a % 8) bs l)

/-- Splits bytes at chunk boundaries of 8: an address and the bytes within one chunk. -/
def chunks (a : Nat) (bs : List Byte) : List (Nat × List Byte) :=
  let first := 8 - a % 8
  (a, bs.take first) ::
    ((List.range ((bs.length - first + 7) / 8)).map fun i =>
      (a + first + 8 * i, (bs.drop (first + 8 * i)).take 8))

/-! ### Scratchpad -/

/-- Whether a context address is allocated (06 R116). -/
def Ctx.allocated (c : Ctx) (a : Nat) : Bool :=
  decide (a < 2 ^ 22) && (c.borrow || decide (a < 2 ^ 21)) &&
    c.regions.any fun r => decide (r.base ≤ a / 2 ^ 16) && decide (a / 2 ^ 16 < r.base + r.count)

/-- Whether every byte of a range is allocated. Granules are 64 KiB, so the ends and each granule
between are looked at. -/
def Ctx.allocatedRange (c : Ctx) (a n : Nat) : Bool :=
  n = 0 || (decide (a + n ≤ 2 ^ 22) &&
    (List.range ((a + n - 1) / 2 ^ 16 + 1 - a / 2 ^ 16)).all fun i => c.allocated ((a / 2 ^ 16 + i) * 2 ^ 16))

/-- A store of a sequencer, a generator or the matrix engine to scratchpad (06 R126, R127): the lines
reached are written and dirty and lose their DISCARD mark, and every later reader sees it. -/
def Spad.store (m : Spad) (a : Nat) (bs : List Byte) : Spad :=
  if bs.isEmpty then m else
  let ls := (List.range ((a + bs.length - 1) / 512 + 1 - a / 512)).map (a / 512 + ·)
  let cs := chunks a bs
  { m with
    bytes := m.bytes.write a bs
    written := ls.foldl (fun t l => t.put false l true) m.written
    clean := ls.foldl (fun t l => t.put false l false) m.clean
    mark := ls.foldl (fun t l => t.put false l false) m.mark
    bad := cs.foldl (fun t e => if e.2.length = 8 then t.put false (e.1 / 8) false else t) m.bad
    old := cs.foldl (fun t e => patchChunk t e.1 e.2) m.old
    phase := cs.foldl (fun t e => if e.1 % 8 = 0 && !e.2.isEmpty then t.put [] (e.1 / 8) [] else t) m.phase }

/-- A write of an engine command to scratchpad: as a store, but a reader that has not acquired the
command may still get what stood there before (07 R160, R162). -/
def Spad.engineWrite (m : Spad) (uid a : Nat) (bs : List Byte) : Spad :=
  let old := (chunks a bs).foldl (fun t e =>
    if e.2.isEmpty then t else
    Tbl.put [] t (e.1 / 8)
      ((uid, BitVec.ofNat 64 (m.bytes.num (e.1 / 8 * 8) 8)) :: m.old.get [] (e.1 / 8))) m.old
  { m.store a bs with old := old }

/-- The address of an uncorrectable word among some bytes (06 R140). -/
def Spad.badAddr (m : Spad) (a n : Nat) : Option Nat :=
  if m.bad.isEmpty then none else
  ((List.range ((a + n - 1) / 8 + 1 - a / 8)).find? fun i => m.bad.get false (a / 8 + i)).map fun i =>
    (a / 8 + i) * 8

/-- An uncorrectable word among some bytes (06 R140). -/
def Spad.badIn (m : Spad) (a n : Nat) : Bool := (m.badAddr a n).isSome

/-- An uncorrectable word that a store would merge into: covered in part (06 R140). -/
def Spad.badMerge (m : Spad) (a n : Nat) : Option Nat :=
  if m.bad.isEmpty then none else
  ((chunks a (List.replicate n 0)).find? fun e =>
    !e.2.isEmpty && decide (e.2.length < 8) && m.bad.get false (e.1 / 8)).map fun e => e.1 / 8 * 8

/-- A reader has acquired a command's write to a chunk of its own scratchpad: by the command's completion, or by a
gathered line that the chunk formed, and by the carriers of its context alone (07 R157, R158, R162). -/
def Know.hasSpad (k : Know) (uid chunk : Nat) : Bool :=
  k.any fun e => e.uid == uid && e.direct && match e.part with
    | none => true
    | some l => l.contains chunk

/-- The value of a chunk that a reader of the context gets, with the engine command that wrote it, where one did. A
chunk that engine commands wrote which the reader has not acquired may read older (07 R160, R162).
DESIGN CHOICE, safe: log 7. -/
def Spad.chunk (m : Spad) (know : Know) (free k : Nat) : Option Nat × Word :=
  chooseOne (free + k) (olderValues (fun u => know.hasSpad u k) (BitVec.ofNat 64 (m.bytes.num (k * 8) 8)) (m.old.get [] k))

/-- Bytes that a reader of the context gets. -/
def Spad.load (m : Spad) (know : Know) (free a n : Nat) : List Byte :=
  if m.old.isEmpty then m.bytes.read a n else
  (List.range n).map fun i =>
    let k := a + i
    match m.old.get [] (k / 8) with
    | [] => m.bytes.byte k
    | _ => BitVec.ofNat 8 ((m.chunk know free (k / 8)).2.toNat / 256 ^ (k % 8))

/-! ### Device memory in T (07 R148) -/

/-- The times of a line that is not listed. DESIGN CHOICE, unsafe: log 67. -/
def Dram.unlisted (d : Dram) : LineT := ⟨d.mark, d.mark⟩

/-- The times of a line. -/
def Dram.line (d : Dram) (pa : Nat) : LineT := d.lines.get d.unlisted (pa / 128)

/-- A load served at home: the program time and the line's lease (R148). `lease` is the lease length. -/
def Dram.homeLoad (d : Dram) (pts lease pa : Nat) : Dram × Nat :=
  let l := d.line pa
  let t := max pts l.wts
  ({ d with lines := d.lines.put d.unlisted (pa / 128) { l with rts := max l.rts (t + lease) } }, t)

/-- The times of a write at home (R148). -/
def Dram.homeWrite (d : Dram) (pts pa : Nat) : Dram × Nat :=
  let t := max pts ((d.line pa).rts + 1)
  ({ d with lines := d.lines.put d.unlisted (pa / 128) ⟨t, t⟩ }, t)

/-- The releases that some bytes carry after a write; `chain` keeps those that an atomic extends (R159). -/
def relWrite (t : Tbl Know) (a n : Nat) (rel : Know) (chain : Bool) : Tbl Know :=
  if t.isEmpty && rel.isEmpty then t else
  (List.range n).foldl (fun r i => r.put [] (a + i) (if chain then Know.union (t.get [] (a + i)) rel else rel)) t

/-- The releases that a read of some bytes reads from. -/
def relRead (t : Tbl Know) (a n : Nat) : Know :=
  if t.isEmpty then [] else (List.range n).foldl (fun k i => Know.union k (t.get [] (a + i))) []

/-- A write of bytes within one line (R148): its times, its data, and the releases that its bytes
carry from now on. -/
def Dram.write (d : Dram) (pts pa : Nat) (bs : List Byte) (rel : Know) (chain : Bool) : Dram × Nat :=
  let (d, t) := d.homeWrite pts pa
  let cs := (chunks pa bs).filter fun e => !e.2.isEmpty
  ({ d with
     bytes := d.bytes.write pa bs
     bad := cs.foldl (fun t e => if e.2.length = 8 then t.put false (e.1 / 8) false else t) d.bad
     rel := relWrite d.rel pa bs.length rel chain }, t)

/-- An uncorrectable word among some bytes. -/
def Dram.badIn (d : Dram) (a n : Nat) : Bool :=
  !d.bad.isEmpty && (List.range ((a + n - 1) / 8 + 1 - a / 8)).any fun i => d.bad.get false (a / 8 + i)

/-- The bytes of a line that are not zero, by offset. -/
def Dram.lineBytes (d : Dram) (pa : Nat) : Memory :=
  (d.bytes.filter fun e => e.1 / 128 = pa / 128).map fun e => (e.1 % 128, e.2)

/-! ### Dependence counters (12 R293, R294) -/

/-- A task's view of one counter: whether it is met now, with what its last write handed over. -/
def Dram.meets (d : Dram) (pa thr : Nat) (k : Carry) : Option Carry :=
  if thr ≤ d.bytes.num pa 8 then some (k.join ⟨(d.line pa).wts, relRead d.rel pa 8⟩) else none

/-- A task after its bank units have looked at its counters (R294): met dependences stay met. -/
def Task.noted (d : Dram) (t : Task) : Task :=
  let field (o : Nat) : Nat := leNat ((t.bytes.drop o).take 8)
  let n := leNat ((t.bytes.drop 1).take 1) / 4 % 4
  let t := if t.met0 || decide (n = 0) then t else
    match d.meets t.dep0 (field 24) t.carry with
    | some k => { t with met0 := true, carry := k }
    | none => t
  if t.met1 || decide (n ≤ 1) then t else
    match d.meets t.dep1 (field 40) t.carry with
    | some k => { t with met1 := true, carry := k }
    | none => t

/-- The dependence checks that follow a write to device memory (R294). -/
def State.noteCounters (s : State) : State :=
  { s with tasks := s.tasks.map fun e => (e.1, e.2.noted s.dram) }

/-- Physical addresses at which memory is fitted (01 R15): 64 GiB, or 128 GiB. DEDUCED, safe: log 19. -/
def fitted (pa : Nat) : Bool := decide (pa < 2 ^ 36) || (Config.fitted128 && decide (pa < 2 ^ 37))

/-! ### Slices (08 R188, 01 R15) -/

/-- Number of set bits below a bound. -/
def countBits (v : Nat) (n : Nat) : Nat := ((List.range n).filter fun i => v.testBit i).length

/-- The place of the `k`-th set bit, counted upwards from 0. -/
def nthBit (v n k : Nat) : Option Nat := ((List.range n).filter fun i => v.testBit i)[k]?

/-- A partition that owns nothing, at the reset values of 15 Table 15.10. -/
def PartSt.empty : PartSt :=
  { (default : PartSt) with w0 := 100 }

/-- A guest at the reset values of 15 Table 15.9. -/
def Guest.empty : Guest := { (default : Guest) with w0 := 1#64 <<< 32, e0 := 1#64 <<< 32 }

/-- A partition. -/
def State.part (s : State) (p : Nat) : PartSt := s.parts.get PartSt.empty p

/-- A guest. -/
def State.guest (s : State) (g : Nat) : Guest := s.guests.get Guest.empty g

/-- The partition of a guest (15 Table 15.9), as in effect since the last frame start (R391). -/
def Guest.part (g : Guest) : Nat := (g.e0.extractLsb' 43 3).toNat

/-- Logical slices of a partition (01 R15). -/
def PartSt.sliceCount (p : PartSt) : Nat := countBits p.slices.toNat 32

/-- The home of a physical address (08 R188): a logical slice of the partition. -/
def homeSlice (p : PartSt) (pa : Nat) : Nat :=
  if p.sliceCount = 0 then 0
  else ((List.range 9).foldl (fun a k => a + pa / 2 ^ (7 + 5 * k) % 32) 0) % p.sliceCount

/-- Device memory at the home of an address in a partition: a line of a slice that lost ways while the part ran has, until
it is listed, the slice's eviction mark as both times (15 R398). -/
def State.home (s : State) (part pa : Nat) : Dram :=
  let d := s.dram
  let p := s.part part
  if d.marks.isEmpty || (d.lines.find (pa / 128)).isSome then d
  else match nthBit p.slices.toNat 32 (homeSlice p pa) with
    | none => d
    | some k =>
      let m := max d.mark (d.marks.get 0 k)
      { d with lines := d.lines.put d.unlisted (pa / 128) ⟨m, m⟩ }

/-- The lease length of a guest's load (07 R148, R150). -/
def State.leaseLen (s : State) (g pa : Nat) : Nat :=
  let gu := s.guest g
  if ((gu.waysEff.get 0 (homeSlice (s.part gu.part) pa)).extractLsb' 0 16) = 0 then 0 else 32

/-! ### Windows (22 R423, R427) -/

/-- A function at the reset values of 22 Table 22.2. -/
def HostFn.empty : HostFn := { (default : HostFn) with int := 0x48 }

/-- The host function of a guest (01 R19): guests 8 to 199 are virtual functions 1 to 192. -/
def fnOfGuest (g : Nat) : Option Nat := if 8 ≤ g then some (g - 7) else none

/-- A function's registers. -/
def State.fn (s : State) (n : Nat) : HostFn := s.fns.get HostFn.empty n

/-- Bus addresses lie in an enabled outbound window of the guest's function (R423). DEDUCED, unsafe: log 25. -/
def State.outwinOk (s : State) (g a n : Nat) : Bool :=
  match fnOfGuest g with
  | none => false
  | some f => (List.range 4).any fun w =>
      let b := ((s.fn f).outBase.get 0 w).toNat
      decide (b ≤ a) && decide (a + n ≤ b + ((s.fn f).outSize.get 0 w).toNat)

/-- A Walzel link carries flits (22 R428, Table 15.1c). -/
def State.peerUp (s : State) : Bool := (s.links.wz.get 0 0).getLsbD 0 || (s.links.wz.get 0 1).getLsbD 0

/-- The peer's physical address of an address in a partition's peer window (22 R427). -/
def State.peerAddr (s : State) (p a n : Nat) : Option Nat :=
  if a + n ≤ (s.peerSize.get 0 p).toNat then some ((s.peerBase.get 0 p).toNat + a) else none

/-! ### Scopes (07 R163 to R166) -/

/-- The intersection of two memberships: both must contain (R160). -/
def Members.inter (a b : Members) : Members :=
  { cores := a.cores &&& b.cores
    slices := a.slices &&& b.slices
    host := a.host && b.host
    peer := a.peer && b.peer
    only := match a.only, b.only with
      | none, o => o
      | o, none => o
      | some x, some y => if x = y then some x else some 256 }

/-- Whether a membership contains the core of a context (R163, R164). -/
def Members.hasCore (m : Members) (core slot : Nat) : Bool :=
  m.cores.getLsbD core && (match m.only with | none => true | some k => k == core * 4 + slot)

/-- All cores of a partition, from its lending pairs (01 R11). -/
def PartSt.cores (p : PartSt) : BitVec 64 :=
  (List.range 64).foldl (fun a n =>
    if p.pairs.getLsbD (n / 32 * 16 + n % 32 / 8 * 4 + n % 8 / 2) then a ||| (1#64 <<< n) else a) 0

/-- The members that an entry names (R164 for the fixed ones). -/
def State.scopeMembers (s : State) (core slot n : Nat) : Members :=
  let c := s.ctx core slot
  let p := s.part c.part
  match n with
  | 0 => ⟨1#64 <<< core, 0, false, false, some (core * 4 + slot)⟩
  | 1 => ⟨1#64 <<< core, 0, false, false, none⟩
  | 2 => ⟨p.cores, BitVec.ofNat 32 (2 ^ p.sliceCount - 1), false, false, none⟩
  | 3 => ⟨p.cores, BitVec.ofNat 32 (2 ^ p.sliceCount - 1), true, true, none⟩
  | _ => (c.scopes.get Scope.empty n).m

/-- Whether an entry is stale (R166). -/
def Ctx.stale (c : Ctx) (n : Nat) : Bool := decide (4 ≤ n) && (c.scopes.get Scope.empty n).stale

/-- A membership that covers nothing: it contains no core (R163). -/
def Members.none_ (m : Members) : Bool := m.cores == 0 || m.only == some 256

/-- What a release at a scope publishes of what a sequencer has acquired (R160, R161). What a gathered line acquired
lies in scratchpad, which no release reaches (R162), and a release at an empty scope covers nothing (R163). -/
def Know.release (k : Know) (m : Members) : Know :=
  if m.none_ then [] else (k.filter fun e => e.part.isNone).map fun e => { e with m := m, direct := false }

/-- What an acquire at a scope takes of releases that it reads from (R160); one at an empty scope, or at one that shares
no core with the release's, takes nothing (R163). -/
def Know.acquire (k : Know) (m : Members) : Know :=
  (k.map fun e => { e with m := e.m.inter m, direct := false }).filter fun e => !e.m.none_

/-! ### Memories outside T -/

/-- The memories outside T that scopes name. -/
inductive Place where
  | staging (slice : Nat)
  | host
  | peer
  deriving DecidableEq, Repr, Inhabited

/-- Whether a membership contains a memory (R163). -/
def Members.hasPlace (m : Members) : Place → Bool
  | .staging l => m.slices.getLsbD l
  | .host => m.host
  | .peer => m.peer

/-- Whether a reader on a context's core has a path to a command's write to a memory (R160). -/
def Know.covers (k : Know) (uid : Nat) (p : Place) (core slot : Nat) : Bool :=
  k.any fun e => e.uid == uid && e.m.hasPlace p && e.m.hasCore core slot

/-- Bytes that a reader gets of a memory outside T (R160). DESIGN CHOICE, safe: log 7. -/
def Outer.load (o : Outer) (k : Know) (p : Place) (core slot free a n : Nat) : List Byte :=
  (List.range n).map fun i =>
    let x := a + i
    match o.old.get [] (x / 8) with
    | [] => o.bytes.byte x
    | l =>
      let vs := olderValues (fun u => k.covers u p core slot) (BitVec.ofNat 64 (o.bytes.num (x / 8 * 8) 8)) l
      BitVec.ofNat 8 ((chooseOne (free + x / 8) vs).2.toNat / 256 ^ (x % 8))

/-- A write of an engine command to a memory outside T. -/
def Outer.engineWrite (o : Outer) (uid a : Nat) (bs : List Byte) : Outer :=
  { bytes := o.bytes.write a bs
    rel := relWrite o.rel a bs.length [] false
    old := (chunks a bs).foldl (fun t e =>
      if e.2.isEmpty then t else
      Tbl.put [] t (e.1 / 8) ((uid, BitVec.ofNat 64 (o.bytes.num (e.1 / 8 * 8) 8)) :: o.old.get [] (e.1 / 8)))
      o.old }

/-- A write that every reader sees (an atomic at its home, or the memory's owner).
DESIGN CHOICE, unsafe: log 76. -/
def Outer.write (o : Outer) (a : Nat) (bs : List Byte) : Outer :=
  { bytes := o.bytes.write a bs
    rel := relWrite o.rel a bs.length [] false
    old := (chunks a bs).foldl (fun t e => patchChunk t e.1 e.2) o.old }

/-- A write of an atomic, which releases and extends the releases of its bytes (R159). -/
def Outer.atomic (o : Outer) (a : Nat) (bs : List Byte) (rel : Know) : Outer :=
  { o.write a bs with rel := relWrite o.rel a bs.length rel true }

end Sys2Proof.Machine
end

