-- ==== Sys2Proof/Machine/Translate.lean ====
section
/-! DEFINITION. Translation of virtual addresses (14 R361 to R370). -/
namespace Sys2Proof.Machine

/-- What a translation comes to: a physical address and a memory kind, a fault, or a page that is
not loaded yet. -/
inductive XOut where
  | ok (pa kind : Nat)
  | fault (x : XFault)
  | lazy (ia : Nat)
  deriving DecidableEq, Repr, Inhabited

/-- An agent whose access is translated: its guest, its core (whose TLB it uses) and its program time
(R364). -/
structure Walker where
  guest : Nat
  core : Nat
  pts : Nat

/-- Cluster of a core (01 R10). -/
def clusterOf (core : Nat) : Nat := core / 32 * 4 + core % 32 / 8 / 2 * 2 + core % 8 / 4

/-- Permission for an access (R363). -/
def Perm.allows (p : Perm) : Access → Bool
  | .read => p.r
  | .write => p.w
  | .exec => p.x
  | .atomic => p.r && p.w && p.amo

/-- The permissions of an entry (Table 14.6). -/
def permOf (e : Word) : Perm := ⟨e.getLsbD 2, e.getLsbD 3, e.getLsbD 4, e.getLsbD 5⟩

/-- The address of an entry (Table 14.6). -/
def entryAddr (e : Word) : Nat := (e.extractLsb' 12 36).toNat * 2 ^ 12

/-- Size of a page at a level. -/
def pageSize (level : Nat) : Nat := 2 ^ (12 + 9 * level)

/-- The fault of an entry, if any, before permissions (R363): not valid, or a reserved bit or value. -/
def entryFault (stage2 : Bool) (level root : Nat) (e : Word) : Option Nat :=
  let leaf := e.getLsbD 1
  if !e.getLsbD 0 then some 0
  else if e.getLsbD 11 || decide (e.extractLsb' 48 8 ≠ 0) then some 2
  else if leaf && (decide (level = root) || decide (3 ≤ level)) then some 2
  else if !leaf && decide (level = 0) then some 2
  else if !leaf && decide (e.extractLsb' 2 10 ≠ 0) then some 2
  else if leaf && decide (entryAddr e % pageSize level ≠ 0) then some 2
  else if leaf && !stage2 && decide (e.extractLsb' 7 4 ≠ 0) then some 2
  else if leaf && stage2 && decide (e.extractLsb' 8 2 = 3) then some 2
  else if leaf && stage2 && e.getLsbD 7 && decide (level ≠ 0) then some 2
  else none

/-- The compute core's part of the state. -/
def State.core (s : State) (n : Nat) : CoreSt := s.cores.get ⟨0, 0, [], []⟩ n

/-- One core replaced. -/
def State.setCore (s : State) (n : Nat) (c : CoreSt) : State :=
  { s with cores := s.cores.put ⟨0, 0, [], []⟩ n c }

/-- An entry held by the walk caches of a cluster (Table 14.7). -/
def State.walkHit (s : State) (w : Walker) (stage2 : Bool) (level at_ : Nat) : Option Word :=
  ((s.xlat.walk.get [] (clusterOf w.core)).find? fun e =>
    e.guest == w.guest && e.stage2 == stage2 && e.level == level && e.at_ == at_).map (·.word)

/-- A table entry read: from a walk cache, or as a load served at home in T (R364). -/
def State.readEntry (s : State) (w : Walker) (stage2 : Bool) (level pa : Nat) : State × Nat × Word :=
  match (if 2 ≤ level then s.walkHit w stage2 level pa else none) with
  | some e => (s, w.pts, e)
  | none =>
    let (d, t) := (s.home (s.guest w.guest).part pa).homeLoad w.pts (s.leaseLen w.guest pa) pa
    ({ s with dram := d }, t, BitVec.ofNat 64 (s.dram.bytes.num pa 8))

/-- A faultless entry of level 2 or above kept in the walk caches, 32 a level and stage. DEDUCED, safe: log 9. -/
def State.keepEntry (s : State) (w : Walker) (stage2 : Bool) (level pa : Nat) (e : Word) : State :=
  if level < 2 || (s.walkHit w stage2 level pa).isSome then s else
  let k := clusterOf w.core
  let l := s.xlat.walk.get [] k
  let same := l.filter fun x => x.stage2 == stage2 && x.level == level
  let l := if same.length < 32 then l else
    match same.getLast? with
    | some x => l.erase x
    | none => l
  { s with xlat := { s.xlat with walk := s.xlat.walk.put [] k (⟨w.guest, stage2, level, pa, e⟩ :: l) } }

/-- What stage 2 gives: the leaf, its level, and the address. -/
inductive S2 where
  | ok (pa kind size : Nat) (e : Word)
  | fault (level ty : Nat)
  | lazy

/-- The end of the bytes from an address that some ranges cover without a gap; `n` bounds the ranges followed. -/
def coveredTo (l : List (Nat × Nat × Nat)) (a : Nat) : Nat → Nat
  | 0 => a
  | n + 1 => match l.find? fun r => decide (r.2.1 ≤ a) && decide (a < r.2.1 + r.2.2) with
    | some r => coveredTo l (r.2.1 + r.2.2) n
    | none => a

/-- Whether some physical bytes lie in the locked memory ranges of the guest's partition (R363). -/
def State.inRanges (s : State) (g pa n : Nat) : Bool :=
  let l := s.ranges.filter fun r => r.1 == (s.guest g).part
  decide (pa + n ≤ coveredTo l pa l.length)

/-- The group of 16 leaves around the entry at an address is as R365 asks: the same attributes, addresses that follow
the index, and a base that is a multiple of the group, the entry itself among them. Where it is not, each leaf maps its own page alone, so that a
breach reaches nothing that the leaf does not map. DEDUCED, safe: log 98. -/
def Dram.groupOk (d : Dram) (at_ sz : Nat) (e : Word) : Bool :=
  let leaf (i : Nat) : Word := BitVec.ofNat 64 (d.bytes.num (at_ / 128 * 128 + 8 * i) 8)
  e.getLsbD 6 && leaf (at_ / 8 % 16) == e && decide (entryAddr (leaf 0) % (16 * sz) = 0) && (List.range 16).all fun i =>
    (leaf i).extractLsb' 0 12 == e.extractLsb' 0 12 && entryAddr (leaf i) == entryAddr (leaf 0) + i * sz

/-- The physical address that serves an access while pages migrate: until the switch, the new page of a locked one is
not reached, and the old copy serves (R369, 07 R153). -/
def Dram.served (d : Dram) (pa : Nat) : Nat :=
  match d.locks.find? fun e => e.2 == some (pa / 2 ^ 12) with
  | some e => e.1 * 2 ^ 12 + pa % 2 ^ 12
  | none => pa

/-- The walk of stage 2 (R362, R363), from level `n - 1` down. A leaf with any byte outside the partition's ranges
points outside them. DEDUCED, safe: log 98. -/
def State.walk2 (s : State) (w : Walker) (ia table : Nat) (acc : Access) : Nat → State × Nat × S2
  | 0 => (s, w.pts, .fault 0 2)
  | n + 1 =>
    let at_ := table + (ia / 2 ^ (12 + 9 * n)) % 512 * 8
    let (s, t, e) := s.readEntry w true n at_
    let w := { w with pts := t }
    match entryFault true n 3 e with
    | some ty => (s, t, .fault n ty)
    | none =>
      if e.getLsbD 1 then
        let sz := pageSize n
        let pa := entryAddr e + ia % sz
        let kind := (e.extractLsb' 8 2).toNat
        if !(permOf e).allows acc then (s, t, .fault n 1)
        else if kind = 0 && !s.inRanges w.guest (entryAddr e) sz then (s, t, .fault n 1)
        else if e.getLsbD 7 then (s, t, .lazy)
        else
          let s := s.keepEntry w true n at_ e
          let group := s.dram.groupOk at_ sz e &&
            (kind ≠ 0 || s.inRanges w.guest (entryAddr e / (16 * sz) * (16 * sz)) (16 * sz))
          (s, t, .ok pa kind (if group then 16 * sz else sz) e)
      else (s.keepEntry w true n at_ e).walk2 w ia (entryAddr e) acc n

/-- Stage 2 of an intermediate address (R362, R391). -/
def State.stage2 (s : State) (w : Walker) (ia : Nat) (acc : Access) : State × Nat × S2 :=
  let r := (s.guest w.guest).s2
  if !r.getLsbD 0 then (s, w.pts, .fault 3 0)
  else s.walk2 w (ia % 2 ^ 48) (entryAddr r) acc 4

/-- The lazy page of an intermediate address failed its check, so every access that waits on it faults (R370). -/
def State.lazyFailed (s : State) (guest ia : Nat) : Bool := s.xlat.lazyBad.contains (guest, ia / 2 ^ 12)

/-- What stage 1 gives. -/
inductive S1 where
  | ok (ia size : Nat) (e : Word)
  | fault (x : XFault)
  | lazy (ia : Nat)

/-- The walk of stage 1 (R361, R363), from level `n - 1` down; each entry's address goes through
stage 2. -/
def State.walk1 (s : State) (w : Walker) (va table : Nat) (acc : Access) : Nat → State × Nat × S1
  | 0 => (s, w.pts, .fault ⟨false, 0, acc, 2⟩)
  | n + 1 =>
    let ia := table + (va / 2 ^ (12 + 9 * n)) % 512 * 8
    match s.stage2 w ia .read with
    | (s, t, .fault l ty) => (s, t, .fault ⟨true, l, acc, ty⟩)
    | (s, t, .lazy) => (s, t, .lazy ia)
    | (s, t, .ok pa kind _ _) =>
      if kind ≠ 0 then (s, t, .fault ⟨true, 0, acc, 1⟩) else
      let pa := s.dram.served pa
      let (s, t, e) := s.readEntry { w with pts := t } false n pa
      let w := { w with pts := t }
      match entryFault false n 4 e with
      | some ty => (s, t, .fault ⟨false, n, acc, ty⟩)
      | none =>
        if e.getLsbD 1 then
          let sz := pageSize n
          if !(permOf e).allows acc then (s, t, .fault ⟨false, n, acc, 1⟩)
          else
            let s := s.keepEntry w false n pa e
            (s, t, .ok (entryAddr e + va % sz) (if s.dram.groupOk pa sz e then 16 * sz else sz) e)
        else (s.keepEntry w false n pa e).walk1 w va (entryAddr e) acc n

/-- Keeps a translation in the TLB of the core and of its cluster (Table 14.7). DEDUCED, safe: log 9. -/
def State.keepTlb (s : State) (core : Nat) (e : TlbEntry) : State :=
  let c := s.core core
  let k := clusterOf core
  let s := s.setCore core { c with tlb := (e :: c.tlb).take 64 }
  { s with xlat := { s.xlat with tlb := s.xlat.tlb.put [] k ((e :: s.xlat.tlb.get [] k).take 2048) } }

/-- A translation that a TLB holds and that permits the access (R364). -/
def State.tlbHit (s : State) (w : Walker) (va : Nat) (acc : Access) : Option (Nat × Nat) :=
  ((s.core w.core).tlb ++ s.xlat.tlb.get [] (clusterOf w.core)).find? (fun e =>
      e.guest == w.guest && decide (e.va ≤ va) && decide (va < e.va + e.size) &&
        e.perm1.allows acc && e.perm2.allows acc)
    |>.map fun e => (e.pa + (va - e.va), e.kind)

/-- The translation of a virtual address by a walk of both stages (R361 to R365, R370). -/
def State.walk (s : State) (w : Walker) (va : Nat) (acc : Access) : State × Nat × XOut :=
  let r := (s.guest w.guest).s1
  if !r.getLsbD 0 then (s, w.pts, .fault ⟨false, 4, acc, 0⟩) else
  match s.walk1 w va (entryAddr r) acc 5 with
  | (s, t, .fault x) => (s, t, .fault x)
  | (s, t, .lazy ia) => (s, t, if s.lazyFailed w.guest ia then .fault ⟨true, 0, acc, 4⟩ else .lazy ia)
  | (s, t, .ok ia sz1 e1) =>
    match s.stage2 { w with pts := t } ia acc with
    | (s, t, .fault l ty) => (s, t, .fault ⟨true, l, acc, ty⟩)
    | (s, t, .lazy) => (s, t, if s.lazyFailed w.guest ia then .fault ⟨true, 0, acc, 4⟩ else .lazy ia)
    | (s, t, .ok pa kind sz2 e2) =>
      let sz := min sz1 sz2
      (s.keepTlb w.core ⟨w.guest, va / sz * sz, sz, pa / sz * sz, kind, permOf e1, permOf e2⟩, t, .ok pa kind)

/-- The translation of a virtual address (R361 to R370), with the walker's program time after it, a fault's too. -/
def State.translate (s : State) (w : Walker) (va : Nat) (acc : Access) : State × Nat × XOut :=
  if 2 ^ 57 ≤ va then (s, w.pts, .fault ⟨false, 7, acc, 3⟩)
  else
    let r := match s.tlbHit w va acc with
      | some (pa, kind) => (s, w.pts, .ok pa kind)
      | none => s.walk w va acc
    match r with
    | (s, t, XOut.ok pa 0) => (s, t, .ok (s.dram.served pa) 0)
    | r => r

/-- Removes what an invalidation matches from the TLBs and walk caches (R367). Walk-cache entries of the
guest and stage go whatever the address, since one entry may serve any of them. -/
def State.invalidate (s : State) (guest stage range va : Nat) : State :=
  let hitG (g : Nat) : Bool := range == 2 || g == guest
  let keep (e : TlbEntry) : Bool :=
    !(hitG e.guest && (range ≠ 0 || (decide (e.va ≤ va) && decide (va < e.va + e.size)) || stage ≠ 0))
  let keepW (e : WalkEntry) : Bool :=
    !(hitG e.guest && (stage == 2 || (e.stage2 == (stage == 1))))
  { s with
    cores := s.cores.mapAll ⟨0, 0, [], []⟩ fun _ c => { c with tlb := c.tlb.filter keep }
    xlat := { s.xlat with
      tlb := s.xlat.tlb.mapAll [] fun _ l => l.filter keep
      walk := s.xlat.walk.mapAll [] fun _ l => l.filter keepW } }

end Sys2Proof.Machine
end

