-- ==== Sys2Proof/Machine/Generators.lean ====
section
/-! DEFINITION. The walk of an address generator over the scratchpad (06 R132 to R136). -/
namespace Sys2Proof.Machine

/-- Bytes of an element. -/
def GenCfg.bytes (g : GenCfg) : Nat := 2 ^ g.elem

/-- Elements of a line (06 R133). -/
def GenCfg.perLine (g : GenCfg) : Nat := 256 / g.bytes

/-- Indices of element `e`, innermost first (06 R133); the outermost index is not reduced. -/
def walkIndices : List Nat → Nat → List Nat
  | [], _ => []
  | [_], e => [e]
  | c :: t, e => (e % c) :: walkIndices t (e / c)

/-- Address of element `e` (06 R133). -/
def GenCfg.addr (g : GenCfg) (e : Nat) : Nat :=
  let ix := walkIndices g.counts e
  ((List.zip ix g.strides).foldl (fun (a : Int) p => a + (p.1 : Int) * p.2) (g.base : Int)).toNat

/-- Bytes of line `k`, read with the acquisitions `know` (06 R133). -/
def GenCfg.readLine (g : GenCfg) (m : Spad) (know : Know) (free k : Nat) : List Byte :=
  (List.range g.perLine).flatMap fun j =>
    let e := k * g.perLine + j
    if g.total ≤ e then List.replicate g.bytes 0 else m.load know free (g.addr e) g.bytes

/-- Line `k` stored, elements in ascending order; elements past the walk are dropped (06 R133). -/
def GenCfg.writeLine (g : GenCfg) (m : Spad) (k : Nat) (v : LineBits) : Spad :=
  (List.range g.perLine).foldl (fun m j =>
    let e := k * g.perLine + j
    if g.total ≤ e then m
    else m.store (g.addr e) (leBytes g.bytes (v.toNat / 2 ^ (8 * g.bytes * j)))) m

/-- A line from its bytes. -/
def lineOfBytes (bs : List Byte) : LineBits := BitVec.ofNat 2048 (leNat bs)

/-- An uncorrectable word under line `k` (06 R140): the address of the element that holds it. -/
def GenCfg.badLine (g : GenCfg) (m : Spad) (k : Nat) : Option Nat :=
  if m.bad.isEmpty then none else
  ((List.range g.perLine).find? fun j =>
    let e := k * g.perLine + j
    decide (e < g.total) && m.badIn (g.addr e) g.bytes).map fun j => g.addr (k * g.perLine + j)

/-- The 8-byte chunks under line `k`. -/
def GenCfg.chunksOf (g : GenCfg) (k : Nat) : List Nat :=
  ((List.range g.perLine).flatMap fun j =>
    let e := k * g.perLine + j
    if g.total ≤ e then []
    else (List.range ((g.addr e + g.bytes - 1) / 8 + 1 - g.addr e / 8)).map (g.addr e / 8 + ·)).eraseDups

/-- An uncorrectable word that a push of line `k` would merge into: an element covers it in part (06 R140). -/
def GenCfg.badPush (g : GenCfg) (m : Spad) (k : Nat) : Option Nat :=
  if m.bad.isEmpty then none else
  (List.range g.perLine).findSome? fun j =>
    let e := k * g.perLine + j
    if g.total ≤ e then none else m.badMerge (g.addr e) g.bytes

/-- The line that a push in the future of a write generator takes, after some lines that are under way. -/
def GenCfg.ahead (g : GenCfg) (pos n : Nat) : Nat := if g.wrap then (pos + n) % max 1 g.lines else pos + n

/-- The bounds of a walk (06 R134): the lowest and the highest byte. -/
def walkBounds (base : Int) (bytes : Nat) (dims : List (Nat × Int)) : Int × Int :=
  dims.foldl (fun b d =>
    let x : Int := ((d.1 : Int) - 1) * d.2
    (b.1 + min 0 x, b.2 + max 0 x)) (base, base + (bytes : Int) - 1)

/-- A box of scratchpad addresses is allocated (06 R134): inside the space, in one half of it, each
granule allocated. -/
def Ctx.boxAllocated (c : Ctx) (lo hi : Int) : Bool :=
  decide (0 ≤ lo) && decide (hi < 2 ^ 22) && decide (lo.toNat / 2 ^ 21 = hi.toNat / 2 ^ 21) &&
    c.allocatedRange lo.toNat (hi - lo + 1).toNat

end Sys2Proof.Machine
end

