-- ==== Sys2Proof/Machine/Issue.lean ====
section
/-! DEFINITION. The issue of an instruction: the checks of 02 R44 in order, the conditions of R26, what
R26 and R37 do at issue; the retire of R27; and the undoing of R28. -/
namespace Sys2Proof.Machine

/-! ### What an instruction asks for -/

/-- A generator operand: its number, whether it is written, and how many lines must be left (R40, 11
R267); `any` only asks that the generator exists (R137). -/
structure GenUse where
  g : Nat
  write : Bool
  lines : Nat
  any : Bool
  deriving DecidableEq, Repr, Inhabited

/-- What the issue of an instruction looks at. `wf` is its static check (R35), `self` whether it names
its own sequencer (R24 aside), `srcs` its scalar sources in the order they are read, `dst` its scalar
destination, `boSrc` the branch-outcome queue it pops and `bo` the one it pushes to, `gsrc` its generator-form sources in order, `check` a trap found before issue after GEN_FAULT,
`cls` its current class (which `clsLate` says a GSET in flight may still change), `wait` its own unmet coupling
condition, `hold` whether it waits otherwise, `reads` and `writes` what it names beside its specifiers, `sticky` what it
only adds to at its retire, and `spad` whether it reaches the scratchpad at its issue. -/
structure Req where
  opc : Nat
  cm : Common
  wf : Bool
  self : Bool := false
  long : Bool := false
  priv : Bool := false
  brk : Option (BitVec 16) := none
  tiles : List Nat := []
  gens : List GenUse := []
  check : Option Trap := none
  cls : Nat := 0
  clsLate : Bool := false
  srcs : List Spec := []
  dst : Option Spec := none
  boSrc : Option Nat := none
  gsrc : List Nat := []
  wait : Option Wait := none
  hold : Bool := false
  reads : List Loc := []
  writes : List Loc := []
  sticky : List Loc := []
  spad : Bool := false
  bo : Option Nat := none
  store : Bool := false

/-- What an instruction came to at its issue: what it changed at once, what its retire will do, what its
retire waits for, and where the flow goes. -/
structure Done where
  s : State
  eff : List Effect := []
  gate : Gate := .open_
  flow : Flow := .seq
  ended : Bool := false

/-- The result of issuing: the effect, a trap after issue, a trap whose TRAP.PC is the next word (R348),
a wait that the operands' values show (not a coupling wait), a coupling wait of the same kind, a feed
wait (12 R292), a wait that leaves something in the state (a request of 13 R327, the reads of a walk), or a trap that
does (14 R364). -/
inductive Result where
  | ok (d : Done)
  | trap (t : Trap)
  | trapNext (t : Trap)
  | wait
  | waitOn (w : Wait)
  | feed (queues : List Nat) (task pops : Bool)
  | enlist (f : State → State)
  | trapLeaves (f : State → State) (t : Trap)
  | stop (st : Stop) (d : Done)
  | fault (f : Fault)

/-! ### The checks before issue (R44) -/

/-- Sequencers that may run an opcode (02 Table 2.17). -/
def permitted (opc : Nat) (y : Sq) : Bool :=
  if opc = 0x52 then y == .l || y == .x
  else if opc = 0x53 then y == .x || y == .s
  else if opc = 0x57 ∨ opc = 0x58 then y == .x
  else if opc = 0x68 then y == .c
  else if opc = 0x70 then y != .x
  else if opc = 0x73 ∨ opc = 0x74 ∨ opc = 0x76 then y == .c
  else if 0x78 ≤ opc ∧ opc ≤ 0xB9 then y == .x
  else if 0xC0 ≤ opc ∧ opc ≤ 0xC7 then y == .c
  else if 0xE2 ≤ opc ∧ opc ≤ 0xE4 then y == .c
  else if opc = 0xE7 then y == .c
  else true

/-- A mask names the executing sequencer (R24). -/
def ownBit (m : BitVec 4) (y : Sq) : Bool := m.getLsbD y.num

/-- A specifier names the executing sequencer's own queue (R36). -/
def ownQueue (y : Sq) (f : Spec) : Bool := Spec.queue f == some y

/-- The checks of ILLEGAL_ENC (R24, R35, R36). -/
def Req.encOk (r : Req) (y : Sq) : Bool :=
  r.wf && !r.self && !ownBit r.cm.tw y && !ownBit r.cm.ts y &&
    !(r.srcs.any (ownQueue y)) && !(match r.dst with | some d => ownQueue y d | none => false)

/-- An issued instruction of the sequencer will still write a location (R29). -/
def Seqr.pending (q : Seqr) (l : Loc) : Bool := q.inflight.any fun p => p.uses.contains l

/-- A GSET or GPOS of the sequencer has issued for a generator and not retired. -/
def Seqr.genPending (q : Seqr) (g : Nat) : Bool :=
  q.inflight.any fun p => p.effects.any fun
    | .genSet n _ => n == g
    | .genPos n _ => n == g
    | _ => false

/-- Lines that issued instructions of the context will still push into a write generator. -/
def Ctx.genPushes (c : Ctx) (g : Nat) : Nat :=
  (Sq.order.flatMap fun y => (c.seq.get y).inflight.flatMap fun p => p.effects.filter fun
    | .genLine n _ => n == g
    | _ => false).length

/-- The trap of a push of some lines into a write generator that would merge into an uncorrectable word (06 R140). -/
def Ctx.pushEcc (c : Ctx) (g n : Nat) : Option Trap :=
  match (c.gen g).cfg with
  | none => none
  | some k => (List.range n).findSome? fun i =>
      (k.badPush c.spad (k.ahead (c.gen g).pos (c.genPushes g + i))).map fun a => Trap.at .eccUncorr (BitVec.ofNat 64 a)

/-- A generator operand passes its check (R40, 06 R136, 11 R267). While a GSET or GPOS of the same
sequencer has not retired, the operand waits for it. DEDUCED, safe: log 28. DEDUCED, unsafe: log 29. -/
def GenUse.ok (u : GenUse) (c : Ctx) (q : Seqr) : Bool :=
  decide (u.g < c.gensN) && (u.any || q.genPending u.g ||
    match (c.gen u.g).cfg with
    | none => false
    | some k => k.write == u.write &&
        (k.wrap || decide ((c.gen u.g).pos + c.genPushes u.g + u.lines ≤ k.lines)))

/-- The first trap that applies before issue, in the order of R44. DEDUCED, safe: log 28. -/
def Req.preTrap (r : Req) (c : Ctx) (y : Sq) : Option Trap :=
  if !permitted r.opc y then some (Trap.plain .illegalSeq)
  else if !r.encOk y then some (Trap.plain .illegalEnc)
  else if r.priv then some (Trap.plain .priv)
  else match r.brk with
    | some k => some { Trap.plain .brk with code := k }
    | none =>
      if r.tiles.any fun t => decide (c.tilesN ≤ t) then some (Trap.plain .tileRange)
      else if r.gens.any fun u => !u.ok c (c.seq.get y) then some (Trap.plain .genFault)
      else match r.check with
        | some t => some t
        | none =>
          if c.power.g < r.cls && !(c.seq.get y).pending (.sr 6) &&
              !(r.clsLate && r.gens.any fun u => (c.seq.get y).genPending u.g) then
            some (Trap.plain .powerOver)
          else none

/-! ### The conditions of issue (R26, R29, R37) -/

/-- How many of the sources name the queue from `z`. -/
def Req.needs (r : Req) (z : Sq) : Nat := (r.srcs.filter fun f => Spec.queue f == some z).length

/-- The first coupling condition that does not hold, in the order of R26; the word's own condition, which R26 does not
list, comes last. DESIGN CHOICE, unsafe: log 97. -/
def Req.firstWait (r : Req) (c : Ctx) (y : Sq) : Option Wait :=
  let tok := Sq.order.find? fun z => r.cm.tw.getLsbD z.num && (c.chan .tok (chanIx z y)).avail.isEmpty
  let room := Sq.order.find? fun z => r.cm.ts.getLsbD z.num && decide (31 ≤ (c.chan .tok (chanIx y z)).occupancy)
  let src := Sq.order.find? fun z => decide ((c.chan .data (chanIx z y)).avail.length < r.needs z)
  let dst := match r.dst with
    | some (.q z) => if 8 ≤ (c.chan .data (chanIx y z)).occupancy then some z else none
    | _ => none
  match tok with
  | some z => some ⟨0, z.num⟩
  | none =>
    if r.cm.ew ≠ 0 && !c.event r.cm.ew.toNat then some ⟨1, r.cm.ew.toNat⟩
    else match room with
    | some z => some ⟨2, z.num⟩
    | none => match src with
      | some z => some ⟨3, z.num⟩
      | none => match dst with
        | some z => some ⟨3, z.num⟩
        | none => r.wait

/-- Registers that an instruction reads or writes (R29). -/
def Req.locs (r : Req) : List Loc :=
  r.srcs.flatMap Spec.loc ++ (match r.dst with | some d => Spec.loc d | none => []) ++ r.reads ++ r.writes

/-- An issued instruction of the sequencer will still push a line into the scratchpad: what reaches the scratchpad at
its issue waits for it, so that the accesses of one sequencer take effect in program order (06 R126). -/
def Seqr.pushes (q : Seqr) : Bool :=
  q.inflight.any fun p => p.effects.any fun
    | .genLine _ _ => true
    | _ => false

/-- An earlier instruction of the sequencer will still write something that this one names (R29). -/
def Req.interlocked (r : Req) (q : Seqr) : Bool :=
  q.inflight.any fun p => p.uses.any fun l => l == .all || r.locs.contains l

/-- The seventeenth unretired store waits (07 R149). -/
def Req.storesFull (r : Req) (q : Seqr) : Bool := r.store && decide (16 ≤ (q.inflight.filter (·.store)).length)

/-- A multiply that a stop at a block boundary may still undo, with every later word of X (11 R278). -/
def Seqr.multiplies (q : Seqr) : Bool := q.inflight.any fun p => p.gate == .matrix && decide (0xB1 ≤ p.opc ∧ p.opc ≤ 0xB3)

/-- Words whose issue acts on more than the entries that they pop: R28 could not undo them. They wait for a multiply that
a stop may still undo. DEDUCED, unsafe: log 41. -/
def actsAtIssue (opc : Nat) : Bool :=
  decide (0x60 ≤ opc ∧ opc ≤ 0x66) || [0x48, 0x4A, 0x71, 0xC8, 0xC9, 0xCA, 0xD0].contains opc

/-- An interlock holds the instruction (R29), or it waits for another reason that is no coupling wait. -/
def Req.held (r : Req) (c : Ctx) (q : Seqr) : Bool :=
  r.hold || r.interlocked q ||
    (r.gens.any fun u => q.genPending u.g || c.seq.x.inflight.any fun p =>
      decide (0xB1 ≤ p.opc ∧ p.opc ≤ 0xB6) && p.uses.contains (.gen u.g)) ||
    (r.spad && q.pushes) || r.storesFull q || (q.multiplies && (r.spad || actsAtIssue r.opc)) || decide (c.power.a < r.cls)

/-- The instruction waits for an LD of its sequencer or for a store slot (13 R334). -/
def Req.memWaits (r : Req) (q : Seqr) : Bool :=
  r.storesFull q ||
    q.inflight.any fun p => (p.opc == 0x60 || p.opc == 0x62) && p.uses.any fun l => r.locs.contains l

/-- A generator source has fewer lines buffered than the instruction pops (R40). -/
def Req.short (r : Req) (c : Ctx) : Bool :=
  r.gsrc.any fun g => decide ((c.gen g).buf.length < (r.gsrc.filter (· == g)).length)

/-- The line that a generator source waits for holds an uncorrectable word (06 R140). -/
def Req.badLine (r : Req) (c : Ctx) : Option Trap :=
  r.gsrc.findSome? fun g =>
    match (c.gen g).cfg with
    | none => none
    | some k =>
      (k.badLine c.spad (((c.gen g).pos + (c.gen g).buf.length) % max 1 k.lines)).map fun a =>
        Trap.at .eccUncorr (BitVec.ofNat 64 a)

/-- The limit of the watchdog for the head word (05 R110, R111). -/
def watchLimit (c : Ctx) (q : Seqr) : Nat := match q.oneShot with | some n => n | none => c.wdog.toNat

/-! ### Issue -/

/-- The operands taken at issue (R26, R37, R40): tokens, then the carriers of the event waited for, then
the scalar sources, then generator lines. -/
def Req.take (r : Req) (c : Ctx) (y : Sq) : Taken :=
  let t : Taken := ⟨c, [], [], []⟩
  let t := Sq.order.foldl (fun t z =>
    if r.cm.tw.getLsbD z.num then (t.pop y .tok (chanIx z y)).1 else t) t
  let t := if r.cm.ew = 0 then t else
    { t with ctx := t.ctx.setSeq y ((t.ctx.seq.get y).receive (c.eventCarry r.cm.ew.toNat)) }
  let t := r.srcs.foldl (Taken.source y) t
  let t := match r.boSrc with
    | some ch => let (t', v) := t.pop y .bo ch
                 { t' with words := t'.words ++ [v] }
    | none => t
  r.gsrc.foldl (Taken.line y) t

/-- The slots reserved at issue (R26, R37, 05 R93). -/
def Req.slots (r : Req) (y : Sq) : List (ChanKind × Nat) :=
  (Sq.order.filter fun z => r.cm.ts.getLsbD z.num).map (fun z => (ChanKind.tok, chanIx y z)) ++
    (match r.dst with | some (.q z) => [(ChanKind.data, chanIx y z)] | _ => []) ++
    (match r.bo with | some ch => [(ChanKind.bo, ch)] | none => [])

/-- What an effect writes, for the interlock (R29). -/
def Effect.loc : Effect → List Loc
  | .s n _ => [.s n]
  | .k n _ => [.k n]
  | .b n _ => [.b n]
  | .p n _ => [.p n]
  | .sr n _ => [.sr n]
  | .flags _ => [.sr 4]
  | .rngCtr _ => [.sr 0xB]
  | .line t _ _ _ => [.tile t.tile.toNat]
  | .tag t _ | .retag t _ => [.tile t]
  | .oldTag d _ => Spec.loc d
  | .zzero t n => (List.range n).map fun i => .tile (t + i)
  | .genLine g _ => [.gen g]
  | .genSet g _ => [.gen g]
  | .genPos g _ => [.gen g]
  | .shape _ => [.shape]
  | .endSeq => [.all]
  | .budget _ d => .sr 7 :: Spec.loc d
  | .power _ _ => [.sr 6]
  | .cpush _ => []
  | .push _ _ _ | .discardChan _ _ _ | .event _ _ | .ringInit _ _ _ _ | .ringPut _ | .ringRel _
  | .scope _ _ | .spad _ _ | .discard _ _ _ | .task _ => []
  | .fence _ _ _ _ => [.all]

/-- The resume record of the matrix engine is dropped when X issues a word at another address (11 R278). -/
def Ctx.dropResume (c : Ctx) (y : Sq) (pc : VA) : Ctx :=
  match c.matrix.resume with
  | some r => if y = .x ∧ r.pc ≠ pc then { c with matrix := { c.matrix with resume := none } } else c
  | none => c

/-- A context with no feed wait, where sequencer `y` is C. -/
def Ctx.leaveFeed (c : Ctx) (y : Sq) : Ctx :=
  if y = .c then { c with tasks := { c.tasks with feedWait := none } } else c

/-- A word that issues waits for no grant any more: a request that its sequencer still has is no longer one (13 R327). -/
def Ctx.endRequest (c : Ctx) (y : Sq) : Ctx :=
  if c.power.waits.any fun e => e.1 == y then
    { c with power := { c.power with
        waits := c.power.waits.filter fun e => e.1 != y
        given := if c.power.given = some y then none else c.power.given } }
  else c

/-- The issued instruction joins those in flight: its slots are reserved, the flow goes on, the watchdog
starts anew, and what it holds and will do is recorded (R26, R37, 05 R110, R111). -/
def accept (r : Req) (t : Taken) (d : Done) : State :=
  let y := d.s.who.y
  let c := (r.slots y).foldl (fun c e => c.setChan e.1 e.2 (c.chan e.1 e.2).reserve) d.s.me
  let q := c.seq.get y
  let p : Pending :=
    { opc := r.opc, pc := q.pc, ts := r.cm.ts, es := r.cm.es, pops := t.pops, rsvs := r.slots y
      effects := d.eff, gate := d.gate, carry := q.carry
      uses := r.writes ++ r.sticky ++ d.eff.flatMap Effect.loc ++ (r.gens.map fun u => .gen u.g)
      reads := r.reads.filter fun | .tile _ => true | _ => false
      store := r.store, cls := r.cls, undo := q.loops }
  let pc := q.pc
  let q := { q.flow r.long d.flow with
    inflight := q.inflight ++ [p], lastWait := q.waited, waited := 0, waiting := none, stalled := false, memWait := false }
  d.s.setMe (((c.setSeq y { q with ended := q.ended || d.ended }).dropResume y pc).leaveFeed y |>.endRequest y)

/-- A word that stands in a coupling wait; the cycles it waits are counted as they pass (05 R110, Pass.lean).
DEDUCED, unsafe: log 94. -/
def State.countWait (s : State) (w : Wait) : State :=
  s.setMe ((s.me.leaveFeed s.who.y).setSeq s.who.y { s.sq with waiting := some w, stalled := false, memWait := false })

/-- A word that waits otherwise: no coupling wait, not counted; `power` where it waits under 13 R324, and `mem` where it
waits for an LD or a store slot (13 R334). DEDUCED, unsafe: log 94. -/
def State.stallWait (s : State) (power mem : Bool) : State :=
  s.setMe ((s.me.leaveFeed s.who.y).setSeq s.who.y { s.sq with waiting := none, stalled := power, memWait := mem })

/-- A word that waits for none of these reasons. -/
def State.noWait (s : State) : State := s.stallWait false false

/-- A word that stands in a feed wait (12 R292); it keeps its place among the waiters (R291). -/
def State.feedWaits (s : State) (queues : List Nat) (task pops : Bool) : State :=
  let since := match s.me.tasks.feedWait with
    | some w => if w.queues = queues ∧ w.task = task ∧ w.pops = pops then w.since else s.nextUid
    | none => s.nextUid
  let c := s.noWait.me
  { s.noWait.setMe { c with tasks := { c.tasks with feedWait := some ⟨queues, task, pops, since⟩ } } with
    nextUid := s.nextUid + 1 }

/-- The watchdog is due: its count, which only cycles of a coupling wait raise, has exceeded the word's limit, and
WAIT_TIMEOUT traps the word before it can issue (05 R110). -/
def State.timeoutDue (s : State) : Bool := decide (watchLimit s.me s.sq < s.sq.waited)

/-- The word at the head of the executing sequencer: it traps, waits, or issues (R26, R44, R339). -/
def issue (r : Req) (body : State → List Word → List LineBits → Result) (s : State) : Out :=
  match r.preTrap s.me s.who.y with
  | some t => .next (s.takeTrap t)
  | none =>
    if s.timeoutDue then .next s
    else match r.firstWait s.me s.who.y with
    | some w => .next (s.countWait w)
    | none =>
      if r.held s.me s.sq then .next (s.stallWait (decide (s.me.power.a < r.cls)) (r.memWaits s.sq))
      else if r.short s.me then
        match r.badLine s.me with
        | some t => .next (s.takeTrap { t with after := true })
        | none => .next s.noWait
      else
        let t := r.take s.me s.who.y
        let q := t.ctx.seq.get s.who.y
        match body (s.setMe (t.ctx.setSeq s.who.y { q with oneShot := none })) t.words t.lines with
        | .ok d => .next (accept r t d)
        | .trap x => .next (s.takeTrap { x with after := true })
        | .trapNext x =>
          .next ((s.setSq { s.sq with pc := s.sq.pc + 8, lastWait := s.sq.waited }).takeTrap { x with after := true })
        | .wait => .next s.noWait
        | .waitOn w => .next (s.countWait w)
        | .feed qs t p => .next (s.feedWaits qs t p)
        | .enlist f => .next (f s.noWait)
        | .trapLeaves f x => .next ((f s).takeTrap { x with after := true })
        | .stop st d =>
          let s' := accept r t d
          .next (s'.setMe { s'.me with stop := some st })
        | .fault f => .fault f

end Sys2Proof.Machine
end

