-- ==== Sys2Proof/Machine/Retire.lean ====
section
/-! DEFINITION. Special registers (04 R64 to R67), what each effect does at a retire (02 R27), and the
undoing of an issued instruction (R28). -/
namespace Sys2Proof.Machine

/-! ### Special registers -/

/-- Flushing is on (04 Table 4.5): under NBV 1 always. -/
def Ctx.fzOn (c : Ctx) : Bool := c.nbv == 1 || c.fz

/-- One bit as a number. -/
def bitNum (b : Bool) : Nat := if b then 1 else 0

/-- TRAP.PC of a sequencer. -/
def Ctx.trapPcOf (c : Ctx) (y : Sq) : Word := (c.trapPc.get y).setWidth 64

/-- A special register read at issue (04 Tables 4.2 to 4.6); none where the number is unassigned. -/
def Ctx.readSr (c : Ctx) (core slot cycle : Nat) (y : Sq) (n : Nat) : Option Word :=
  let q := c.seq.get y
  let w (v : Nat) : Option Word := some (BitVec.ofNat 64 v)
  if n = 0x000 then w (core + slot * 2 ^ 6 + c.guest * 2 ^ 8 + c.part * 2 ^ 16)
  else if n = 0x001 then w (bitNum c.discarded + 2 * bitNum c.qleft + 4 * bitNum c.handler + 8 * bitNum c.borrow)
  else if n = 0x002 then w (c.rm.toNat + 8 * bitNum c.fzOn)
  else if n = 0x003 then w c.nbv
  else if n = 0x004 then w c.flags.toNat
  else if n = 0x005 then w (c.heat + 4 * bitNum c.borrow)
  else if n = 0x006 then w c.power.g
  else if n = 0x007 then w c.budget
  else if n = 0x008 then w c.wdog.toNat
  else if n = 0x009 then w cycle
  else if n = 0x00A then some c.rngKey
  else if n = 0x00B then some c.rngCtr
  else if n = 0x010 then some c.trapVec
  else if n = 0x011 then w c.trapCause
  else if n = 0x012 then some (c.trapPcOf .c)
  else if n = 0x013 then some (c.trapPcOf .l)
  else if n = 0x014 then some (c.trapPcOf .x)
  else if n = 0x015 then some (c.trapPcOf .s)
  else if n = 0x016 then some c.trapAddr
  else if n = 0x017 then some c.trapInfo
  else if 0x020 ≤ n ∧ n < 0x028 then some (c.coords.get 0 (n - 0x020))
  else if 0x030 ≤ n ∧ n < 0x040 then some (c.args.get 0 (n - 0x030))
  else if n = 0x100 then w q.retPts
  else if n = 0x101 then some q.retired
  else if n = 0x102 then w ((List.range 8).foldl (fun a i => a + bitNum (q.level i).active * 2 ^ i) 0)
  else if n = 0x103 then w ((List.range 8).foldl (fun a i => a + bitNum (q.breg i).prepared * 2 ^ i) 0)
  else if 0x108 ≤ n ∧ n < 0x110 then
    some (if (q.level (n - 0x108)).active then (q.level (n - 0x108)).trip else 0)
  else none

/-- Special registers that MTS may write in some mode (04 Table 4.2). -/
def srWritable (n : Nat) : Bool :=
  n == 1 || n == 2 || n == 4 || n == 8 || n == 0xA || n == 0xB || n == 0x10 ||
    (decide (0x12 ≤ n) && decide (n ≤ 0x15))

/-- TRAP.PC registers, which only a handler writes (04 R65). -/
def srHandlerOnly (n : Nat) : Bool := decide (0x12 ≤ n) && decide (n ≤ 0x15)

/-- A word address: 57 bits with [2:0] zero (14 R351). -/
def wordAddr (v : Word) : VA := (v.setWidth 57) &&& ~~~7#57

/-- A special register written at retire (04 R65, R85, Tables 4.2 to 4.6). -/
def Ctx.writeSr (c : Ctx) (n : Nat) (v : Word) : Ctx :=
  if n = 1 then { c with discarded := c.discarded && !v.getLsbD 0 }
  else if n = 2 then
    { c with
      rm := if (v.extractLsb' 0 3).toNat ≤ 4 then v.extractLsb' 0 3 else c.rm
      fz := if c.nbv = 1 then c.fz else v.getLsbD 3 }
  else if n = 4 then { c with flags := v.extractLsb' 0 5 }
  else if n = 8 then
    { c with wdog := if (v.extractLsb' 0 32).toNat < 0x400 then 0x400 else v.extractLsb' 0 32 }
  else if n = 0xA then { c with rngKey := v }
  else if n = 0xB then { c with rngCtr := v }
  else if n = 0x10 then { c with trapVec := v &&& ~~~7#64 }
  else if n = 0x12 then { c with trapPc := c.trapPc.set .c (wordAddr v) }
  else if n = 0x13 then { c with trapPc := c.trapPc.set .l (wordAddr v) }
  else if n = 0x14 then { c with trapPc := c.trapPc.set .x (wordAddr v) }
  else if n = 0x15 then { c with trapPc := c.trapPc.set .s (wordAddr v) }
  else c

/-! ### Rings (05 R101 to R104) -/

/-- A ring of a context. -/
def Ctx.ring (c : Ctx) (n : Nat) : Ring := c.rings.get Ring.empty n

/-- One ring replaced. -/
def Ctx.setRing (c : Ctx) (n : Nat) (r : Ring) : Ctx := { c with rings := c.rings.put Ring.empty n r }

/-- Free slots of a ring. -/
def Ring.free (r : Ring) : Nat := r.count - r.nfill - r.filled - r.ncons

/-- The address of a slot. -/
def Ring.slot (r : Ring) (i : Nat) : Nat := r.base + i * r.size * 256

/-- A claim for fill (R103). -/
def Ring.claimFill (r : Ring) : Ring :=
  { r with tail := (r.tail + 1) % r.count, nfill := r.nfill + 1, fillClaims := r.fillClaims + 1 }

/-- The slot that a claim for consume takes (R103). -/
def Ring.nextCons (r : Ring) : Nat := (r.head + r.ncons) % r.count

/-- A claim for consume (R103). -/
def Ring.claimCons (r : Ring) : Ring :=
  { r with ncons := r.ncons + 1, filled := r.filled - 1, posted := r.posted.tail, consClaims := r.consClaims + 1 }

/-- The oldest claimed fill slot is filled (R104), with what its poster hands over (07 R145).
DEDUCED, safe: log 36. -/
def Ring.post (r : Ring) (k : Carry) : Ring :=
  { r with nfill := r.nfill - 1, filled := r.filled + 1, posted := r.posted ++ [k], posts := r.posts + 1 }

/-- The oldest consume claim is released (R104). -/
def Ring.release (r : Ring) : Ring :=
  { r with head := (r.head + 1) % r.count, ncons := r.ncons - 1, rels := r.rels + 1 }

/-- Retires of the context that will still act on a ring: those of issued RPUTs, or of issued RRELs (R104). -/
def Ctx.ringActs (c : Ctx) (n : Nat) (put : Bool) : Nat :=
  (Sq.order.flatMap fun y => (c.seq.get y).inflight.flatMap fun p => p.effects.filter fun
    | .ringPut m => put && m == n
    | .ringRel m => !put && m == n
    | _ => false).length

/-- A ring set by RINIT (R102). -/
def Ring.set (base size count : Nat) : Ring :=
  { Ring.empty with valid := true, base := base, size := size, count := count }

/-! ### Effects at retire -/

/-- What a FENCE E acquires: the commands that had completed at its issue, and those it waited for (07 R175). -/
def Ctx.completions (c : Ctx) (base : Carry) (uids : List Nat) : Carry :=
  uids.foldl (fun k u => k.join (c.doneCarry.get ⟨0, []⟩ u)) base

/-- The code ring of a sequencer emptied (02 R47). -/
def Seqr.dropCode (q : Seqr) : Seqr := { q with ring := [] }

/-- What a FENCE does to its sequencer at its retire, in the order E, A, I (07 R175): E acquires and releases at the
scope, which the next store carries; A acquires what earlier loads read from; I orders code. -/
def Seqr.fenced (q : Seqr) (kinds : BitVec 3) (k : Carry) (m : Members) : Seqr :=
  let q := if kinds.getLsbD 0 then
      let q := q.receive k
      { q with fence := Know.union q.fence (q.know.release m) }
    else q
  let q := if kinds.getLsbD 1 then { q with know := Know.union q.know (q.seen.acquire m) } else q
  if kinds.getLsbD 2 then q.dropCode else q

/-- DISCARD (14 R353): marks of tiles, of scratchpad lines, or every mark cleared. -/
def Ctx.discard (c : Ctx) (kind t n : Nat) : Ctx :=
  if kind = 0 then
    (List.range n).foldl (fun c i => c.setTile (t + i) { c.tile (t + i) with mark := true }) c
  else if kind = 1 then
    { c with spad := { c.spad with
        mark := (List.range (n / 512)).foldl (fun m i => m.put false (t / 512 + i) true) c.spad.mark } }
  else
    { c with
      tiles := c.tiles.mapAll Tile.empty fun _ x => { x with mark := false }
      spad := { c.spad with mark := [] } }

/-- A word that a retire finds, delivered to a destination of its instruction (04 R63): a register or a queue slot. -/
def Ctx.deliver (c : Ctx) (y : Sq) (k : Carry) (d : Spec) (v : Word) : Ctx :=
  match d with
  | .s n => c.setSeq y ((c.seq.get y).setReg n.toNat v)
  | .q z => c.setChan .data (chanIx y z) ((c.chan .data (chanIx y z)).fill v k)
  | .li _ => c

/-- What one effect does to the context of the retiring sequencer `y`, whose instruction carries `k`. -/
def Effect.apply (y : Sq) (k : Carry) (c : Ctx) : Effect → Ctx
  | .s n v => c.setSeq y ((c.seq.get y).setReg n v)
  | .push kind ch v => c.setChan kind ch ((c.chan kind ch).fill v k)
  | .k n v => c.setSeq y ((c.seq.get y).setCond n v)
  | .b n v => c.setSeq y ((c.seq.get y).setBreg n v)
  | .p n v => c.setPred n v
  | .sr n v => c.writeSr n v
  | .flags v => { c with flags := c.flags ||| v }
  | .rngCtr v => { c with rngCtr := v }
  | .line t j v m => c.setTile t.tile.toNat ((c.tile t.tile.toNat).writeLine t.dir j v m)
  | .tag t f => c.setTile t ((c.tile t).setTag f)
  | .retag t f => if (c.tile t).tag = f then c else c.setTile t ((c.tile t).setTag f)
  | .oldTag d t => c.deliver y k d (BitVec.ofNat 64 (c.tile t).tag)
  | .zzero t n => (List.range n).foldl (fun c i => c.setTile (t + i) (c.tile (t + i)).clear) c
  | .genLine g v =>
    match (c.gen g).cfg with
    | none => c
    | some cfg =>
      { c with spad := cfg.writeLine c.spad (c.gen g).pos v }.setGen g
        { c.gen g with pos := cfg.next (c.gen g).pos }
  | .genSet g cfg => c.setGen g ⟨some cfg, 0, []⟩
  | .genPos g pos => c.setGen g { c.gen g with pos := pos, buf := [] }
  | .discardChan kind ch below =>
    c.setChan kind ch { c.chan kind ch with avail := (c.chan kind ch).avail.filter fun e => decide (below ≤ e.num) }
  | .event m v => if v then c.setEvents m k else c.clearEvents m
  | .ringInit n base sz cnt => c.setRing n (Ring.set base sz cnt)
  | .ringPut n => c.setRing n ((c.ring n).post k)
  | .ringRel n => c.setRing n (c.ring n).release
  | .scope n m =>
    { c with scopes := c.scopes.upd Scope.empty n fun e => { m := m, stale := false, gen := e.gen + 1 } }
  | .shape w => { c with matrix := { c.matrix with shape := some w, resume := none } }
  | .budget v d =>
    { c.deliver y k d (BitVec.ofNat 64 c.budget) with budget := v }
  | .endSeq =>
    let q := c.seq.get y
    c.setSeq y { q with done := true, loops := [], b := [] }
  | .fence kinds base uids m => c.setSeq y ((c.seq.get y).fenced kinds (c.completions base uids) m)
  | .spad a bs => { c with spad := c.spad.store a bs }
  | .discard kind t n => c.discard kind t n
  | .power _ l => { c with power := { c.power with g := l, a := l } }
  | .cpush u =>
    let f (e : EngQueue) : EngQueue :=
      { e with jobs := e.jobs.map fun j => if j.uid = u then { j with issued := true } else j }
    { c with q0 := f c.q0, q1 := f c.q1 }
  | .task u => { c with tasks := { c.tasks with current := some u, rerun := false } }

/-- What a retire drops: a held entry of a channel (R27). -/
def Pop.drop (c : Ctx) : Pop → Ctx
  | .chan k ch _ => c.setChan k ch (c.chan k ch).drop
  | .line _ _ => c

/-- A retire turns each reserved token slot into a token; data and outcome slots are filled by their
effects (R27). -/
def pushToken (k : Carry) (c : Ctx) (e : ChanKind × Nat) : Ctx :=
  match e.1 with
  | .tok => c.setChan .tok e.2 ((c.chan .tok e.2).fill 0 k)
  | .data => c
  | .bo => c

/-- A sequencer takes the time of its oldest issued instruction, which retires (07 R148, R149). -/
def Ctx.takeTime (c : Ctx) (y : Sq) (p : Pending) : Ctx :=
  let q := c.seq.get y
  c.setSeq y { q with retPts := max q.retPts p.carry.pts }

/-- What the carriers of a retiring instruction hand over (07 R145, R148, R161): the program time at the retire, and
what its sequencer had acquired by its issue; a FENCE, behind which nothing issues, hands over what it acquires too. -/
def Ctx.carryOut (c : Ctx) (y : Sq) (p : Pending) : Carry :=
  let q := c.seq.get y
  ⟨max q.retPts p.carry.pts, if p.opc = 0x67 then Know.union p.carry.know q.know else p.carry.know⟩

/-- The retire of the oldest issued instruction of a sequencer (R27): its time taken, its results, its held entries
dropped, its tokens pushed, its event set, one more instruction retired. -/
def Ctx.retire (c : Ctx) (y : Sq) (p : Pending) : Ctx :=
  let c := c.takeTime y p
  let c := p.effects.foldl (Effect.apply y (c.carryOut y p)) c
  let c := p.pops.foldl Pop.drop c
  let k := c.carryOut y p
  let c := p.rsvs.foldl (pushToken k) c
  let c := if p.es = 0 then c else c.setEvents (1#16 <<< p.es.toNat) k
  let q := c.seq.get y
  c.setSeq y { q with retired := q.retired + 1, inflight := q.inflight.tail }

/-- What R28 puts back for one entry. -/
def Pop.restore (c : Ctx) : Pop → Ctx
  | .chan k ch e => c.setChan k ch ((c.chan k ch).unpop e)
  | .line g l =>
    let x := c.gen g
    match x.cfg with
    | none => c
    | some cfg => c.setGen g { x with buf := l :: x.buf, pos := if x.pos = 0 then cfg.lines - 1 else x.pos - 1 }

/-- A trap after issue undoes the issued instruction, the last of its sequencer (R28): entries return in
their order, slots are released, the loop stack and the address are those of the word. -/
def Ctx.undo (c : Ctx) (y : Sq) (p : Pending) : Ctx :=
  let c := p.pops.reverse.foldl Pop.restore c
  let c := p.rsvs.foldl (fun c e => c.setChan e.1 e.2 (c.chan e.1 e.2).release) c
  let q := c.seq.get y
  c.setSeq y { q with loops := p.undo, pc := p.pc, ended := false, inflight := q.inflight.dropLast, waiting := none }

/-- The matrix instruction of X in flight and every later word of X undone, the youngest first (11 R278, R28). -/
def Ctx.undoMatrix : Nat → Ctx → Ctx
  | 0, c => c
  | n + 1, c =>
    match c.seq.x.inflight.getLast? with
    | none => c
    | some p => if p.gate = .matrix then c.undo .x p else undoMatrix n (c.undo .x p)

end Sys2Proof.Machine
end

