-- ==== Sys2Proof/Machine/Local.lean ====
section
/-! DEFINITION. Local memory instructions: scratchpad, tiles and generators (06). -/
namespace Sys2Proof.Machine

/-! ### Addresses (R130, R131) -/

/-- The exact address of a base and a signed offset. -/
def effAddr (a : Word) (off : Int) : Int := (a.toNat : Int) + off

/-- The range and alignment checks of a scratchpad access (R130): the range first. -/
def Ctx.spadCheck (c : Ctx) (ea : Int) (n align : Nat) : Option Trap :=
  if ea < 0 ∨ 2 ^ 22 ≤ ea ∨ c.allocatedRange ea.toNat n = false then
    some (Trap.at .spadRange (BitVec.ofInt 64 ea))
  else if ea.toNat % align ≠ 0 then some (Trap.at .align (BitVec.ofInt 64 ea))
  else none

/-- The check made before issue, where the base is s0 (R44, R130). -/
def Ctx.constCheck (c : Ctx) (a : Spec) (off : Int) (n align : Nat) : Option Trap :=
  if a = .s 0 then c.spadCheck off n align else none

/-- What an LDS of a phase word acquires: the command that wrote the phase which it reads (07 R158). The phase is bit 0
of the word, so the LDS reads the word's first byte. DEDUCED, safe: log 46. -/
def Spad.phaseCarry (m : Spad) (know : Know) (free a : Nat) : Carry :=
  if a % 8 ≠ 0 then ⟨0, []⟩ else
  match (m.chunk know free (a / 8)).1 with
  | none => ⟨0, []⟩
  | some u => match (m.phase.get [] (a / 8)).find? fun e => e.1 == u with
    | some e => e.2
    | none => ⟨0, []⟩

/-- The signed byte offset of a field of 22 bits. -/
def off22 (off : BitVec 22) : Int := off.toInt

/-! ### LDS and STS (R130) -/

/-- LDS. -/
def execLds (cm : Common) (d a : Spec) (size : BitVec 2) (sx : Bool) (off : BitVec 22) (s : State) : Out :=
  let n := 2 ^ size.toNat
  issue { opc := 0x50, cm := cm, wf := (Instr.lds cm d a size sx off).wellFormed, srcs := [a], dst := some d,
          cls := 1, check := s.me.constCheck a (off22 off) n n, spad := true }
    (fun s w _ =>
      let ea := effAddr (w.getD 0 0) (off22 off)
      let c := s.me
      match c.spadCheck ea n n with
      | some t => .trap t
      | none =>
        match c.spad.badAddr ea.toNat n with
        | some x => .trap (Trap.at .eccUncorr (BitVec.ofNat 64 x))
        | none =>
          let v := leNat (c.spad.load s.sq.know s.free ea.toNat n)
          let r := if sx then sext64 (8 * n) v else BitVec.ofNat 64 v
          let s := s.setSq (s.sq.receive (c.spad.phaseCarry s.sq.know s.free ea.toNat))
          .ok { s := s.fresh, eff := Spec.write s.who.y d r }) s

/-- STS: d is read as a source, after a. -/
def execSts (cm : Common) (d a : Spec) (size : BitVec 2) (off : BitVec 22) (s : State) : Out :=
  let n := 2 ^ size.toNat
  issue { opc := 0x51, cm := cm, wf := (Instr.sts cm d a size off).wellFormed, srcs := [a, d],
          cls := 1, check := s.me.constCheck a (off22 off) n n, spad := true }
    (fun s w _ =>
      let ea := effAddr (w.getD 0 0) (off22 off)
      let c := s.me
      match c.spadCheck ea n n with
      | some t => .trap t
      | none =>
        match c.spad.badMerge ea.toNat n with
        | some x => .trap (Trap.at .eccUncorr (BitVec.ofNat 64 x))
        | none =>
          .ok { s := s.setMe { c with spad := c.spad.store ea.toNat (leBytes n (w.getD 1 0).toNat) } }) s

/-! ### VLD and VST (R131) -/

/-- The signed line offset: a multiple of 256 bytes. -/
def lineOff (off : BitVec 7) : Int := off.toInt * 256

/-- All bits of a line. -/
def allCells : LineBits := BitVec.allOnes 2048

/-- What VLD does at retire: the line, and the tag unless it is kept. -/
def vldEffects (d : TileLine) (j : Nat) (l : LineBits) (tag : BitVec 5) : List Effect :=
  .line d j l allCells :: (if tag = 0 then [] else [.tag d.tile.toNat tag.toNat])

/-- `keep` finds the tile UNTYPED (R131). -/
def keepUntyped (c : Ctx) (d : TileLine) (tag : BitVec 5) : Bool :=
  tag == 0 && (c.tile d.tile.toNat).tag == 0

/-- The interlock of the index register of a tile line. -/
def idxLoc (t : TileLine) : List Loc := if t.idx = 0 then [] else [.s t.idx.toNat]

/-- VLD, address form. -/
def execVldAddress (cm : Common) (d : TileLine) (a : Spec) (tag : BitVec 5) (off : BitVec 7) (s : State) : Out :=
  issue { opc := 0x52, cm := cm, wf := (Instr.vldAddress cm d a tag off).wellFormed, srcs := [a], cls := 2,
          tiles := [d.tile.toNat], reads := idxLoc d, writes := [.tile d.tile.toNat],
          check := s.me.constCheck a (lineOff off) 256 16, spad := true }
    (fun s w _ =>
      let ea := effAddr (w.getD 0 0) (lineOff off)
      let c := s.me
      match c.spadCheck ea 256 16 with
      | some t => .trap t
      | none =>
        match c.spad.badAddr ea.toNat 256 with
        | some x => .trap (Trap.at .eccUncorr (BitVec.ofNat 64 x))
        | none =>
          if keepUntyped c d tag then .trap (Trap.plain .fmtMismatch)
          else
            let bs := c.spad.load s.sq.know s.free ea.toNat 256
            .ok { s := s.fresh, eff := vldEffects d (TileLine.index d s.sq) (lineOfBytes bs) tag }) s

/-- VLD, generator form. -/
def execVldGenerator (cm : Common) (d : TileLine) (g : BitVec 3) (tag : BitVec 5) (s : State) : Out :=
  issue { opc := 0x52, cm := cm, wf := (Instr.vldGenerator cm d g tag).wellFormed, cls := 2,
          tiles := [d.tile.toNat], gens := [⟨g.toNat, false, 1, false⟩], gsrc := [g.toNat],
          reads := idxLoc d, writes := [.tile d.tile.toNat] }
    (fun s _ l =>
      if keepUntyped s.me d tag then .trap (Trap.plain .fmtMismatch)
      else .ok { s := s, eff := vldEffects d (TileLine.index d s.sq) (l.getD 0 0) tag }) s

/-- A source tile line read at issue (06 R120), or the trap of an uncorrectable word in it. -/
def State.readTileLine (s : State) (t : TileLine) : LineBits × Option Trap :=
  let z := s.me.tile t.tile.toNat
  let j := TileLine.index t s.sq
  (z.readLine t.dir j, (z.badCell t.dir j).map fun rc => eccTile t.tile.toNat rc.1)

/-- VST, address form: the line is read before the address is checked. -/
def execVstAddress (cm : Common) (d : Spec) (a : TileLine) (off : BitVec 7) (s : State) : Out :=
  issue { opc := 0x53, cm := cm, wf := (Instr.vstAddress cm d a off).wellFormed, srcs := [d], cls := 2,
          tiles := [a.tile.toNat], reads := .tile a.tile.toNat :: idxLoc a,
          check := s.me.constCheck d (lineOff off) 256 16, spad := true }
    (fun s w _ =>
      let ea := effAddr (w.getD 0 0) (lineOff off)
      let c := s.me
      let l := s.readTileLine a
      match l.2 with
      | some t => .trap t
      | none =>
        match c.spadCheck ea 256 16 with
        | some t => .trap t
        | none =>
          match c.spad.badMerge ea.toNat 256 with
          | some x => .trap (Trap.at .eccUncorr (BitVec.ofNat 64 x))
          | none => .ok { s := s.setMe { c with spad := c.spad.store ea.toNat (leBytes 256 l.1.toNat) } }) s

/-- VST, generator form: the push is performed at retire. -/
def execVstGenerator (cm : Common) (g : BitVec 3) (a : TileLine) (s : State) : Out :=
  issue { opc := 0x53, cm := cm, wf := (Instr.vstGenerator cm g a).wellFormed, cls := 2,
          tiles := [a.tile.toNat], gens := [⟨g.toNat, true, 1, false⟩],
          reads := .tile a.tile.toNat :: idxLoc a }
    (fun s _ _ =>
      let l := s.readTileLine a
      match l.2, s.me.pushEcc g.toNat 1 with
      | some t, _ => .trap t
      | none, some t => .trap t
      | none, none => .ok { s := s, eff := [.genLine g.toNat l.1] }) s

/-! ### Generators (R134, R135, R137) -/

/-- An issued instruction of any sequencer, or a matrix instruction, uses a generator (R134). -/
def Ctx.genBusy (c : Ctx) (g : Nat) : Bool :=
  (Sq.order.any fun y => (c.seq.get y).inflight.any fun p => p.uses.contains (.gen g))

/-- Level `l` of a parameter record (Table 6.5): count and signed stride. -/
def recLevel (bs : List Byte) (l : Nat) : Nat × Int :=
  (leNat ((bs.drop (8 + 8 * l)).take 4), (BitVec.ofNat 32 (leNat ((bs.drop (12 + 8 * l)).take 4))).toInt)

/-- A parameter record checked (R134): the configuration where no field is at fault. -/
def genRecord (bs : List Byte) : Option GenCfg :=
  let w : Word := BitVec.ofNat 64 (leNat (bs.take 8))
  let lv := (List.range 4).map (recLevel bs)
  let elem := (w.extractLsb' 24 4).toNat
  let e : Int := ((2 ^ elem : Nat) : Int)
  let g : GenCfg :=
    { base := (w.extractLsb' 0 22).toNat, elem := elem, write := w.getLsbD 28, wrap := w.getLsbD 30
      counts := lv.map (·.1), strides := lv.map (·.2) }
  if w.extractLsb' 22 2 = 0 ∧ w.extractLsb' 31 33 = 0 ∧ leNat (bs.drop 40) = 0 ∧ elem ≤ 8 ∧ w.getLsbD 29 = false ∧
     (lv.all fun p => decide (p.1 ≠ 0 ∧ p.2 % e = 0)) = true ∧ (g.base : Int) % e = 0 ∧ g.lines ≤ 0xFFFFFF
  then some g else none

/-- The walk of a record stays in allocated granules of one half (R134). -/
def Ctx.walkAllocated (c : Ctx) (g : GenCfg) : Bool :=
  let b := walkBounds (g.base : Int) g.bytes (List.zip g.counts g.strides)
  c.boxAllocated b.1 b.2

/-- GSET (R134). DEDUCED, unsafe: log 29. -/
def execGset (cm : Common) (g : BitVec 4) (a : Spec) (s : State) : Out :=
  issue { opc := 0x54, cm := cm, wf := (Instr.gset cm g a).wellFormed, srcs := [a], cls := 1,
          gens := [⟨g.toNat, false, 0, true⟩], hold := s.me.genBusy g.toNat,
          check := if a = .s 0 ∧ s.me.allocatedRange 0 64 = false then some (Trap.plain .spadRange) else none, spad := true }
    (fun s w _ =>
      let ra := (w.getD 0 0).toNat
      let c := s.me
      if c.allocatedRange ra 64 = false then .trap (Trap.plain .spadRange)
      else if ra % 64 ≠ 0 then .trap (Trap.plain .align)
      else match c.spad.badAddr ra 64 with
        | some x => .trap (Trap.at .eccUncorr (BitVec.ofNat 64 x))
        | none =>
          match genRecord (c.spad.load s.sq.know s.free ra 64) with
          | none => .trap (Trap.plain .genFault)
          | some k =>
            if c.walkAllocated k then .ok { s := s.fresh, eff := [.genSet g.toNat k] }
            else .trap (Trap.plain .spadRange)) s

/-- GPOS (R135). -/
def execGpos (cm : Common) (g : BitVec 4) (a : Spec) (s : State) : Out :=
  issue { opc := 0x55, cm := cm, wf := (Instr.gpos cm g a).wellFormed, srcs := [a],
          gens := [⟨g.toNat, false, 0, true⟩], hold := s.me.genBusy g.toNat,
          check := if (s.me.gen g.toNat).cfg.isNone && !s.sq.genPending g.toNat then some (Trap.plain .genFault)
                   else none }
    (fun s w _ =>
      let x := (w.getD 0 0).toNat
      match (s.me.gen g.toNat).cfg with
      | none => .trap (Trap.plain .genFault)
      | some k => if k.lines ≤ x then .trap (Trap.plain .genFault) else .ok { s := s, eff := [.genPos g.toNat x] }) s

/-- The word of Table 6.6. -/
def genstatWord (g : Gen) : Word :=
  match g.cfg with
  | none => 0
  | some k =>
    BitVec.ofNat 64 (1 + 2 * bitNum k.write + 4 * bitNum k.wrap + 8 * bitNum (!k.wrap && decide (k.lines ≤ g.pos))
      + g.buf.length * 2 ^ 8 + g.pos * 2 ^ 16 + k.lines * 2 ^ 40)

/-- GSTAT of a generator (R137). -/
def execGenstat (cm : Common) (d : Spec) (g : BitVec 4) (s : State) : Out :=
  issue { opc := 0x56, cm := cm, wf := (Instr.genstat cm d g).wellFormed, dst := some d,
          gens := [⟨g.toNat, false, 0, true⟩] }
    (fun s _ _ => .ok { s := s, eff := Spec.write s.who.y d (genstatWord (s.me.gen g.toNat)) }) s

/-! ### Tiles (R138, R139) -/

/-- ZZERO (R138). -/
def execZzero (cm : Common) (tile countM1 : BitVec 6) (s : State) : Out :=
  let n := countM1.toNat + 1
  let ts := (List.range n).map (tile.toNat + ·)
  issue { opc := 0x57, cm := cm, wf := (Instr.zzero cm tile countM1).wellFormed, cls := 2, tiles := ts,
          writes := ts.map .tile }
    (fun s _ _ => .ok { s := s, eff := [.zzero tile.toNat n] }) s

/-- The word of Table 6.7. -/
def zinfoWord (n : Nat) (t : Tile) : Word :=
  BitVec.ofNat 64 (t.tag + bitNum (decide (32 ≤ n)) * 2 ^ 5 + countBits t.written.toNat 64 * 2 ^ 8 + bitNum t.dirty * 2 ^ 16)

/-- ZINFO (R139). -/
def execZinfo (cm : Common) (d : Spec) (tile : BitVec 6) (s : State) : Out :=
  issue { opc := 0x58, cm := cm, wf := (Instr.zinfo cm d tile).wellFormed, dst := some d, tiles := [tile.toNat],
          reads := [.tile tile.toNat] }
    (fun s _ _ => .ok { s := s, eff := Spec.write s.who.y d (zinfoWord tile.toNat (s.me.tile tile.toNat)) }) s

end Sys2Proof.Machine
end

