-- ==== Sys2Proof/Machine/Atomics.lean ====
section
/-! DEFINITION. Memory order and atomic instructions (07). -/
namespace Sys2Proof.Machine

/-! ### Values of atomics (R171, Table 7.6) -/

/-- FP32 sum rounded RNE (R171); any NaN gives the canonical NaN. -/
def fadd32 (fz : Bool) (a b : Nat) : Nat :=
  let f := Fmt.fp32
  (f.add 0 fz (f.value fz a) (f.value fz b)).1

/-- FP32 minimumNumber or maximumNumber (R171): the number beside a NaN, -0 below +0. -/
def fext32 (fz max : Bool) (a b : Nat) : Nat :=
  let f := Fmt.fp32
  let x := f.value fz a
  let y := f.value fz b
  let out (v : FV) : Nat := (f.pack 0 false fz v).1
  if x.isNan then out y
  else if y.isNan then out x
  else
    let c := x.cmp y
    let aFirst : Bool := if c = 0 then x.neg != max else decide (c < 0) != max
    if aFirst then out x else out y

/-- A number of `w` bits as a signed integer. -/
def signedOf (w v : Nat) : Int := if v < 2 ^ (w - 1) then (v : Int) else (v : Int) - 2 ^ w

/-- The new value stored by an operation at a width of `w` bits (Table 7.6). -/
def amoNew (op : AmoOp) (fz : Bool) (w old y : Nat) : Nat :=
  match op with
  | .swap => y
  | .add => (old + y) % 2 ^ w
  | .and => old &&& y
  | .or => old ||| y
  | .xor => old ^^^ y
  | .min => if signedOf w y < signedOf w old then y else old
  | .max => if signedOf w old < signedOf w y then y else old
  | .minu => min old y
  | .maxu => max old y
  | .fadd => fadd32 fz old y
  | .fmin => fext32 fz false old y
  | .fmax => fext32 fz true old y

/-! ### Reaching memory (R168) -/

/-- Where an access reaches, once translated: an address and a kind of memory, a trap, or nothing yet, each with the state
that the walk left, and the walk's time where the sequencer has not taken it. -/
inductive Reach where
  | ok (s : State) (pa kind : Nat)
  | trap (s : State) (time : Nat) (t : Trap)
  | wait (s : State) (time : Nat)

/-- The translation trap of an access (R168): LOAD_FAULT for reads, STORE_FAULT for what writes. -/
def xlatTrap (load : Bool) (ea : Int) (x : XFault) : Trap :=
  { Trap.at (if load then .loadFault else .storeFault) (BitVec.ofInt 64 ea) with x := some x }

/-- The page of a physical address holds writes (14 R369). -/
def State.locked (s : State) (pa : Nat) : Bool := (s.dram.locks.get none (pa / 2 ^ 12)).isSome

/-- What a walk for the executing sequencer leaves in a state: the times of the lines that it read, what the TLBs and
walk caches keep, and the sequencer's program time (14 R364). -/
def State.walked (s s' : State) (t : Nat) : State :=
  let s : State := { s with dram := s'.dram, xlat := s'.xlat, cores := s'.cores }
  s.setSq (s.sq.receive ⟨t, []⟩)

/-- The translation of an access of the executing sequencer at an exact address, then its alignment (R168). Its walk may
raise the sequencer's program time, also where it ends in a fault or a page not loaded yet (14 R364).
DEDUCED, safe: log 24. -/
def State.reachXlat (s : State) (load : Bool) (acc : Access) (ea : Int) (n : Nat) : Reach :=
  if ea < 0 ∨ 2 ^ 57 ≤ ea then .trap s 0 (xlatTrap load ea ⟨false, 7, acc, 3⟩)
  else match s.translate ⟨s.me.guest, s.who.core, s.sq.pts⟩ ea.toNat acc with
    | (s', t, .fault x) => .trap s' t (xlatTrap load ea x)
    | (s', t, .lazy _) => .wait s' t
    | (s', t, .ok pa kind) =>
      if ea.toNat % n ≠ 0 then .trap s' t (Trap.plain .align) else .ok (s.walked s' t) pa kind

/-- A host address must lie in an outbound window of the guest's function (22 R423), a peer address in the partition's
window. DEDUCED, unsafe: log 25. -/
def State.reachWindow (_s : State) (load : Bool) (acc : Access) (ea : Int) (n : Nat) : Reach → Reach
  | .ok s pa 0 => .ok s pa 0
  | .ok s pa 1 => if s.outwinOk s.me.guest pa n then .ok s pa 1 else .trap s s.sq.pts (xlatTrap load ea ⟨true, 7, acc, 1⟩)
  | .ok s pa _ => match s.peerAddr s.me.part pa n with
    | some a => .ok s a 2
    | none => .trap s s.sq.pts (xlatTrap load ea ⟨true, 7, acc, 1⟩)
  | r => r

/-- What follows a walk, where it ends in a trap or in a wait: the walk has happened (14 R364). -/
def Result.afterWalk (s : State) : Result → Result
  | .trap x => .trapLeaves (fun z => z.walked s s.sq.pts) x
  | .wait => .enlist fun z => z.walked s s.sq.pts
  | r => r

/-- An access of the executing sequencer: the result of what it does where it reaches memory. No memory may be fitted at
an address in device memory (01 R15). DEDUCED, safe: log 19. -/
def Reach.run (r : Reach) (k : State → Nat → Nat → Result) : Result :=
  match r with
  | .ok s pa kind => if kind = 0 && !fitted pa then .fault .noDeviceMemory else (k s pa kind).afterWalk s
  | .trap s t x => .trapLeaves (fun z => z.walked s t) x
  | .wait s t => .enlist fun z => z.walked s t

/-- An access of the executing sequencer at an exact address (R168). -/
def State.reach (s : State) (load : Bool) (acc : Access) (ea : Int) (n : Nat) (k : State → Nat → Nat → Result) : Result :=
  (s.reachWindow load acc ea n (s.reachXlat load acc ea n)).run k

/-- The releases that a read of some bytes of device memory reads from. -/
def Dram.relOf (d : Dram) (pa n : Nat) : Know := relRead d.rel pa n

/-- What a load got: the state after it, the value, and the releases it read from. -/
structure Loaded where
  s : State
  v : Nat
  rel : Know

/-- Lines that a lease cache of 128 KiB holds (01 R13). -/
def leaseLines : Nat := 1024

/-- A lease cache with room for a line: a full one gives up another line, which is a free choice.
DESIGN CHOICE, safe: log 100. -/
def leaseRoom (free line : Nat) (l : Tbl Copy) : Tbl Copy :=
  if l.length < leaseLines || (l.find line).isSome then l
  else match l[Config.freeNat free % l.length]? with
    | some e => l.del e.1
    | none => l

/-- A load of device memory served at home (R148); `fill` places a leased copy in the core's cache.
DEDUCED, safe: log 8. -/
def State.homeLoad (s : State) (pa n : Nat) (fill : Bool) : Loaded :=
  let len := s.leaseLen s.me.guest pa
  let (d, t) := (s.home s.me.part pa).homeLoad s.sq.pts len pa
  let s := { s with dram := d }
  let s := s.setSq { s.sq with pts := t }
  let s := if fill && len != 0 then
      let c := s.core s.who.core
      let l := d.line pa
      let rel := (d.rel.filter fun e => e.1 / 128 = pa / 128).map fun e => (e.1 % 128, e.2)
      s.setCore s.who.core
        { c with lease := (leaseRoom s.free (pa / 128) c.lease).ins (pa / 128) ⟨l.wts, l.rts, d.lineBytes pa, rel, c.cycle⟩ }
    else s
  ⟨s, d.bytes.num pa n, d.relOf pa n⟩

/-- A load of device memory (R148, R149): by the lease cache while its copy covers the program time, was
filled less than 4,096 core cycles ago, and the guest has cache ways at the line's home (R150), and at home otherwise.
DEDUCED, safe: log 8. -/
def State.plainLoad (s : State) (pa n : Nat) : Loaded :=
  match (s.core s.who.core).lease.find (pa / 128) with
  | some c =>
    if s.sq.pts ≤ c.rts ∧ (s.core s.who.core).cycle < c.filled + 4096 ∧ s.leaseLen s.me.guest pa ≠ 0 then
      ⟨s.setSq { s.sq with pts := max s.sq.pts c.wts }, c.bytes.num (pa % 128) n, relRead c.rel (pa % 128) n⟩
    else s.homeLoad pa n true
  | none => s.homeLoad pa n true

/-- A load of host or peer memory (R160). -/
def State.outerLoad (s : State) (kind pa n : Nat) : Loaded :=
  let (o, p) := if kind = 1 then (s.host, Place.host) else (s.peer, Place.peer)
  ⟨s.fresh, leNat (o.load s.sq.know p s.who.core s.who.slot s.free pa n), relRead o.rel pa n⟩

/-- A store of the executing sequencer to device memory (R148); it carries the release of an earlier
FENCE E (Table 7.3) and those given. -/
def State.homeStore (s : State) (pa : Nat) (bs : List Byte) (rel : Know) (chain : Bool) : State :=
  let q := s.sq
  let (d, t) := (s.home s.me.part pa).write q.pts pa bs (Know.union rel q.fence) chain
  let s := ({ s with dram := d } : State).noteCounters
  s.setSq { s.sq with pts := t, fence := [] }

/-- A load's releases kept for a later FENCE A (R175). -/
def State.sawReleases (s : State) (k : Know) : State := s.setSq { s.sq with seen := Know.union s.sq.seen k }

/-- A load's releases acquired at a scope (R159, R160). -/
def State.acquire (s : State) (k : Know) (m : Members) : State :=
  s.setSq { s.sq with know := Know.union s.sq.know (k.acquire m), seen := Know.union s.sq.seen k }

/-- Bytes of an access width. -/
def widthBytes (w : BitVec 2) : Nat := 2 ^ w.toNat

/-- The members of the scope that an instruction names, captured at issue (R165). -/
def State.myScope (s : State) (n : BitVec 4) : Members := s.scopeMembers s.who.core s.who.slot n.toNat

/-! ### LD and ST (R169) -/

/-- LD. DEDUCED, unsafe: log 6. -/
def execLd (cm : Common) (d a : Spec) (size : BitVec 2) (sx : Bool) (off : BitVec 22) (s : State) : Out :=
  let n := widthBytes size
  issue { opc := 0x60, cm := cm, wf := (Instr.ld cm d a size sx off).wellFormed, srcs := [a], dst := some d, cls := 1 }
    (fun s w _ =>
      s.reach true .read (effAddr (w.getD 0 0) (off22 off)) n fun s pa kind =>
        if kind = 0 && s.dram.badIn pa n then .trap (Trap.plain .eccUncorr)
        else
          let l := if kind = 0 then s.plainLoad pa n else s.outerLoad kind pa n
          let r := if sx then sext64 (8 * n) l.v else BitVec.ofNat 64 l.v
          .ok { s := l.s.sawReleases l.rel, eff := Spec.write s.who.y d r }) s

/-- ACCESS, which reports the address and a write (R169, R170, R346); it is no fault of a walk. -/
def accessTrap (ea : Int) : Trap := { Trap.at .access (BitVec.ofInt 64 ea) with x := some ⟨false, 7, .write, 0⟩ }

/-- A store of device memory only: an ACCESS trap for host and peer memory, whatever their windows, and a wait while the
page's lock holds writes (R153, R169, R170). DEDUCED, safe: log 24. -/
def storeReach (s : State) (ea : Int) (n : Nat) (k : State → Nat → Result) : Result :=
  (s.reachXlat false .write ea n).run fun s pa kind =>
    if kind ≠ 0 then .trap (accessTrap ea)
    else if s.locked pa then .wait
    else if n < 8 && s.dram.badIn pa n then .trap (Trap.plain .eccUncorr)
    else k s pa

/-- ST. DEDUCED, unsafe: log 6. -/
def execSt (cm : Common) (d a : Spec) (size : BitVec 2) (off : BitVec 22) (s : State) : Out :=
  let n := widthBytes size
  issue { opc := 0x61, cm := cm, wf := (Instr.st cm d a size off).wellFormed, srcs := [a, d], cls := 1, store := true }
    (fun s w _ =>
      storeReach s (effAddr (w.getD 0 0) (off22 off)) n fun s pa =>
        .ok { s := s.homeStore pa (leBytes n (w.getD 1 0).toNat) [] false }) s

/-! ### LDA and STL (R170) -/

/-- A stale scope entry (R166). -/
def State.staleTrap (s : State) (scope : BitVec 4) : Bool := s.me.stale scope.toNat

/-- LDA: served at home, acquiring at its scope. -/
def execLda (cm : Common) (d a : Spec) (scope : BitVec 4) (width : BitVec 2) (s : State) : Out :=
  let n := widthBytes width
  issue { opc := 0x62, cm := cm, wf := (Instr.lda cm d a scope width).wellFormed, srcs := [a], dst := some d, cls := 1 }
    (fun s w _ =>
      if s.staleTrap scope then .trap (Trap.plain .staleScope) else
      s.reach true .read (effAddr (w.getD 0 0) 0) n fun s pa kind =>
        if kind = 0 && s.dram.badIn pa n then .trap (Trap.plain .eccUncorr)
        else
          let l := if kind = 0 then s.homeLoad pa n false else s.outerLoad kind pa n
          .ok { s := l.s.acquire l.rel (s.myScope scope), eff := Spec.write s.who.y d (BitVec.ofNat 64 l.v) }) s

/-- An issued store of the sequencer has not retired. -/
def State.storesOut (s : State) : Bool := s.sq.inflight.any (·.store)

/-- STL: after every earlier store, releasing at its scope. -/
def execStl (cm : Common) (a b : Spec) (scope : BitVec 4) (width : BitVec 2) (s : State) : Out :=
  let n := widthBytes width
  issue { opc := 0x63, cm := cm, wf := (Instr.stl cm a b scope width).wellFormed, srcs := [a, b], cls := 1,
          store := true, hold := s.storesOut }
    (fun s w _ =>
      if s.staleTrap scope then .trap (Trap.plain .staleScope) else
      storeReach s (effAddr (w.getD 0 0) 0) n fun s pa =>
        .ok { s := s.homeStore pa (leBytes n (w.getD 1 0).toNat) (s.sq.know.release (s.myScope scope)) false }) s

/-! ### AMO, CAS and RED (R171 to R173) -/

/-- Host memory takes FetchAdd, Swap and CAS at 32 and 64 bits (R173). -/
def hostAtomic (op : Option AmoOp) (width : BitVec 2) : Bool :=
  decide (2 ≤ width.toNat) && (op == none || op == some .add || op == some .swap)

/-- One atomic access (R173): the old value and the state after it. `new` gives the value stored, or none
where a comparison fails. -/
def atomicAccess (s : State) (ea : Int) (scope : BitVec 4) (op : Option AmoOp) (width : BitVec 2)
    (new : Nat → Option Nat) (k : State → Nat → Know → Result) : Result :=
  let n := widthBytes width
  if s.staleTrap scope then .trap (Trap.plain .staleScope) else
  s.reach false .atomic ea n fun s pa kind =>
    let m := s.myScope scope
    let rels := Know.union (s.sq.know.release m) s.sq.fence
    if kind = 0 then
      if s.dram.badIn pa n then .trap (Trap.plain .eccUncorr)
      else if s.locked pa then .wait
      else
        let old := s.dram.bytes.num pa n
        let rel := s.dram.relOf pa n
        match new old with
        | none => k (s.homeLoad pa n false).s old rel
        | some v => k (s.homeStore pa (leBytes n v) (s.sq.know.release m) true) old rel
    else if kind = 1 then
      if !m.host || !hostAtomic op width then .trap (Trap.plain .amoFault)
      else
        let old := s.host.bytes.num pa n
        let rel := relRead s.host.rel pa n
        match new old with
        | none => k s old rel
        | some v =>
          k (({ s with host := s.host.atomic pa (leBytes n v) rels } : State).setSq { s.sq with fence := [] }) old rel
    else if !m.peer then .trap (Trap.plain .amoFault)
    else
      let old := s.peer.bytes.num pa n
      let rel := relRead s.peer.rel pa n
      match new old with
      | none => k s old rel
      | some v =>
        k (({ s with peer := s.peer.atomic pa (leBytes n v) rels } : State).setSq { s.sq with fence := [] }) old rel

/-- AMO. -/
def execAmo (cm : Common) (d a b : Spec) (scope : BitVec 4) (op : AmoOp) (width : BitVec 2) (s : State) : Out :=
  issue { opc := 0x64, cm := cm, wf := (Instr.amo cm d a b scope op width).wellFormed, srcs := [a, b], dst := some d,
          cls := 1, reads := [.sr 2] }
    (fun s w _ =>
      let bits := 8 * widthBytes width
      let y := (w.getD 1 0).toNat % 2 ^ bits
      let fz := s.me.fzOn
      atomicAccess s (effAddr (w.getD 0 0) 0) scope (some op) width (fun old => some (amoNew op fz bits old y))
        fun s old rel =>
          .ok { s := s.acquire rel (s.myScope scope), eff := Spec.write s.who.y d (BitVec.ofNat 64 old) }) s

/-- CAS: d holds the expected value and takes the result. -/
def execCas (cm : Common) (d : BitVec 5) (a b : Spec) (scope : BitVec 4) (width : BitVec 2) (s : State) : Out :=
  issue { opc := 0x65, cm := cm, wf := (Instr.cas cm d a b scope width).wellFormed, srcs := [a, b],
          dst := some (.s d), cls := 1 }
    (fun s w _ =>
      let bits := 8 * widthBytes width
      let y := (w.getD 1 0).toNat % 2 ^ bits
      let e := (s.sq.reg d.toNat).toNat % 2 ^ bits
      atomicAccess s (effAddr (w.getD 0 0) 0) scope none width (fun old => if old = e then some y else none)
        fun s old rel =>
          .ok { s := s.acquire rel (s.myScope scope), eff := Spec.write s.who.y (.s d) (BitVec.ofNat 64 old) }) s

/-- RED: no result; it releases, and retires as ST does. -/
def execRed (cm : Common) (a b : Spec) (scope : BitVec 4) (op : AmoOp) (width : BitVec 2) (s : State) : Out :=
  issue { opc := 0x66, cm := cm, wf := (Instr.red cm a b scope op width).wellFormed, srcs := [a, b], cls := 1,
          store := true, reads := [.sr 2] }
    (fun s w _ =>
      let bits := 8 * widthBytes width
      let y := (w.getD 1 0).toNat % 2 ^ bits
      let fz := s.me.fzOn
      atomicAccess s (effAddr (w.getD 0 0) 0) scope (some op) width (fun old => some (amoNew op fz bits old y))
        fun s _ _ => .ok { s := s }) s

/-! ### FENCE, SCSET and SCGET (R175 to R177) -/

/-- Commands of the context that have entered a queue, or whose CPUSH has issued, and that have not completed. -/
def Ctx.openUids (c : Ctx) : List Nat := (c.q0.jobs ++ c.q1.jobs).map (·.uid)

/-- FENCE (R175): its kinds act at its retire, which E holds until the commands that it found have completed. Later words
of its sequencer wait for it. -/
def execFence (cm : Common) (scope : BitVec 4) (kinds : BitVec 3) (s : State) : Out :=
  issue { opc := 0x67, cm := cm, wf := (Instr.fence cm scope kinds).wellFormed, writes := [.all],
          hold := kinds.getLsbD 2 && s.storesOut }
    (fun s _ _ =>
      if s.staleTrap scope then .trap (Trap.plain .staleScope) else
      let m := s.myScope scope
      let uids := if kinds.getLsbD 0 then s.me.openUids else []
      .ok { s := s, gate := .engine uids, eff := [.fence kinds s.me.allDone uids m] }) s

/-- The slice word of SCSET passes its checks (R176, Table 7.7). -/
def State.scsetOk (s : State) (cores slices : Word) : Bool :=
  let p := s.part s.me.part
  decide (slices.extractLsb' 34 30 = 0) && decide (cores &&& ~~~p.cores = 0) &&
    decide ((slices.extractLsb' 0 32).toNat < 2 ^ p.sliceCount) && (!slices.getLsbD 33 || s.peerUp)

/-- SCSET. -/
def execScset (cm : Common) (n : BitVec 4) (a d : Spec) (s : State) : Out :=
  issue { opc := 0x68, cm := cm, wf := (Instr.scset cm n a d).wellFormed, srcs := [a, d],
          writes := [.sr (0x2000 + n.toNat)] }
    (fun s w _ =>
      let sl := w.getD 1 0
      if s.scsetOk (w.getD 0 0) sl then
        .ok { s := s, eff := [.scope n.toNat ⟨w.getD 0 0, sl.extractLsb' 0 32, sl.getLsbD 32, sl.getLsbD 33, none⟩] }
      else .trap (Trap.plain .scopeFault)) s

/-- The slice word of Table 7.7. -/
def sliceWord (m : Members) (stale : Bool) (gen : BitVec 16) : Word :=
  BitVec.ofNat 64 (m.slices.toNat + bitNum m.host * 2 ^ 32 + bitNum m.peer * 2 ^ 33 + bitNum stale * 2 ^ 34
    + gen.toNat * 2 ^ 48)

/-- SCGET. -/
def execScget (cm : Common) (d : Spec) (n : BitVec 4) (slices : Bool) (s : State) : Out :=
  issue { opc := 0x69, cm := cm, wf := (Instr.scget cm d n slices).wellFormed, dst := some d,
          reads := [.sr (0x2000 + n.toNat)] }
    (fun s _ _ =>
      let m := s.myScope n
      let e := s.me.scopes.get Scope.empty n.toNat
      let v := if slices then sliceWord m (s.me.stale n.toNat) e.gen else m.cores
      .ok { s := s, eff := Spec.write s.who.y d v }) s

end Sys2Proof.Machine
end

