-- ==== Sys2Proof/Machine/Control.lean ====
section
/-! DEFINITION. Accessors of the control complex and of Bazaar, the clocks and charges of the power
controller (13 R321, R322), and which guests run (15 R394, R395). -/
namespace Sys2Proof.Machine

/-! ### Tables -/

/-- A cluster after reset (13 Tables 13.6 and 13.6a). -/
def Cluster.reset (n : Nat) : Cluster :=
  { fReq := 40, vReq := 40, fNow := 40, status := 0, rail := n / 2, railReq := n / 2, railStatus := 0
    vote := 40, req := none, withdraw := none, chargeF := 40, chargeV := 40, stall := 0, nActive := 0, nMem := 0, nPwr := 0, gov := 0
    lastReq := 40, throttled := false, temp := 0 }

/-- A cluster. -/
def State.cluster (s : State) (n : Nat) : Cluster := (s.power.clusters.find n).getD (Cluster.reset n)

/-- One cluster replaced. -/
def State.setCluster (s : State) (n : Nat) (c : Cluster) : State :=
  { s with power := { s.power with clusters := s.power.clusters.ins n c } }

/-- A rail after reset. DESIGN CHOICE, unsafe: log 20. -/
def Rail.reset : Rail := ⟨40, 0, none⟩

/-- A rail. -/
def State.rail (s : State) (n : Nat) : Rail := s.power.rails.get Rail.reset n

/-- One rail replaced. -/
def State.setRail (s : State) (n : Nat) (r : Rail) : State :=
  { s with power := { s.power with rails := s.power.rails.put Rail.reset n r } }

/-- A queue of Bazaar after reset (15 Table 15.12). -/
def BQueue.empty : BQueue := { (default : BQueue) with ageing := 10 }

/-- A queue of Bazaar. -/
def State.queue (s : State) (n : Nat) : BQueue := s.queues.get BQueue.empty n

/-- One queue replaced. -/
def State.setQueue (s : State) (n : Nat) (q : BQueue) : State := { s with queues := s.queues.put BQueue.empty n q }

/-- A guest ring. -/
def State.ring (s : State) (n : Nat) : KRing := s.rings.get default n

/-- One guest ring replaced. -/
def State.setRing (s : State) (n : Nat) (r : KRing) : State := { s with rings := s.rings.put default n r }

/-- A scheduler core in its reset state; mstatus.MPP reads 3 (R371). -/
def FwCore.empty : FwCore := { (default : FwCore) with mstatus := 0x1800 }

/-- A scheduler core. -/
def State.fwCore (s : State) (n : Nat) : FwCore := s.fws.get FwCore.empty n

/-- One scheduler core replaced. -/
def State.setFw (s : State) (n : Nat) (c : FwCore) : State := { s with fws := s.fws.put FwCore.empty n c }

/-- The completion ring of a guest. -/
def State.cq (s : State) (g : Nat) : Cq := s.cqs.get default g

/-- One completion ring replaced. -/
def State.setCq (s : State) (g : Nat) (c : Cq) : State := { s with cqs := s.cqs.put default g c }

/-- A function's registers replaced. -/
def State.setFn (s : State) (n : Nat) (f : HostFn) : State := { s with fns := s.fns.put HostFn.empty n f }

/-- The guest that a function's rings belong to (22 R422). DESIGN CHOICE, unsafe: log 59. -/
def State.guestOfFn (s : State) (fn : Nat) : Nat := if fn = 0 then s.pf0Guest else fn + 7

/-- The function that serves a guest: PF0 for a local one. -/
def fnOf (g : Nat) : Nat := if 8 ≤ g then g - 7 else 0

/-- A partition replaced. -/
def State.setPart (s : State) (p : Nat) (v : PartSt) : State := { s with parts := s.parts.put PartSt.empty p v }

/-- A guest replaced. -/
def State.setGuest (s : State) (g : Nat) (v : Guest) : State := { s with guests := s.guests.put Guest.empty g v }

/-- A guest's partition. -/
def State.partOf (s : State) (g : Nat) : Nat := (s.guest g).part

/-- A stream context. -/
def State.stream (s : State) (n : Nat) : Stream := s.streams.get default n

/-- One stream context replaced. -/
def State.setStream (s : State) (n : Nat) (v : Stream) : State := { s with streams := s.streams.put default n v }

/-- A notice to a partition (13 R336). -/
def State.noticePart (s : State) (p : Nat) (n : Notice) : State :=
  s.setPart p { s.part p with notices := (s.part p).notices ++ [n] }

/-- A notice to Vesper. -/
def State.notice (s : State) (n : Notice) : State :=
  { s with vesper := { s.vesper with notices := s.vesper.notices ++ [n] } }

/-! ### Cores -/

/-- Whether a core is lit (01 R12). -/
def lit (core : Nat) : Bool := core % 8 % 2 == core % 32 / 8 % 2

/-- The lending pair of a core (01 R11). -/
def pairOf (core : Nat) : Nat := core / 32 * 16 + core % 32 / 8 * 4 + core % 8 / 2

/-- The partner of a core (01 R11). -/
def partner (core : Nat) : Nat := if core % 2 = 0 then core + 1 else core - 1

/-- The partition that owns a core, if any. -/
def State.partOfCore (s : State) (core : Nat) : Option Nat :=
  (List.range 8).find? fun p => (s.part p).pairs.getLsbD (pairOf core)

/-- Contexts bound on a core, with their slots. -/
def State.onCore (s : State) (core : Nat) : List (Nat × Ctx) :=
  ((List.range 4).map fun k => (k, s.ctx core k)).filter fun e => e.2.bound

/-- A core's partner borrows its memories. -/
def State.lending (s : State) (core : Nat) : Bool := (s.onCore (partner core)).any fun e => e.2.borrow

/-! ### Charges (13 R321, R322) -/

/-- U(L) in quarter watts (Table 13.2). -/
def unitPower (l : Nat) : Nat :=
  if l = 0 then 4 else if l = 1 then 6 else if l ≤ 3 then 8 else if l = 4 then 10
  else if l ≤ 11 then 12 else if l = 12 then 14 else if l = 13 then 15 else 18

/-- Charge(L, f, V) in units of half a watt, with f and V as their register codes. -/
def charge (l f v : Nat) : Nat :=
  let num := unitPower l * (600 + 25 * f) * (550 + 5 * v) ^ 2
  let den := 2 * 1600 * 750 ^ 2
  (num + den - 1) / den

/-- The frequency and voltage at which a core is charged (R332: from acceptance of a request, the higher
of the old and new ones). -/
def State.chargeAt (s : State) (core l : Nat) : Nat :=
  let c := s.cluster (clusterOf core)
  charge l c.chargeF c.chargeV

/-- Lmax of a core, leaving out one slot (R321, R327). -/
def State.lmaxBut (s : State) (core slot : Nat) : Nat :=
  (s.onCore core).foldl (fun a e => if e.1 = slot then a else max a e.2.power.g) 4

/-- Lmax of a core (R321). -/
def State.lmax (s : State) (core : Nat) : Nat := s.lmaxBut core 4

/-- The base charge of a core: level 4, or 1 unit when it is empty or lends (R322). -/
def State.baseOf (s : State) (core : Nat) : Nat :=
  if (s.onCore core).isEmpty || s.lending core then 1 else s.chargeAt core 4

/-- The base charge of a partition (R322). -/
def State.base (s : State) (p : Nat) : Nat :=
  (List.range 64).foldl (fun a n => if (s.part p).cores.getLsbD n then a + s.baseOf n else a) 0

/-- The share S of a partition (R322): the sum over its guests. -/
def State.share (s : State) (p : Nat) : Nat :=
  (List.range 200).foldl (fun a g =>
    if (s.guest g).part = p then a + ((s.guest g).e1.extractLsb' 32 9).toNat else a) 0

/-- Units that a partition has lent, and not revoked. -/
def State.lent (s : State) (p : Nat) : Nat :=
  s.power.loans.foldl (fun a l => if l.lender = p then a + l.left else a) 0

/-- Units of a context on loan and not revoked. -/
def State.loanOf (s : State) (key : Nat) : Nat :=
  s.power.loans.foldl (fun a l => if l.key = key then a + l.left else a) 0

/-- Extra units that a partition granted from its own units. -/
def State.ownUsed (s : State) (p : Nat) : Nat :=
  s.ctxs.foldl (fun a e => if e.2.bound && e.2.part == p then a + e.2.power.own else a) 0

/-- The free units of a partition (R322). -/
def State.freeUnits (s : State) (p : Nat) : Nat := s.share p - s.base p - s.ownUsed p - s.lent p

/-! ### Who runs (15 R393 to R395) -/

/-- The frame sequencer of a partition runs. -/
def PartSt.enabled (p : PartSt) : Bool := p.w0.getLsbD 18

/-- A guest is admitted in the present window of its partition; while no frame runs, no window shuts a
guest out. DEDUCED, safe: log 52. -/
def State.admitted (s : State) (g : Nat) : Bool :=
  let p := s.part (s.partOf g)
  !p.enabled || (s.guest g).e0.getLsbD (48 + p.window)

/-- A guest's tile time is used up (R395). -/
def State.exhausted (s : State) (g : Nat) : Bool :=
  let t := ((s.guest g).e0.extractLsb' 0 32).toNat
  t ≠ 0 && decide (t ≤ (s.guest g).charge)

/-- A partition takes part in the move under way (15 R400). DEDUCED, unsafe: log 62. -/
def State.moving (s : State) (p : Nat) : Bool :=
  s.move15.busy && ((s.move15.word.extractLsb' 2 3).toNat == p || (s.move15.word.extractLsb' 5 3).toNat == p)

/-- Bazaar stands still for a partition: off, frozen, or in a move. -/
def State.still (s : State) (p : Nat) : Bool := (s.part p).off || (s.part p).frozen || s.moving p

/-- Bazaar binds and pops for a guest: admitted, with tile time left, its partition powered and not
moving, and no reset of it under way. -/
def State.mayRun (s : State) (g : Nat) : Bool :=
  s.admitted g && !s.exhausted g && !s.still (s.partOf g) && !s.resets.contains g

/-- Every block is powered, but for partitions switched off (13 Table 13.9). -/
def State.powered (s : State) : Bool := s.power.state == .active || s.power.state == .idle

/-- Every rail that does not stand where reset leaves it is at or above the floor of its clusters' frequencies (13 R332), as
it is but for the ramp after a trip. -/
def State.railsUp (s : State) : Bool :=
  s.power.rails.all fun r => (List.range 8).all fun n =>
    (s.cluster n).rail != r.1 || decide (Config.vfloor n (s.cluster n).fNow ≤ r.2.v)

/-- The compute clocks run: the part is active, no trip holds, and the rails have ramped up again after the last one (13
R332, R336, R338). DEDUCED, unsafe: log 56. -/
def State.clocksRun (s : State) : Bool := s.power.state == .active && !s.power.trip.tripped && s.railsUp

end Sys2Proof.Machine
end

