-- ==== Sys2Proof/Machine/Bazaar.lean ====
section
/-! DEFINITION. Bazaar's queues (12 R290 to R292), and completion rings (15 R379, 22 R425). -/
namespace Sys2Proof.Machine

/-! ### Feed and launch queues -/

/-- A queue takes a record: enabled, with room (12 R301, 15 R386). -/
def BQueue.room (q : BQueue) (n : Nat) : Bool := q.enable && decide (q.recs.length + n ≤ q.capM1 + 1)

/-- The 64 bytes of a feed record (12 Table 12.5). -/
def feedBytes (kind sibling source seq : Nat) (body : List Byte) : List Byte :=
  leBytes 8 (kind + sibling * 2 ^ 8 + source * 2 ^ 16 + seq * 2 ^ 32) ++ body

/-- A record appended to a feed queue, with its seq (R290). -/
def State.appendFeed (s : State) (q kind sibling source : Nat) (body : List Byte) (k : Carry) (task : Nat := 0) :
    State × Nat :=
  let x := s.queue q
  let r : BRec := ⟨feedBytes kind sibling source x.seq body, k, 0, x.owner, task⟩
  (s.setQueue q { x with recs := x.recs ++ [r], seq := (x.seq + 1) % 2 ^ 32 }, x.seq)

/-- A launch record submitted to a launch queue (R283, R301). -/
def State.submit (s : State) (q prio guest : Nat) (bytes : List Byte) (k : Carry) : State :=
  let x := s.queue q
  s.setQueue q { x with recs := x.recs ++ [⟨bytes, k, prio, guest, 0⟩] }

/-- A context's feed wait, while it runs. -/
def Ctx.feeding (c : Ctx) : Option FeedWait :=
  if c.bound && c.stop.isNone && !c.halted then c.tasks.feedWait else none

/-- Contexts that wait to pop a queue, by slot, with their places in the order of waiters (R291). -/
def State.waiters (s : State) (q : Nat) : List (Nat × Nat) :=
  s.ctxs.filterMap fun e =>
    match e.2.feeding with
    | some w => if w.pops && w.queues.contains q then some (e.1, w.since) else none
    | none => none

/-- No other context has waited longer on a queue (R291). -/
def State.firstInLine (s : State) (q key : Nat) : Bool :=
  let mine := match (s.ctxs.get Ctx.empty key).tasks.feedWait with
    | some w => if w.queues.contains q then w.since else s.nextUid
    | none => s.nextUid
  (s.waiters q).all fun e => e.1 == key || decide (mine < e.2)

/-- Launches of a guest that are placed or hold a completion not written (15 R379). -/
def State.heldLaunches (s : State) (g : Nat) : Nat := (s.launches.filter fun e => e.2.guest == g).length

/-! ### Completion rings (15 R379, Table 15.5, 22 R425) -/

/-- Entries of a completion ring. -/
def Cq.size (c : Cq) : Nat := 2 ^ (c.ctl % 16)

/-- The ring takes another entry: enabled, of a legal size, and not full. -/
def Cq.open_ (c : Cq) : Bool :=
  decide (4 ≤ c.ctl % 16) && c.ctl.testBit 4 && decide ((c.tail + 1) % c.size ≠ c.head % c.size)

/-- Entries that the ring has space for. -/
def Cq.space (c : Cq) : Nat :=
  if c.open_ then c.size - 1 - (c.tail + c.size - c.head % c.size) % c.size else 0

/-- The held entries that are neither launch completions nor the overflow entry. -/
def CqItem.plain (i : CqItem) : Bool := i.launch.isNone && i.kind != 7

/-- The overflow entry (R379). -/
def overflowItem (n : Nat) : CqItem := ⟨7, 0, 0, BitVec.ofNat 64 (min n (2 ^ 32 - 1)), 0, none⟩

/-- Drops the plain entries; one overflow entry stands in the place of the first, or an earlier one
counts them (R379). DEDUCED, unsafe: log 84. -/
def dropHeld (l : List CqItem) : List CqItem :=
  let n := (l.filter CqItem.plain).length + 1
  if l.any (·.kind == 7) then
    (l.filter fun i => !i.plain).map fun i => if i.kind = 7 then overflowItem (i.b0.toNat + n) else i
  else
    let first := l.takeWhile fun i => !i.plain
    first ++ overflowItem n :: (l.drop first.length).filter fun i => !i.plain

/-- Entries of a guest that can be written at once: none while the link is down or the part is without power. -/
def State.cqRoom (s : State) (c : Cq) : Nat := if s.links.hostUp && s.powered then c.space else 0

/-- An entry held for a guest's completion ring (R379): those that the ring has space for are about to be written, and of
the others at most 64 are neither launch completions nor the overflow entry. DEDUCED, unsafe: log 84. -/
def State.postCq (s : State) (g : Nat) (i : CqItem) : State :=
  let c := s.cq g
  let n := s.cqRoom c
  if i.plain && decide (64 ≤ ((c.held.drop n).filter CqItem.plain).length) then
    s.setCq g { c with held := c.held.take n ++ dropHeld (c.held.drop n) }
  else s.setCq g { c with held := c.held ++ [i] }

/-- The 32 bytes of an entry (Table 15.5). The phase bit is 1 on the first pass, on which `wrapped` is false. -/
def cqBytes (i : CqItem) (seq : Nat) (wrapped : Bool) : List Byte :=
  leBytes 8 i.b0.toNat ++ leBytes 8 i.b1.toNat ++
    leBytes 8 (i.kind + i.ring * 2 ^ 8 + i.tag * 2 ^ 16 + seq * 2 ^ 32) ++
    leBytes 8 (if wrapped then 0 else 2 ^ 63)

/-- A message sent to the host (22 Table 22.2). -/
def State.irq (s : State) (fn vec : Nat) : State := { s with irqs := s.irqs ++ [(fn, vec)] }

/-- The completion message of a function, when armed (22 R425). -/
def State.cqMessage (s : State) (fn : Nat) : State :=
  let f := s.fn fn
  if f.int.getLsbD 6 then
    (s.setFn fn { f with int := f.int &&& ~~~0x40#64 }).irq fn (f.int.extractLsb' 0 3).toNat
  else s

/-- COMPLETION_ENTRY_WRITE (15 R379, 22 R425): the oldest held entry of a guest is written once the ring has
space, then the message is sent. A launch whose completion is written leaves Bazaar. -/
def execCompletionEntryWrite (guest : Nat) (s : State) : Out :=
  let c := s.cq guest
  match c.held with
  | [] => .next s
  | i :: r =>
    if !c.open_ || !s.links.hostUp || !s.powered then .next s else
    let s := { s with host := s.host.write (c.base.toNat + 32 * c.tail) (cqBytes i c.seq c.phase) }
    let s := s.setCq guest { c with held := r, tail := (c.tail + 1) % c.size, phase := c.phase != decide (c.size ≤ c.tail + 1), seq := (c.seq + 1) % 2 ^ 32 }
    let s := match i.launch with
      | some u => { s with launches := s.launches.del u }
      | none => s
    .next (s.cqMessage (fnOf guest))

/-- CQ_HEAD_WRITE (22 R425): the host's next entry to read; the message is armed, and sent at once when
entries are unread. -/
def execCqHeadWrite (fn head : Nat) (s : State) : Out :=
  if (s.fn fn).busy then .next s else
  let g := s.guestOfFn fn
  let c := s.cq g
  let f := s.fn fn
  let s := (s.setCq g { c with head := head % 2 ^ 16 }).setFn fn { f with int := f.int ||| 0x40#64 }
  .next (if c.tail ≠ head % 2 ^ 16 then s.cqMessage fn else s)

end Sys2Proof.Machine
end

