-- ==== Sys2Proof/Decode.lean ====
section
/-! DEFINITION. The decoders of the compute-core word (02, 03) and of the scheduler-core extension
(15 Table 15.6), and after them the encoders of the same tables. -/
namespace Sys2Proof

/-- Why a word is no instruction (02 Table 2.18). -/
inductive DecErr where
  | opc
  | enc
  deriving DecidableEq, Repr

/-- Bits lo + n - 1 down to lo of a word. -/
def fld (w : Word) (lo n : Nat) : BitVec n := w.extractLsb' lo n

/-- A 6-bit scalar specifier (02 Table 2.14); 44-63 are reserved. -/
def decSpec (v : BitVec 6) : Option Spec :=
  if v.toNat < 32 then some (.s (v.extractLsb' 0 5))
  else if v.toNat < 36 then some (.q (Sq.ofNum (v.toNat - 32)))
  else if v.toNat < 44 then some (.li (BitVec.ofNat 3 (v.toNat - 36)))
  else none

/-- The direction of a 2-bit field (02 R38). -/
def decDir (v : BitVec 2) : Dir :=
  if v = 0 then .row else if v = 1 then .col else if v = 2 then .diag else .anti

/-- The tile form of a 12-bit line specifier (02 Table 2.15). -/
def decTile (v : BitVec 12) : Option TileLine :=
  if v.getLsbD 11 then none
  else some ⟨v.extractLsb' 5 6, decDir (v.extractLsb' 3 2), v.extractLsb' 0 3⟩

/-- A 12-bit line specifier (02 R38). -/
def decLine (v : BitVec 12) : Line :=
  if v.getLsbD 11 then .gen (v.extractLsb' 8 3)
  else .tile ⟨v.extractLsb' 5 6, decDir (v.extractLsb' 3 2), v.extractLsb' 0 3⟩

/-- A 2-bit sequencer number. -/
def decSq (v : BitVec 2) : Sq := Sq.ofNum v.toNat

/-- The operation code of an atomic (07 Table 7.6). -/
def decAmo (v : BitVec 6) : Option AmoOp :=
  match v.toNat with
  | 0 => some .swap
  | 1 => some .add
  | 2 => some .and
  | 3 => some .or
  | 4 => some .xor
  | 5 => some .min
  | 6 => some .max
  | 7 => some .minu
  | 8 => some .maxu
  | 9 => some .fadd
  | 10 => some .fmin
  | 11 => some .fmax
  | _ => none

/-- The operation code of VFRED and VFSCAN (10 Table 10.2). -/
def decRed (v : BitVec 2) : Option RedOp :=
  match v.toNat with
  | 0 => some .sum
  | 1 => some .max
  | 2 => some .min
  | _ => none

/-- The operation code of VIRED (10 Table 10.2). -/
def decIRed (v : BitVec 3) : Option IRedOp :=
  match v.toNat with
  | 0 => some .add
  | 1 => some .min
  | 2 => some .max
  | 3 => some .and
  | 4 => some .or
  | 5 => some .xor
  | _ => none

/-- The common fields (02 Table 2.1). -/
def decCommon (w : Word) : Common := ⟨fld w 60 4, fld w 56 4, fld w 52 4, fld w 48 4⟩

/-- The opcode byte (02 Table 2.1). -/
def opcOf (w : Word) : Nat := (fld w 40 8).toNat

/-- A long form takes the following word too (02 R25). -/
def isLong (w : Word) : Bool := opcOf w = 0x1E || opcOf w = 0xB0

/-- The fields of a word under the format of its opcode (03 Table 3.1 and the encoding table of
each chapter), before any check of the bits a row leaves unused. -/
def decFields (w ext : Word) : Option Instr :=
  let cm := decCommon w
  match opcOf w with
  | 0x01 => do some (.add cm (← decSpec (fld w 34 6)) (← decSpec (fld w 28 6)) (← decSpec (fld w 22 6)))
  | 0x02 => do some (.sub cm (← decSpec (fld w 34 6)) (← decSpec (fld w 28 6)) (← decSpec (fld w 22 6)))
  | 0x03 => do some (.mul cm (← decSpec (fld w 34 6)) (← decSpec (fld w 28 6)) (← decSpec (fld w 22 6)))
  | 0x04 => do some (.mulh cm (← decSpec (fld w 34 6)) (← decSpec (fld w 28 6)) (← decSpec (fld w 22 6)))
  | 0x05 => do some (.mulhu cm (← decSpec (fld w 34 6)) (← decSpec (fld w 28 6)) (← decSpec (fld w 22 6)))
  | 0x06 => do some (.div cm (← decSpec (fld w 34 6)) (← decSpec (fld w 28 6)) (← decSpec (fld w 22 6)))
  | 0x07 => do some (.divu cm (← decSpec (fld w 34 6)) (← decSpec (fld w 28 6)) (← decSpec (fld w 22 6)))
  | 0x08 => do some (.rem cm (← decSpec (fld w 34 6)) (← decSpec (fld w 28 6)) (← decSpec (fld w 22 6)))
  | 0x09 => do some (.remu cm (← decSpec (fld w 34 6)) (← decSpec (fld w 28 6)) (← decSpec (fld w 22 6)))
  | 0x0A => do some (.andR cm (← decSpec (fld w 34 6)) (← decSpec (fld w 28 6)) (← decSpec (fld w 22 6)))
  | 0x0B => do some (.orR cm (← decSpec (fld w 34 6)) (← decSpec (fld w 28 6)) (← decSpec (fld w 22 6)))
  | 0x0C => do some (.xorR cm (← decSpec (fld w 34 6)) (← decSpec (fld w 28 6)) (← decSpec (fld w 22 6)))
  | 0x0D => do some (.sll cm (← decSpec (fld w 34 6)) (← decSpec (fld w 28 6)) (← decSpec (fld w 22 6)))
  | 0x0E => do some (.srl cm (← decSpec (fld w 34 6)) (← decSpec (fld w 28 6)) (← decSpec (fld w 22 6)))
  | 0x0F => do some (.sra cm (← decSpec (fld w 34 6)) (← decSpec (fld w 28 6)) (← decSpec (fld w 22 6)))
  | 0x10 => do some (.minR cm (← decSpec (fld w 34 6)) (← decSpec (fld w 28 6)) (← decSpec (fld w 22 6)))
  | 0x11 => do some (.maxR cm (← decSpec (fld w 34 6)) (← decSpec (fld w 28 6)) (← decSpec (fld w 22 6)))
  | 0x12 => do some (.minu cm (← decSpec (fld w 34 6)) (← decSpec (fld w 28 6)) (← decSpec (fld w 22 6)))
  | 0x13 => do some (.maxu cm (← decSpec (fld w 34 6)) (← decSpec (fld w 28 6)) (← decSpec (fld w 22 6)))
  | 0x14 => do some (.slt cm (← decSpec (fld w 34 6)) (← decSpec (fld w 28 6)) (← decSpec (fld w 22 6)))
  | 0x15 => do some (.sltu cm (← decSpec (fld w 34 6)) (← decSpec (fld w 28 6)) (← decSpec (fld w 22 6)))
  | 0x16 => do some (.addi cm (← decSpec (fld w 34 6)) (← decSpec (fld w 28 6)) (fld w 0 28))
  | 0x17 => do some (.andi cm (← decSpec (fld w 34 6)) (← decSpec (fld w 28 6)) (fld w 0 28))
  | 0x18 => do some (.ori cm (← decSpec (fld w 34 6)) (← decSpec (fld w 28 6)) (fld w 0 28))
  | 0x19 => do some (.xori cm (← decSpec (fld w 34 6)) (← decSpec (fld w 28 6)) (fld w 0 28))
  | 0x1A => do some (.slli cm (← decSpec (fld w 34 6)) (← decSpec (fld w 28 6)) (fld w 0 6))
  | 0x1B => do some (.srli cm (← decSpec (fld w 34 6)) (← decSpec (fld w 28 6)) (fld w 0 6))
  | 0x1C => do some (.srai cm (← decSpec (fld w 34 6)) (← decSpec (fld w 28 6)) (fld w 0 6))
  | 0x1D => do some (.slti cm (← decSpec (fld w 34 6)) (← decSpec (fld w 28 6)) (fld w 0 28))
  | 0x1E => do some (.li cm (← decSpec (fld w 34 6)) ext)
  | 0x1F => do some (.bfx cm (← decSpec (fld w 34 6)) (← decSpec (fld w 28 6)) (fld w 0 6) (fld w 6 6) (w.getLsbD 12))
  | 0x20 => do some (.bfi cm (← decSpec (fld w 34 6)) (← decSpec (fld w 28 6)) (fld w 0 6) (fld w 6 6))
  | 0x21 => do some (.clz cm (← decSpec (fld w 34 6)) (← decSpec (fld w 28 6)))
  | 0x22 => do some (.ctz cm (← decSpec (fld w 34 6)) (← decSpec (fld w 28 6)))
  | 0x23 => do some (.popc cm (← decSpec (fld w 34 6)) (← decSpec (fld w 28 6)))
  | 0x24 => do some (.cmp cm (fld w 34 3) (← decSpec (fld w 28 6)) (← decSpec (fld w 22 6)) (fld w 10 3))
  | 0x25 => do some (.cmpi cm (fld w 34 3) (← decSpec (fld w 28 6)) (fld w 24 3) (fld w 0 24))
  | 0x26 => some (.kop cm (fld w 34 3) (fld w 28 3) (fld w 22 3) (fld w 10 4))
  | 0x27 => do some (.sel cm (← decSpec (fld w 34 6)) (← decSpec (fld w 28 6)) (← decSpec (fld w 22 6)) (fld w 10 3) (w.getLsbD 13))
  | 0x28 => some (.pbr cm (fld w 37 3) (fld w 0 33))
  | 0x29 => do some (.pbrr cm (fld w 34 3) (← decSpec (fld w 28 6)))
  | 0x2A => some (.br cm (fld w 37 3) (fld w 34 3) (w.getLsbD 33))
  | 0x2B => some (.call cm (fld w 37 3) (fld w 34 3) (w.getLsbD 33))
  | 0x2C => do some (.loop cm (fld w 37 3) (← decSpec (fld w 31 6)) (fld w 0 31))
  | 0x2D => some (.endl cm (fld w 37 3) (fld w 34 3) (w.getLsbD 33))
  | 0x2E => do some (.mfs cm (← decSpec (fld w 34 6)) (fld w 0 9))
  | 0x2F => do some (.mts cm (fld w 0 9) (← decSpec (fld w 28 6)))
  | 0x30 => some (.nop cm)
  | 0x31 => some (.endSeq cm)
  | 0x40 => some (.qdisc cm (fld w 36 4) (fld w 0 3))
  | 0x41 => do some (.qstat cm (← decSpec (fld w 24 6)) (fld w 36 4))
  | 0x42 => do some (.evset cm (← decSpec (fld w 30 6)) (fld w 1 15))
  | 0x43 => do some (.evclr cm (← decSpec (fld w 30 6)) (fld w 1 15))
  | 0x44 => do some (.evwaitm cm (← decSpec (fld w 24 6)) (fld w 1 15) (w.getLsbD 16))
  | 0x45 => some (.bopush cm (decSq (fld w 36 2)) (fld w 0 3) (w.getLsbD 3))
  | 0x46 => some (.brq cm (fld w 37 3) (decSq (fld w 34 2)) (w.getLsbD 33))
  | 0x47 => do some (.rinit cm (fld w 36 4) (← decSpec (fld w 30 6)))
  | 0x48 => do some (.racq cm (← decSpec (fld w 24 6)) (fld w 36 4))
  | 0x49 => some (.rput cm (fld w 36 4))
  | 0x4A => do some (.rget cm (← decSpec (fld w 24 6)) (fld w 36 4))
  | 0x4B => some (.rrel cm (fld w 36 4))
  | 0x4C => do some (.rstat cm (← decSpec (fld w 24 6)) (fld w 36 4))
  | 0x4D => do some (.wdog cm (← decSpec (fld w 34 6)) (fld w 0 24))
  | 0x50 => do some (.lds cm (← decSpec (fld w 34 6)) (← decSpec (fld w 28 6)) (fld w 26 2) (w.getLsbD 25) (fld w 0 22))
  | 0x51 => do some (.sts cm (← decSpec (fld w 34 6)) (← decSpec (fld w 28 6)) (fld w 26 2) (fld w 0 22))
  | 0x52 => if w.getLsbD 27 then do some (.vldGenerator cm (← decTile (fld w 28 12)) (fld w 24 3) (fld w 4 5)) else do some (.vldAddress cm (← decTile (fld w 28 12)) (← decSpec (fld w 16 6)) (fld w 4 5) (fld w 9 7))
  | 0x53 => if w.getLsbD 39 then do some (.vstGenerator cm (fld w 36 3) (← decTile (fld w 16 12))) else do some (.vstAddress cm (← decSpec (fld w 28 6)) (← decTile (fld w 16 12)) (fld w 9 7))
  | 0x54 => do some (.gset cm (fld w 36 4) (← decSpec (fld w 30 6)))
  | 0x55 => do some (.gpos cm (fld w 36 4) (← decSpec (fld w 30 6)))
  | 0x56 => do some (.genstat cm (← decSpec (fld w 24 6)) (fld w 36 4))
  | 0x57 => some (.zzero cm (fld w 33 6) (fld w 4 6))
  | 0x58 => do some (.zinfo cm (← decSpec (fld w 34 6)) (fld w 0 6))
  | 0x60 => do some (.ld cm (← decSpec (fld w 34 6)) (← decSpec (fld w 28 6)) (fld w 26 2) (w.getLsbD 25) (fld w 0 22))
  | 0x61 => do some (.st cm (← decSpec (fld w 34 6)) (← decSpec (fld w 28 6)) (fld w 26 2) (fld w 0 22))
  | 0x62 => do some (.lda cm (← decSpec (fld w 34 6)) (← decSpec (fld w 28 6)) (fld w 18 4) (fld w 10 2))
  | 0x63 => do some (.stl cm (← decSpec (fld w 28 6)) (← decSpec (fld w 22 6)) (fld w 18 4) (fld w 10 2))
  | 0x64 => do some (.amo cm (← decSpec (fld w 34 6)) (← decSpec (fld w 28 6)) (← decSpec (fld w 22 6)) (fld w 18 4) (← decAmo (fld w 12 6)) (fld w 10 2))
  | 0x65 => do some (.cas cm (fld w 34 5) (← decSpec (fld w 28 6)) (← decSpec (fld w 22 6)) (fld w 18 4) (fld w 10 2))
  | 0x66 => do some (.red cm (← decSpec (fld w 28 6)) (← decSpec (fld w 22 6)) (fld w 18 4) (← decAmo (fld w 12 6)) (fld w 10 2))
  | 0x67 => some (.fence cm (fld w 18 4) (fld w 12 3))
  | 0x68 => do some (.scset cm (fld w 36 4) (← decSpec (fld w 30 6)) (← decSpec (fld w 24 6)))
  | 0x69 => do some (.scget cm (← decSpec (fld w 24 6)) (fld w 36 4) (w.getLsbD 0))
  | 0x70 => do some (.cpush cm (← decSpec (fld w 24 6)) (w.getLsbD 36) (← decSpec (fld w 30 6)))
  | 0x71 => do some (.cpop cm (← decSpec (fld w 24 6)) (w.getLsbD 36))
  | 0x72 => do some (.cpeek cm (← decSpec (fld w 24 6)) (w.getLsbD 36))
  | 0x73 => do some (.cchain cm (w.getLsbD 36) (← decSpec (fld w 30 6)) (w.getLsbD 0))
  | 0x74 => do some (.ckick cm (w.getLsbD 36) (← decSpec (fld w 30 6)) (fld w 0 16))
  | 0x75 => do some (.cqstat cm (← decSpec (fld w 24 6)) (w.getLsbD 36))
  | 0x76 => do some (.cabort cm (w.getLsbD 36) (← decSpec (fld w 30 6)))
  | 0x78 => do some (.cvt cm (← decTile (fld w 28 12)) (← decTile (fld w 16 12)) (fld w 4 5) (fld w 9 3) (w.getLsbD 12) (fld w 1 3))
  | 0x79 => do some (.cvtr cm (← decTile (fld w 28 12)) (← decTile (fld w 16 12)) (← decTile (fld w 4 12)) (fld w 1 3))
  | 0x7A => do some (.qmx cm (← decTile (fld w 28 12)) (← decTile (fld w 16 12)) (fld w 4 5) (fld w 10 3) (fld w 13 2) (w.getLsbD 15))
  | 0x7B => do some (.dqmx cm (← decTile (fld w 28 12)) (← decTile (fld w 16 12)) (← decSpec (fld w 4 6)) (fld w 10 2) (fld w 12 2) (fld w 1 3))
  | 0x7C => do some (.pack cm (← decTile (fld w 28 12)) (← decTile (fld w 16 12)) (← decTile (fld w 4 12)) (fld w 1 3))
  | 0x7D => do some (.unpack cm (← decTile (fld w 28 12)) (← decTile (fld w 16 12)) (fld w 4 5) (w.getLsbD 9) (fld w 1 3))
  | 0x7E => some (.ztag cm (fld w 0 6) (fld w 6 5))
  | 0x7F => do some (.ztagr cm (← decSpec (fld w 34 6)) (← decSpec (fld w 28 6)) (← decSpec (fld w 22 6)))
  | 0x80 => some (.vfadd cm (decLine (fld w 28 12)) (decLine (fld w 16 12)) (decLine (fld w 4 12)) (fld w 1 3))
  | 0x81 => some (.vfsub cm (decLine (fld w 28 12)) (decLine (fld w 16 12)) (decLine (fld w 4 12)) (fld w 1 3))
  | 0x82 => some (.vfmul cm (decLine (fld w 28 12)) (decLine (fld w 16 12)) (decLine (fld w 4 12)) (fld w 1 3))
  | 0x83 => do some (.vfma cm (← decTile (fld w 28 12)) (decLine (fld w 16 12)) (decLine (fld w 4 12)) (fld w 1 3))
  | 0x84 => do some (.vfms cm (← decTile (fld w 28 12)) (decLine (fld w 16 12)) (decLine (fld w 4 12)) (fld w 1 3))
  | 0x85 => do some (.vfnma cm (← decTile (fld w 28 12)) (decLine (fld w 16 12)) (decLine (fld w 4 12)) (fld w 1 3))
  | 0x86 => some (.vfmin cm (decLine (fld w 28 12)) (decLine (fld w 16 12)) (decLine (fld w 4 12)) (fld w 1 3))
  | 0x87 => some (.vfmax cm (decLine (fld w 28 12)) (decLine (fld w 16 12)) (decLine (fld w 4 12)) (fld w 1 3))
  | 0x88 => some (.vfabs cm (decLine (fld w 28 12)) (decLine (fld w 16 12)) (fld w 1 3))
  | 0x89 => some (.vfneg cm (decLine (fld w 28 12)) (decLine (fld w 16 12)) (fld w 1 3))
  | 0x8A => some (.vfscale cm (decLine (fld w 28 12)) (decLine (fld w 16 12)) (decLine (fld w 4 12)) (fld w 1 3))
  | 0x8B => some (.vfrcp cm (decLine (fld w 28 12)) (decLine (fld w 16 12)) (fld w 1 3))
  | 0x8C => some (.vfrsq cm (decLine (fld w 28 12)) (decLine (fld w 16 12)) (fld w 1 3))
  | 0x8D => some (.vfsqrt cm (decLine (fld w 28 12)) (decLine (fld w 16 12)) (fld w 1 3))
  | 0x8E => some (.vfexp2 cm (decLine (fld w 28 12)) (decLine (fld w 16 12)) (fld w 1 3))
  | 0x8F => some (.vflog2 cm (decLine (fld w 28 12)) (decLine (fld w 16 12)) (fld w 1 3))
  | 0x90 => some (.vftanh cm (decLine (fld w 28 12)) (decLine (fld w 16 12)) (fld w 1 3))
  | 0x91 => some (.vfsigm cm (decLine (fld w 28 12)) (decLine (fld w 16 12)) (fld w 1 3))
  | 0x92 => some (.vfcmp cm (fld w 28 3) (fld w 31 3) (decLine (fld w 16 12)) (decLine (fld w 4 12)) (fld w 1 3))
  | 0x93 => do some (.vfred cm (← decTile (fld w 28 12)) (decLine (fld w 16 12)) (← decRed (fld w 4 2)) (fld w 1 3))
  | 0x94 => do some (.vfscan cm (decLine (fld w 28 12)) (decLine (fld w 16 12)) (← decRed (fld w 4 2)) (fld w 1 3))
  | 0x95 => some (.viadd cm (decLine (fld w 28 12)) (decLine (fld w 16 12)) (decLine (fld w 4 12)) (fld w 1 3))
  | 0x96 => some (.visub cm (decLine (fld w 28 12)) (decLine (fld w 16 12)) (decLine (fld w 4 12)) (fld w 1 3))
  | 0x97 => some (.vimul cm (decLine (fld w 28 12)) (decLine (fld w 16 12)) (decLine (fld w 4 12)) (fld w 1 3))
  | 0x98 => some (.vimulh cm (decLine (fld w 28 12)) (decLine (fld w 16 12)) (decLine (fld w 4 12)) (fld w 1 3))
  | 0x99 => some (.vimin cm (decLine (fld w 28 12)) (decLine (fld w 16 12)) (decLine (fld w 4 12)) (fld w 1 3))
  | 0x9A => some (.vimax cm (decLine (fld w 28 12)) (decLine (fld w 16 12)) (decLine (fld w 4 12)) (fld w 1 3))
  | 0x9B => some (.viand cm (decLine (fld w 28 12)) (decLine (fld w 16 12)) (decLine (fld w 4 12)) (fld w 1 3))
  | 0x9C => some (.vior cm (decLine (fld w 28 12)) (decLine (fld w 16 12)) (decLine (fld w 4 12)) (fld w 1 3))
  | 0x9D => some (.vixor cm (decLine (fld w 28 12)) (decLine (fld w 16 12)) (decLine (fld w 4 12)) (fld w 1 3))
  | 0x9E => some (.vishl cm (decLine (fld w 28 12)) (decLine (fld w 16 12)) (decLine (fld w 4 12)) (fld w 1 3))
  | 0x9F => some (.vishr cm (decLine (fld w 28 12)) (decLine (fld w 16 12)) (decLine (fld w 4 12)) (fld w 1 3))
  | 0xA0 => some (.vicmp cm (fld w 28 3) (fld w 31 3) (decLine (fld w 16 12)) (decLine (fld w 4 12)) (fld w 1 3))
  | 0xA1 => do some (.vired cm (← decTile (fld w 28 12)) (decLine (fld w 16 12)) (← decIRed (fld w 4 3)) (fld w 1 3))
  | 0xA2 => some (.viadds cm (decLine (fld w 28 12)) (decLine (fld w 16 12)) (decLine (fld w 4 12)) (fld w 1 3))
  | 0xA3 => some (.vsel cm (decLine (fld w 28 12)) (decLine (fld w 16 12)) (decLine (fld w 4 12)) (fld w 1 3))
  | 0xA4 => some (.vmov cm (decLine (fld w 28 12)) (decLine (fld w 16 12)) (fld w 1 3))
  | 0xA5 => if w.getLsbD 15 then do some (.vbcastScalar cm (decLine (fld w 28 12)) (← decSpec (fld w 4 6)) (fld w 10 5) (fld w 1 3)) else some (.vbcastLine cm (decLine (fld w 28 12)) (decLine (fld w 16 12)) (fld w 4 9) (fld w 1 3))
  | 0xA6 => if w.getLsbD 15 then do some (.vextScalar cm (← decSpec (fld w 28 6)) (decLine (fld w 16 12)) (← decSpec (fld w 4 6))) else do some (.vextIndex cm (← decSpec (fld w 28 6)) (decLine (fld w 16 12)) (fld w 4 9))
  | 0xA7 => if w.getLsbD 15 then do some (.vinsScalar cm (← decTile (fld w 28 12)) (← decSpec (fld w 16 6)) (← decSpec (fld w 4 6))) else do some (.vinsIndex cm (← decTile (fld w 28 12)) (← decSpec (fld w 16 6)) (fld w 4 9))
  | 0xA8 => some (.vshuf cm (decLine (fld w 28 12)) (decLine (fld w 16 12)) (decLine (fld w 4 12)) (fld w 1 3))
  | 0xA9 => do some (.vargmax cm (← decSpec (fld w 28 6)) (decLine (fld w 16 12)) (fld w 1 3))
  | 0xAA => some (.vrng cm (decLine (fld w 28 12)) (fld w 1 3))
  | 0xAB => if w.getLsbD 11 then do some (.plopFirst cm (fld w 28 3) (← decSpec (fld w 16 6))) else some (.plopLogical cm (fld w 28 3) (fld w 16 3) (fld w 4 3) (fld w 7 4))
  | 0xAC => do some (.pcnt cm (← decSpec (fld w 28 6)) (fld w 16 3) (fld w 4 3) (w.getLsbD 7))
  | 0xB0 => some (.mshape cm ext)
  | 0xB1 => do some (.mma cm (fld w 34 6) (fld w 31 3) (fld w 28 3) (← decSpec (fld w 22 6)) (w.getLsbD 14))
  | 0xB2 => do some (.mmas cm (fld w 34 6) (fld w 31 3) (fld w 28 3) (← decSpec (fld w 22 6)) (w.getLsbD 14))
  | 0xB3 => do some (.mmac cm (fld w 34 6) (fld w 31 3) (fld w 28 3) (← decSpec (fld w 22 6)) (w.getLsbD 14))
  | 0xB4 => do some (.mzero cm (fld w 34 6) (← decSpec (fld w 22 6)))
  | 0xB5 => do some (.mplane cm (fld w 34 6) (fld w 31 3) (← decSpec (fld w 22 6)) (fld w 14 3) (fld w 17 3))
  | 0xB6 => do some (.mspack cm (fld w 34 6) (fld w 31 3) (← decSpec (fld w 22 6)) (fld w 14 3) (fld w 17 2))
  | 0xB7 => do some (.oqbind cm (← decSpec (fld w 30 6)) (fld w 0 2))
  | 0xB8 => some (.oqunbind cm)
  | 0xB9 => do some (.mstat cm (← decSpec (fld w 24 6)) (fld w 0 2))
  | 0xC0 => do some (.feedpop cm (← decSpec (fld w 24 6)) (fld w 36 4) (← decSpec (fld w 30 6)))
  | 0xC1 => do some (.feedpush cm (← decSpec (fld w 24 6)) (fld w 36 4) (← decSpec (fld w 30 6)) (w.getLsbD 0))
  | 0xC2 => do some (.feedstat cm (← decSpec (fld w 24 6)) (fld w 36 4))
  | 0xC3 => do some (.taskpush cm (← decSpec (fld w 24 6)) (fld w 36 4) (← decSpec (fld w 30 6)))
  | 0xC4 => do some (.taskpop cm (← decSpec (fld w 24 6)) (← decSpec (fld w 30 6)))
  | 0xC5 => some (.taskdone cm (w.getLsbD 0))
  | 0xC6 => do some (.sleep cm (← decSpec (fld w 24 6)) (fld w 0 16) (w.getLsbD 16))
  | 0xC7 => do some (.fork cm (← decSpec (fld w 24 6)) (fld w 36 4) (← decSpec (fld w 30 6)))
  | 0xC8 => do some (.garrive cm (← decSpec (fld w 30 6)) (← decSpec (fld w 0 6)) (← decSpec (fld w 24 6)))
  | 0xC9 => do some (.gwait cm (← decSpec (fld w 24 6)) (← decSpec (fld w 30 6)) (← decSpec (fld w 0 6)))
  | 0xCA => do some (.gcancel cm (← decSpec (fld w 30 6)) (← decSpec (fld w 0 6)))
  | 0xCB => do some (.grpstat cm (← decSpec (fld w 24 6)) (← decSpec (fld w 30 6)))
  | 0xD0 => do some (.pwracq cm (← decSpec (fld w 24 6)) (fld w 0 4) (w.getLsbD 4))
  | 0xD1 => some (.pwrrel cm (fld w 0 4))
  | 0xD2 => do some (.pwrq cm (← decSpec (fld w 24 6)) (fld w 0 2))
  | 0xE0 => do some (.trap cm (← decSpec (fld w 28 6)) (fld w 0 16))
  | 0xE1 => some (.brk cm (fld w 0 16))
  | 0xE2 => do some (.hcall cm (fld w 34 5) (← decSpec (fld w 28 6)) (fld w 0 16))
  | 0xE3 => some (.tret cm)
  | 0xE4 => do some (.budget cm (← decSpec (fld w 34 6)) (← decSpec (fld w 28 6)) (fld w 0 28))
  | 0xE5 => do some (.discard cm (← decSpec (fld w 30 6)) (← decSpec (fld w 24 6)) (fld w 0 2))
  | 0xE6 => some (.ifence cm)
  | 0xE7 => some (.yield cm)
  | _ => none

/-- An opcode of Table 3.1 that is assigned (03 R49). -/
def assigned (o : Nat) : Bool :=
  (1 ≤ o && o ≤ 0x31) || (0x40 ≤ o && o ≤ 0x4D) || (0x50 ≤ o && o ≤ 0x58) ||
  (0x60 ≤ o && o ≤ 0x69) || (0x70 ≤ o && o ≤ 0x76) || (0x78 ≤ o && o ≤ 0xAC) ||
  (0xB0 ≤ o && o ≤ 0xB9) || (0xC0 ≤ o && o ≤ 0xCB) || (0xD0 ≤ o && o ≤ 0xD2) ||
  (0xE0 ≤ o && o ≤ 0xE7)

/-- A 6-bit scalar specifier (02 Table 2.14). -/
def encSpec : Spec → BitVec 6
  | .s n => 0#1 ++ n
  | .q y => BitVec.ofNat 6 (32 + y.num)
  | .li n => BitVec.ofNat 6 (36 + n.toNat)

/-- A direction (02 R38). -/
def encDir : Dir → BitVec 2
  | .row => 0
  | .col => 1
  | .diag => 2
  | .anti => 3

/-- The tile form (02 Table 2.15). -/
def encTile (t : TileLine) : BitVec 12 := 0#1 ++ t.tile ++ encDir t.dir ++ t.idx

/-- Either form of a line specifier (02 R38). -/
def encLine : Line → BitVec 12
  | .tile t => encTile t
  | .gen g => 1#1 ++ g ++ 0#8

/-- A sequencer number. -/
def encSq (y : Sq) : BitVec 2 := BitVec.ofNat 2 y.num

/-- The operation code of an atomic (07 Table 7.6). -/
def encAmo : AmoOp → BitVec 6
  | .swap => 0
  | .add => 1
  | .and => 2
  | .or => 3
  | .xor => 4
  | .min => 5
  | .max => 6
  | .minu => 7
  | .maxu => 8
  | .fadd => 9
  | .fmin => 10
  | .fmax => 11

/-- The operation code of VFRED and VFSCAN (10 Table 10.2). -/
def encRed : RedOp → BitVec 2
  | .sum => 0
  | .max => 1
  | .min => 2

/-- The operation code of VIRED (10 Table 10.2). -/
def encIRed : IRedOp → BitVec 3
  | .add => 0
  | .min => 1
  | .max => 2
  | .and => 3
  | .or => 4
  | .xor => 5

/-- A word of the common fields, an opcode and an operation field (02 Table 2.1). -/
def mkWord (cm : Common) (opc : BitVec 8) (op : BitVec 40) : Word :=
  cm.tw ++ cm.ew ++ cm.ts ++ cm.es ++ opc ++ op

/-- The words of a compute-core instruction: the instruction word and, for a long form, its
extension word (02 R25). Rows without a compute-core encoding have none. -/
def encode : Instr → Option (Word × Option Word)
  | .add cm d a b => some (mkWord cm 0x01 (encSpec d ++ encSpec a ++ encSpec b ++ 0#22), none)
  | .sub cm d a b => some (mkWord cm 0x02 (encSpec d ++ encSpec a ++ encSpec b ++ 0#22), none)
  | .mul cm d a b => some (mkWord cm 0x03 (encSpec d ++ encSpec a ++ encSpec b ++ 0#22), none)
  | .mulh cm d a b => some (mkWord cm 0x04 (encSpec d ++ encSpec a ++ encSpec b ++ 0#22), none)
  | .mulhu cm d a b => some (mkWord cm 0x05 (encSpec d ++ encSpec a ++ encSpec b ++ 0#22), none)
  | .div cm d a b => some (mkWord cm 0x06 (encSpec d ++ encSpec a ++ encSpec b ++ 0#22), none)
  | .divu cm d a b => some (mkWord cm 0x07 (encSpec d ++ encSpec a ++ encSpec b ++ 0#22), none)
  | .rem cm d a b => some (mkWord cm 0x08 (encSpec d ++ encSpec a ++ encSpec b ++ 0#22), none)
  | .remu cm d a b => some (mkWord cm 0x09 (encSpec d ++ encSpec a ++ encSpec b ++ 0#22), none)
  | .andR cm d a b => some (mkWord cm 0x0A (encSpec d ++ encSpec a ++ encSpec b ++ 0#22), none)
  | .orR cm d a b => some (mkWord cm 0x0B (encSpec d ++ encSpec a ++ encSpec b ++ 0#22), none)
  | .xorR cm d a b => some (mkWord cm 0x0C (encSpec d ++ encSpec a ++ encSpec b ++ 0#22), none)
  | .sll cm d a b => some (mkWord cm 0x0D (encSpec d ++ encSpec a ++ encSpec b ++ 0#22), none)
  | .srl cm d a b => some (mkWord cm 0x0E (encSpec d ++ encSpec a ++ encSpec b ++ 0#22), none)
  | .sra cm d a b => some (mkWord cm 0x0F (encSpec d ++ encSpec a ++ encSpec b ++ 0#22), none)
  | .minR cm d a b => some (mkWord cm 0x10 (encSpec d ++ encSpec a ++ encSpec b ++ 0#22), none)
  | .maxR cm d a b => some (mkWord cm 0x11 (encSpec d ++ encSpec a ++ encSpec b ++ 0#22), none)
  | .minu cm d a b => some (mkWord cm 0x12 (encSpec d ++ encSpec a ++ encSpec b ++ 0#22), none)
  | .maxu cm d a b => some (mkWord cm 0x13 (encSpec d ++ encSpec a ++ encSpec b ++ 0#22), none)
  | .slt cm d a b => some (mkWord cm 0x14 (encSpec d ++ encSpec a ++ encSpec b ++ 0#22), none)
  | .sltu cm d a b => some (mkWord cm 0x15 (encSpec d ++ encSpec a ++ encSpec b ++ 0#22), none)
  | .addi cm d a imm => some (mkWord cm 0x16 (encSpec d ++ encSpec a ++ imm), none)
  | .andi cm d a imm => some (mkWord cm 0x17 (encSpec d ++ encSpec a ++ imm), none)
  | .ori cm d a imm => some (mkWord cm 0x18 (encSpec d ++ encSpec a ++ imm), none)
  | .xori cm d a imm => some (mkWord cm 0x19 (encSpec d ++ encSpec a ++ imm), none)
  | .slli cm d a sh => some (mkWord cm 0x1A (encSpec d ++ encSpec a ++ 0#22 ++ sh), none)
  | .srli cm d a sh => some (mkWord cm 0x1B (encSpec d ++ encSpec a ++ 0#22 ++ sh), none)
  | .srai cm d a sh => some (mkWord cm 0x1C (encSpec d ++ encSpec a ++ 0#22 ++ sh), none)
  | .slti cm d a imm => some (mkWord cm 0x1D (encSpec d ++ encSpec a ++ imm), none)
  | .li cm d v => some (mkWord cm 0x1E (encSpec d ++ 0#34), some v)
  | .bfx cm d a pos lenM1 sx => some (mkWord cm 0x1F (encSpec d ++ encSpec a ++ 0#15 ++ BitVec.ofBool sx ++ lenM1 ++ pos), none)
  | .bfi cm d a pos lenM1 => some (mkWord cm 0x20 (encSpec d ++ encSpec a ++ 0#16 ++ lenM1 ++ pos), none)
  | .clz cm d a => some (mkWord cm 0x21 (encSpec d ++ encSpec a ++ 0#28), none)
  | .ctz cm d a => some (mkWord cm 0x22 (encSpec d ++ encSpec a ++ 0#28), none)
  | .popc cm d a => some (mkWord cm 0x23 (encSpec d ++ encSpec a ++ 0#28), none)
  | .cmp cm kd a b cond => some (mkWord cm 0x24 (0#3 ++ kd ++ encSpec a ++ encSpec b ++ 0#9 ++ cond ++ 0#10), none)
  | .cmpi cm kd a cond imm => some (mkWord cm 0x25 (0#3 ++ kd ++ encSpec a ++ 0#1 ++ cond ++ imm), none)
  | .kop cm kd ka kb table => some (mkWord cm 0x26 (0#3 ++ kd ++ 0#3 ++ ka ++ 0#3 ++ kb ++ 0#8 ++ table ++ 0#10), none)
  | .sel cm d a b k neg => some (mkWord cm 0x27 (encSpec d ++ encSpec a ++ encSpec b ++ 0#8 ++ BitVec.ofBool neg ++ k ++ 0#10), none)
  | .pbr cm bn off => some (mkWord cm 0x28 (bn ++ 0#4 ++ off), none)
  | .pbrr cm bn a => some (mkWord cm 0x29 (0#3 ++ bn ++ encSpec a ++ 0#28), none)
  | .br cm bn k neg => some (mkWord cm 0x2A (bn ++ k ++ BitVec.ofBool neg ++ 0#33), none)
  | .call cm bn k neg => some (mkWord cm 0x2B (bn ++ k ++ BitVec.ofBool neg ++ 0#33), none)
  | .loop cm level count body => some (mkWord cm 0x2C (level ++ encSpec count ++ body), none)
  | .endl cm level k neg => some (mkWord cm 0x2D (level ++ k ++ BitVec.ofBool neg ++ 0#33), none)
  | .mfs cm d num => some (mkWord cm 0x2E (encSpec d ++ 0#25 ++ num), none)
  | .mts cm num a => some (mkWord cm 0x2F (0#6 ++ encSpec a ++ 0#19 ++ num), none)
  | .nop cm => some (mkWord cm 0x30 (0#40), none)
  | .endSeq cm => some (mkWord cm 0x31 (0#40), none)
  | .qdisc cm srcs kinds => some (mkWord cm 0x40 (srcs ++ 0#33 ++ kinds), none)
  | .qstat cm d ch => some (mkWord cm 0x41 (ch ++ 0#6 ++ encSpec d ++ 0#24), none)
  | .evset cm a mask => some (mkWord cm 0x42 (0#4 ++ encSpec a ++ 0#14 ++ mask ++ 0#1), none)
  | .evclr cm a mask => some (mkWord cm 0x43 (0#4 ++ encSpec a ++ 0#14 ++ mask ++ 0#1), none)
  | .evwaitm cm d mask any => some (mkWord cm 0x44 (0#10 ++ encSpec d ++ 0#7 ++ BitVec.ofBool any ++ mask ++ 0#1), none)
  | .bopush cm dest k neg => some (mkWord cm 0x45 (0#2 ++ encSq dest ++ 0#32 ++ BitVec.ofBool neg ++ k), none)
  | .brq cm bn src neg => some (mkWord cm 0x46 (bn ++ 0#1 ++ encSq src ++ BitVec.ofBool neg ++ 0#33), none)
  | .rinit cm rg a => some (mkWord cm 0x47 (rg ++ encSpec a ++ 0#30), none)
  | .racq cm d rg => some (mkWord cm 0x48 (rg ++ 0#6 ++ encSpec d ++ 0#24), none)
  | .rput cm rg => some (mkWord cm 0x49 (rg ++ 0#36), none)
  | .rget cm d rg => some (mkWord cm 0x4A (rg ++ 0#6 ++ encSpec d ++ 0#24), none)
  | .rrel cm rg => some (mkWord cm 0x4B (rg ++ 0#36), none)
  | .rstat cm d rg => some (mkWord cm 0x4C (rg ++ 0#6 ++ encSpec d ++ 0#24), none)
  | .wdog cm d n => some (mkWord cm 0x4D (encSpec d ++ 0#10 ++ n), none)
  | .lds cm d a size sx off => some (mkWord cm 0x50 (encSpec d ++ encSpec a ++ size ++ BitVec.ofBool sx ++ 0#3 ++ off), none)
  | .sts cm d a size off => some (mkWord cm 0x51 (encSpec d ++ encSpec a ++ size ++ 0#4 ++ off), none)
  | .vldAddress cm d a tag off => some (mkWord cm 0x52 (encTile d ++ 0#6 ++ encSpec a ++ off ++ tag ++ 0#4), none)
  | .vldGenerator cm d g tag => some (mkWord cm 0x52 (encTile d ++ 1#1 ++ g ++ 0#15 ++ tag ++ 0#4), none)
  | .vstAddress cm d a off => some (mkWord cm 0x53 (0#6 ++ encSpec d ++ encTile a ++ off ++ 0#9), none)
  | .vstGenerator cm g a => some (mkWord cm 0x53 (1#1 ++ g ++ 0#8 ++ encTile a ++ 0#16), none)
  | .gset cm g a => some (mkWord cm 0x54 (g ++ encSpec a ++ 0#30), none)
  | .gpos cm g a => some (mkWord cm 0x55 (g ++ encSpec a ++ 0#30), none)
  | .genstat cm d g => some (mkWord cm 0x56 (g ++ 0#6 ++ encSpec d ++ 0#24), none)
  | .zzero cm tile countM1 => some (mkWord cm 0x57 (0#1 ++ tile ++ 0#23 ++ countM1 ++ 0#4), none)
  | .zinfo cm d tile => some (mkWord cm 0x58 (encSpec d ++ 0#28 ++ tile), none)
  | .ld cm d a size sx off => some (mkWord cm 0x60 (encSpec d ++ encSpec a ++ size ++ BitVec.ofBool sx ++ 0#3 ++ off), none)
  | .st cm d a size off => some (mkWord cm 0x61 (encSpec d ++ encSpec a ++ size ++ 0#4 ++ off), none)
  | .lda cm d a scope width => some (mkWord cm 0x62 (encSpec d ++ encSpec a ++ 0#6 ++ scope ++ 0#6 ++ width ++ 0#10), none)
  | .stl cm a b scope width => some (mkWord cm 0x63 (0#6 ++ encSpec a ++ encSpec b ++ scope ++ 0#6 ++ width ++ 0#10), none)
  | .amo cm d a b scope op width => some (mkWord cm 0x64 (encSpec d ++ encSpec a ++ encSpec b ++ scope ++ encAmo op ++ width ++ 0#10), none)
  | .cas cm d a b scope width => some (mkWord cm 0x65 (0#1 ++ d ++ encSpec a ++ encSpec b ++ scope ++ 0#6 ++ width ++ 0#10), none)
  | .red cm a b scope op width => some (mkWord cm 0x66 (0#6 ++ encSpec a ++ encSpec b ++ scope ++ encAmo op ++ width ++ 0#10), none)
  | .fence cm scope kinds => some (mkWord cm 0x67 (0#18 ++ scope ++ 0#3 ++ kinds ++ 0#12), none)
  | .scset cm n a d => some (mkWord cm 0x68 (n ++ encSpec a ++ encSpec d ++ 0#24), none)
  | .scget cm d n slices => some (mkWord cm 0x69 (n ++ 0#6 ++ encSpec d ++ 0#23 ++ BitVec.ofBool slices), none)
  | .cpush cm d q a => some (mkWord cm 0x70 (0#3 ++ BitVec.ofBool q ++ encSpec a ++ encSpec d ++ 0#24), none)
  | .cpop cm d q => some (mkWord cm 0x71 (0#3 ++ BitVec.ofBool q ++ 0#6 ++ encSpec d ++ 0#24), none)
  | .cpeek cm d q => some (mkWord cm 0x72 (0#3 ++ BitVec.ofBool q ++ 0#6 ++ encSpec d ++ 0#24), none)
  | .cchain cm q a spad => some (mkWord cm 0x73 (0#3 ++ BitVec.ofBool q ++ encSpec a ++ 0#29 ++ BitVec.ofBool spad), none)
  | .ckick cm q a n => some (mkWord cm 0x74 (0#3 ++ BitVec.ofBool q ++ encSpec a ++ 0#14 ++ n), none)
  | .cqstat cm d q => some (mkWord cm 0x75 (0#3 ++ BitVec.ofBool q ++ 0#6 ++ encSpec d ++ 0#24), none)
  | .cabort cm q a => some (mkWord cm 0x76 (0#3 ++ BitVec.ofBool q ++ encSpec a ++ 0#30), none)
  | .cvt cm d a tag part sat p => some (mkWord cm 0x78 (encTile d ++ encTile a ++ 0#3 ++ BitVec.ofBool sat ++ part ++ tag ++ p ++ 0#1), none)
  | .cvtr cm d a b p => some (mkWord cm 0x79 (encTile d ++ encTile a ++ encTile b ++ p ++ 0#1), none)
  | .qmx cm d a sc prec part fit => some (mkWord cm 0x7A (encTile d ++ encTile a ++ BitVec.ofBool fit ++ part ++ prec ++ 0#1 ++ sc ++ 0#4), none)
  | .dqmx cm d a sc fmt part p => some (mkWord cm 0x7B (encTile d ++ encTile a ++ 0#2 ++ part ++ fmt ++ encSpec sc ++ p ++ 0#1), none)
  | .pack cm d a b p => some (mkWord cm 0x7C (encTile d ++ encTile a ++ encTile b ++ p ++ 0#1), none)
  | .unpack cm d a tag hi p => some (mkWord cm 0x7D (encTile d ++ encTile a ++ 0#6 ++ BitVec.ofBool hi ++ tag ++ p ++ 0#1), none)
  | .ztag cm tile tag => some (mkWord cm 0x7E (0#29 ++ tag ++ tile), none)
  | .ztagr cm d a b => some (mkWord cm 0x7F (encSpec d ++ encSpec a ++ encSpec b ++ 0#22), none)
  | .vfadd cm d a b p => some (mkWord cm 0x80 (encLine d ++ encLine a ++ encLine b ++ p ++ 0#1), none)
  | .vfsub cm d a b p => some (mkWord cm 0x81 (encLine d ++ encLine a ++ encLine b ++ p ++ 0#1), none)
  | .vfmul cm d a b p => some (mkWord cm 0x82 (encLine d ++ encLine a ++ encLine b ++ p ++ 0#1), none)
  | .vfma cm d a b p => some (mkWord cm 0x83 (encTile d ++ encLine a ++ encLine b ++ p ++ 0#1), none)
  | .vfms cm d a b p => some (mkWord cm 0x84 (encTile d ++ encLine a ++ encLine b ++ p ++ 0#1), none)
  | .vfnma cm d a b p => some (mkWord cm 0x85 (encTile d ++ encLine a ++ encLine b ++ p ++ 0#1), none)
  | .vfmin cm d a b p => some (mkWord cm 0x86 (encLine d ++ encLine a ++ encLine b ++ p ++ 0#1), none)
  | .vfmax cm d a b p => some (mkWord cm 0x87 (encLine d ++ encLine a ++ encLine b ++ p ++ 0#1), none)
  | .vfabs cm d a p => some (mkWord cm 0x88 (encLine d ++ encLine a ++ 0#12 ++ p ++ 0#1), none)
  | .vfneg cm d a p => some (mkWord cm 0x89 (encLine d ++ encLine a ++ 0#12 ++ p ++ 0#1), none)
  | .vfscale cm d a b p => some (mkWord cm 0x8A (encLine d ++ encLine a ++ encLine b ++ p ++ 0#1), none)
  | .vfrcp cm d a p => some (mkWord cm 0x8B (encLine d ++ encLine a ++ 0#12 ++ p ++ 0#1), none)
  | .vfrsq cm d a p => some (mkWord cm 0x8C (encLine d ++ encLine a ++ 0#12 ++ p ++ 0#1), none)
  | .vfsqrt cm d a p => some (mkWord cm 0x8D (encLine d ++ encLine a ++ 0#12 ++ p ++ 0#1), none)
  | .vfexp2 cm d a p => some (mkWord cm 0x8E (encLine d ++ encLine a ++ 0#12 ++ p ++ 0#1), none)
  | .vflog2 cm d a p => some (mkWord cm 0x8F (encLine d ++ encLine a ++ 0#12 ++ p ++ 0#1), none)
  | .vftanh cm d a p => some (mkWord cm 0x90 (encLine d ++ encLine a ++ 0#12 ++ p ++ 0#1), none)
  | .vfsigm cm d a p => some (mkWord cm 0x91 (encLine d ++ encLine a ++ 0#12 ++ p ++ 0#1), none)
  | .vfcmp cm pd cond a b p => some (mkWord cm 0x92 (0#6 ++ cond ++ pd ++ encLine a ++ encLine b ++ p ++ 0#1), none)
  | .vfred cm d a op p => some (mkWord cm 0x93 (encTile d ++ encLine a ++ 0#10 ++ encRed op ++ p ++ 0#1), none)
  | .vfscan cm d a op p => some (mkWord cm 0x94 (encLine d ++ encLine a ++ 0#10 ++ encRed op ++ p ++ 0#1), none)
  | .viadd cm d a b p => some (mkWord cm 0x95 (encLine d ++ encLine a ++ encLine b ++ p ++ 0#1), none)
  | .visub cm d a b p => some (mkWord cm 0x96 (encLine d ++ encLine a ++ encLine b ++ p ++ 0#1), none)
  | .vimul cm d a b p => some (mkWord cm 0x97 (encLine d ++ encLine a ++ encLine b ++ p ++ 0#1), none)
  | .vimulh cm d a b p => some (mkWord cm 0x98 (encLine d ++ encLine a ++ encLine b ++ p ++ 0#1), none)
  | .vimin cm d a b p => some (mkWord cm 0x99 (encLine d ++ encLine a ++ encLine b ++ p ++ 0#1), none)
  | .vimax cm d a b p => some (mkWord cm 0x9A (encLine d ++ encLine a ++ encLine b ++ p ++ 0#1), none)
  | .viand cm d a b p => some (mkWord cm 0x9B (encLine d ++ encLine a ++ encLine b ++ p ++ 0#1), none)
  | .vior cm d a b p => some (mkWord cm 0x9C (encLine d ++ encLine a ++ encLine b ++ p ++ 0#1), none)
  | .vixor cm d a b p => some (mkWord cm 0x9D (encLine d ++ encLine a ++ encLine b ++ p ++ 0#1), none)
  | .vishl cm d a b p => some (mkWord cm 0x9E (encLine d ++ encLine a ++ encLine b ++ p ++ 0#1), none)
  | .vishr cm d a b p => some (mkWord cm 0x9F (encLine d ++ encLine a ++ encLine b ++ p ++ 0#1), none)
  | .vicmp cm pd cond a b p => some (mkWord cm 0xA0 (0#6 ++ cond ++ pd ++ encLine a ++ encLine b ++ p ++ 0#1), none)
  | .vired cm d a op p => some (mkWord cm 0xA1 (encTile d ++ encLine a ++ 0#9 ++ encIRed op ++ p ++ 0#1), none)
  | .viadds cm d a b p => some (mkWord cm 0xA2 (encLine d ++ encLine a ++ encLine b ++ p ++ 0#1), none)
  | .vsel cm d a b p => some (mkWord cm 0xA3 (encLine d ++ encLine a ++ encLine b ++ p ++ 0#1), none)
  | .vmov cm d a p => some (mkWord cm 0xA4 (encLine d ++ encLine a ++ 0#12 ++ p ++ 0#1), none)
  | .vbcastLine cm d a index p => some (mkWord cm 0xA5 (encLine d ++ encLine a ++ 0#3 ++ index ++ p ++ 0#1), none)
  | .vbcastScalar cm d sc tag p => some (mkWord cm 0xA5 (encLine d ++ 0#12 ++ 1#1 ++ tag ++ encSpec sc ++ p ++ 0#1), none)
  | .vextIndex cm d a index => some (mkWord cm 0xA6 (0#6 ++ encSpec d ++ encLine a ++ 0#3 ++ index ++ 0#4), none)
  | .vextScalar cm d a sc => some (mkWord cm 0xA6 (0#6 ++ encSpec d ++ encLine a ++ 1#1 ++ 0#5 ++ encSpec sc ++ 0#4), none)
  | .vinsIndex cm d a index => some (mkWord cm 0xA7 (encTile d ++ 0#6 ++ encSpec a ++ 0#3 ++ index ++ 0#4), none)
  | .vinsScalar cm d a sc => some (mkWord cm 0xA7 (encTile d ++ 0#6 ++ encSpec a ++ 1#1 ++ 0#5 ++ encSpec sc ++ 0#4), none)
  | .vshuf cm d a b p => some (mkWord cm 0xA8 (encLine d ++ encLine a ++ encLine b ++ p ++ 0#1), none)
  | .vargmax cm d a p => some (mkWord cm 0xA9 (0#6 ++ encSpec d ++ encLine a ++ 0#12 ++ p ++ 0#1), none)
  | .vrng cm d p => some (mkWord cm 0xAA (encLine d ++ 0#24 ++ p ++ 0#1), none)
  | .plopLogical cm pd pa pb table => some (mkWord cm 0xAB (0#9 ++ pd ++ 0#9 ++ pa ++ 0#5 ++ table ++ pb ++ 0#4), none)
  | .plopFirst cm pd a => some (mkWord cm 0xAB (0#9 ++ pd ++ 0#6 ++ encSpec a ++ 0#4 ++ 1#1 ++ 0#11), none)
  | .pcnt cm d pa pb first => some (mkWord cm 0xAC (0#6 ++ encSpec d ++ 0#9 ++ pa ++ 0#8 ++ BitVec.ofBool first ++ pb ++ 0#4), none)
  | .mshape cm shape => some (mkWord cm 0xB0 (0#40), some shape)
  | .mma cm acc ga gb bo init => some (mkWord cm 0xB1 (acc ++ ga ++ gb ++ encSpec bo ++ 0#7 ++ BitVec.ofBool init ++ 0#14), none)
  | .mmas cm acc ga gb bo init => some (mkWord cm 0xB2 (acc ++ ga ++ gb ++ encSpec bo ++ 0#7 ++ BitVec.ofBool init ++ 0#14), none)
  | .mmac cm acc ga gb bo init => some (mkWord cm 0xB3 (acc ++ ga ++ gb ++ encSpec bo ++ 0#7 ++ BitVec.ofBool init ++ 0#14), none)
  | .mzero cm acc bo => some (mkWord cm 0xB4 (acc ++ 0#6 ++ encSpec bo ++ 0#22), none)
  | .mplane cm acc ga bo fmt block => some (mkWord cm 0xB5 (acc ++ ga ++ 0#3 ++ encSpec bo ++ 0#2 ++ block ++ fmt ++ 0#14), none)
  | .mspack cm acc ga bo fmt group => some (mkWord cm 0xB6 (acc ++ ga ++ 0#3 ++ encSpec bo ++ 0#3 ++ group ++ fmt ++ 0#14), none)
  | .oqbind cm a role => some (mkWord cm 0xB7 (0#4 ++ encSpec a ++ 0#28 ++ role), none)
  | .oqunbind cm => some (mkWord cm 0xB8 (0#40), none)
  | .mstat cm d item => some (mkWord cm 0xB9 (0#10 ++ encSpec d ++ 0#22 ++ item), none)
  | .feedpop cm d f a => some (mkWord cm 0xC0 (f ++ encSpec a ++ encSpec d ++ 0#24), none)
  | .feedpush cm d f a nowait => some (mkWord cm 0xC1 (f ++ encSpec a ++ encSpec d ++ 0#23 ++ BitVec.ofBool nowait), none)
  | .feedstat cm d f => some (mkWord cm 0xC2 (f ++ 0#6 ++ encSpec d ++ 0#24), none)
  | .taskpush cm d t a => some (mkWord cm 0xC3 (t ++ encSpec a ++ encSpec d ++ 0#24), none)
  | .taskpop cm d a => some (mkWord cm 0xC4 (0#4 ++ encSpec a ++ encSpec d ++ 0#24), none)
  | .taskdone cm rerun => some (mkWord cm 0xC5 (0#39 ++ BitVec.ofBool rerun), none)
  | .sleep cm d mask task => some (mkWord cm 0xC6 (0#10 ++ encSpec d ++ 0#7 ++ BitVec.ofBool task ++ mask), none)
  | .fork cm d f a => some (mkWord cm 0xC7 (f ++ encSpec a ++ encSpec d ++ 0#24), none)
  | .garrive cm a idx rew => some (mkWord cm 0xC8 (0#4 ++ encSpec a ++ encSpec rew ++ 0#18 ++ encSpec idx), none)
  | .gwait cm d a idx => some (mkWord cm 0xC9 (0#4 ++ encSpec a ++ encSpec d ++ 0#18 ++ encSpec idx), none)
  | .gcancel cm a idx => some (mkWord cm 0xCA (0#4 ++ encSpec a ++ 0#24 ++ encSpec idx), none)
  | .grpstat cm d a => some (mkWord cm 0xCB (0#4 ++ encSpec a ++ encSpec d ++ 0#24), none)
  | .pwracq cm d level nowait => some (mkWord cm 0xD0 (0#10 ++ encSpec d ++ 0#19 ++ BitVec.ofBool nowait ++ level), none)
  | .pwrrel cm level => some (mkWord cm 0xD1 (0#36 ++ level), none)
  | .pwrq cm d item => some (mkWord cm 0xD2 (0#10 ++ encSpec d ++ 0#22 ++ item), none)
  | .trap cm a code => some (mkWord cm 0xE0 (0#6 ++ encSpec a ++ 0#12 ++ code), none)
  | .brk cm code => some (mkWord cm 0xE1 (0#24 ++ code), none)
  | .hcall cm d a code => some (mkWord cm 0xE2 (0#1 ++ d ++ encSpec a ++ 0#12 ++ code), none)
  | .tret cm => some (mkWord cm 0xE3 (0#40), none)
  | .budget cm d a n => some (mkWord cm 0xE4 (encSpec d ++ encSpec a ++ n), none)
  | .discard cm a d kind => some (mkWord cm 0xE5 (0#4 ++ encSpec a ++ encSpec d ++ 0#22 ++ kind), none)
  | .ifence cm => some (mkWord cm 0xE6 (0#40), none)
  | .yield cm => some (mkWord cm 0xE7 (0#40), none)
  | .instructionRetire _ _ _ => none
  | .codeFetch _ _ _ _ => none
  | .waitTimeout _ _ _ => none
  | .trapEntry _ _ => none
  | .budgetExpiry _ _ => none
  | .generatorRefill _ _ _ => none
  | .scrubPass _ _ _ _ => none
  | .leaseExpiry _ _ => none
  | .timeRebase _ => none
  | .tableWalk _ _ _ _ => none
  | .pageMigrationSwitch _ _ _ => none
  | .lazyPageLoad _ _ => none
  | .copy _ _ _ _ _ => none
  | .gather _ _ _ _ _ => none
  | .scatter _ _ _ _ _ => none
  | .reduce _ _ _ _ _ => none
  | .fill _ _ _ _ _ => none
  | .chainFetch _ _ _ => none
  | .commandComplete _ _ _ _ => none
  | .engineTimeout _ _ _ _ => none
  | .matrixComplete _ _ _ _ => none
  | .jointOperationStart _ _ => none
  | .launch _ => none
  | .instanceBind _ _ => none
  | .instanceComplete _ _ => none
  | .launchCompletionPost _ => none
  | .dependenceMet _ => none
  | .taskPlace _ => none
  | .taskAgeingExpiry _ => none
  | .taskSteal _ _ _ => none
  | .groupTimeout _ => none
  | .groupComplete _ => none
  | .powerGrant _ _ => none
  | .loanReclaim _ => none
  | .loanRestore _ => none
  | .clockRequest _ _ => none
  | .clockSwitch _ => none
  | .voteWithdraw _ => none
  | .railHoldExpiry _ => none
  | .railMove _ _ => none
  | .stallSample _ _ _ _ => none
  | .pwrStallRead _ _ => none
  | .thermalSample _ => none
  | .throttleStep _ => none
  | .tripResume _ => none
  | .idleEntry => none
  | .idleExit => none
  | .wakeInputRise => none
  | .wakeInputFall => none
  | .supplyRemoval => none
  | .preemptRequest _ _ _ _ => none
  | .contextSave _ _ => none
  | .contextRestore _ => none
  | .xlateInv _ => none
  | .invalidationComplete => none
  | .kick _ _ => none
  | .ringConfigWrite _ _ _ _ _ => none
  | .ageTick => none
  | .completionEntryWrite _ => none
  | .eventRecordPost _ => none
  | .fwAnswerResume _ => none
  | .fwAnswerDiscard _ => none
  | .fwAnswerResult _ => none
  | .contractWrite _ _ _ _ _ => none
  | .wayChg _ => none
  | .partitionConfigWrite _ _ _ _ => none
  | .queueConfigWrite _ _ _ _ => none
  | .windowBoundary _ => none
  | .tileTimeExhausted _ => none
  | .partMovePairs _ _ _ => none
  | .partMoveSlices _ _ _ => none
  | .partMoveChannels _ _ _ => none
  | .partMoveLanes _ _ _ _ => none
  | .functionLevelReset _ => none
  | .vfReset _ => none
  | .guestReset _ _ => none
  | .memoryTempSample _ _ _ => none
  | .registerWrite _ _ _ _ => none
  | .windowRead _ _ _ => none
  | .windowWrite _ _ _ => none
  | .cqHeadWrite _ _ => none
  | .hostLinkDown => none
  | .peerWrite _ _ => none
  | .peerAtomic _ _ _ _ _ => none
  | .walzelLinkDown _ => none
  | .cameraFrame _ _ => none
  | .cameraPeriodEnd _ => none
  | .displayPeriodStart _ => none
  | .mboxGo => none
  | .getStatus _ => none
  | .lockAcquire _ => none
  | .lockRelease _ => none
  | .partMove _ _ => none
  | .streamSet _ _ _ => none
  | .powerSet _ _ _ => none
  | .powerState _ _ _ _ => none
  | .debugUnlock _ _ => none
  | .nonceExpiry => none
  | .debugAccess _ _ _ => none
  | .getVersion => none
  | .getCapabilities => none
  | .negotiateAlgorithms _ => none
  | .getDigests => none
  | .getCertificate _ => none
  | .challenge _ _ => none
  | .getMeasurements _ _ _ => none
  | .keyExchange _ _ => none
  | .finish _ => none
  | .endSession _ => none
  | .keyOnBoot => none
  | .rfetch _ _ => none
  | .bfext _ _ _ => none
  | .swait _ _ _ => none
  | .pclr _ => none
  | .dispatch _ _ _ => none
  | .qsave _ _ _ => none
  | .qload _ _ _ => none
  | .qbind _ _ _ => none
  | .walzelLinkUp _ _ => none
  | .hostLinkUp _ _ => none
  | .crcFailure _ => none
  | .peerRead _ _ => none
  | .railRampComplete _ => none

/-- The instruction of a word and the word after it. A bit that the row leaves unused must be zero
(02 R35), so a word that is not the encoding of the fields read from it is ILLEGAL_ENC, as is
one that breaks a static check of its entry. -/
def decode (w ext : Word) : Except DecErr Instr :=
  if !assigned (opcOf w) then .error .opc
  else
    match decFields w ext with
    | none => .error .enc
    | some i =>
      if decide (encode i = some (w, if isLong w then some ext else none)) && i.wellFormed then .ok i
      else .error .enc

/-- A 32-bit word of the scheduler-core extension (15 Table 15.6). -/
def mkFw (rs2 rs1 : BitVec 5) (f3 : BitVec 3) (rd : BitVec 5) (opc : BitVec 7) : BitVec 32 :=
  0#7 ++ rs2 ++ rs1 ++ f3 ++ rd ++ opc

/-- The word of a scheduler-core instruction (15 Table 15.6). -/
def encodeFw : Instr → Option (BitVec 32)
  | .rfetch rd rs1 => some (mkFw 0 rs1 0 rd 0x0B)
  | .bfext rd rs1 rs2 => some (mkFw rs2 rs1 1 rd 0x0B)
  | .swait rd rs1 rs2 => some (mkFw rs2 rs1 2 rd 0x0B)
  | .pclr rs1 => some (mkFw 0 rs1 3 0 0x0B)
  | .dispatch rd rs1 rs2 => some (mkFw rs2 rs1 0 rd 0x2B)
  | .qsave rd rs1 rs2 => some (mkFw rs2 rs1 1 rd 0x2B)
  | .qload rd rs1 rs2 => some (mkFw rs2 rs1 2 rd 0x2B)
  | .qbind rd rs1 rs2 => some (mkFw rs2 rs1 3 rd 0x2B)
  | .add _ _ _ _ => none
  | .sub _ _ _ _ => none
  | .mul _ _ _ _ => none
  | .mulh _ _ _ _ => none
  | .mulhu _ _ _ _ => none
  | .div _ _ _ _ => none
  | .divu _ _ _ _ => none
  | .rem _ _ _ _ => none
  | .remu _ _ _ _ => none
  | .andR _ _ _ _ => none
  | .orR _ _ _ _ => none
  | .xorR _ _ _ _ => none
  | .sll _ _ _ _ => none
  | .srl _ _ _ _ => none
  | .sra _ _ _ _ => none
  | .minR _ _ _ _ => none
  | .maxR _ _ _ _ => none
  | .minu _ _ _ _ => none
  | .maxu _ _ _ _ => none
  | .slt _ _ _ _ => none
  | .sltu _ _ _ _ => none
  | .addi _ _ _ _ => none
  | .andi _ _ _ _ => none
  | .ori _ _ _ _ => none
  | .xori _ _ _ _ => none
  | .slli _ _ _ _ => none
  | .srli _ _ _ _ => none
  | .srai _ _ _ _ => none
  | .slti _ _ _ _ => none
  | .li _ _ _ => none
  | .bfx _ _ _ _ _ _ => none
  | .bfi _ _ _ _ _ => none
  | .clz _ _ _ => none
  | .ctz _ _ _ => none
  | .popc _ _ _ => none
  | .cmp _ _ _ _ _ => none
  | .cmpi _ _ _ _ _ => none
  | .kop _ _ _ _ _ => none
  | .sel _ _ _ _ _ _ => none
  | .pbr _ _ _ => none
  | .pbrr _ _ _ => none
  | .br _ _ _ _ => none
  | .call _ _ _ _ => none
  | .loop _ _ _ _ => none
  | .endl _ _ _ _ => none
  | .mfs _ _ _ => none
  | .mts _ _ _ => none
  | .nop _ => none
  | .endSeq _ => none
  | .qdisc _ _ _ => none
  | .qstat _ _ _ => none
  | .evset _ _ _ => none
  | .evclr _ _ _ => none
  | .evwaitm _ _ _ _ => none
  | .bopush _ _ _ _ => none
  | .brq _ _ _ _ => none
  | .rinit _ _ _ => none
  | .racq _ _ _ => none
  | .rput _ _ => none
  | .rget _ _ _ => none
  | .rrel _ _ => none
  | .rstat _ _ _ => none
  | .wdog _ _ _ => none
  | .lds _ _ _ _ _ _ => none
  | .sts _ _ _ _ _ => none
  | .vldAddress _ _ _ _ _ => none
  | .vldGenerator _ _ _ _ => none
  | .vstAddress _ _ _ _ => none
  | .vstGenerator _ _ _ => none
  | .gset _ _ _ => none
  | .gpos _ _ _ => none
  | .genstat _ _ _ => none
  | .zzero _ _ _ => none
  | .zinfo _ _ _ => none
  | .ld _ _ _ _ _ _ => none
  | .st _ _ _ _ _ => none
  | .lda _ _ _ _ _ => none
  | .stl _ _ _ _ _ => none
  | .amo _ _ _ _ _ _ _ => none
  | .cas _ _ _ _ _ _ => none
  | .red _ _ _ _ _ _ => none
  | .fence _ _ _ => none
  | .scset _ _ _ _ => none
  | .scget _ _ _ _ => none
  | .cpush _ _ _ _ => none
  | .cpop _ _ _ => none
  | .cpeek _ _ _ => none
  | .cchain _ _ _ _ => none
  | .ckick _ _ _ _ => none
  | .cqstat _ _ _ => none
  | .cabort _ _ _ => none
  | .cvt _ _ _ _ _ _ _ => none
  | .cvtr _ _ _ _ _ => none
  | .qmx _ _ _ _ _ _ _ => none
  | .dqmx _ _ _ _ _ _ _ => none
  | .pack _ _ _ _ _ => none
  | .unpack _ _ _ _ _ _ => none
  | .ztag _ _ _ => none
  | .ztagr _ _ _ _ => none
  | .vfadd _ _ _ _ _ => none
  | .vfsub _ _ _ _ _ => none
  | .vfmul _ _ _ _ _ => none
  | .vfma _ _ _ _ _ => none
  | .vfms _ _ _ _ _ => none
  | .vfnma _ _ _ _ _ => none
  | .vfmin _ _ _ _ _ => none
  | .vfmax _ _ _ _ _ => none
  | .vfabs _ _ _ _ => none
  | .vfneg _ _ _ _ => none
  | .vfscale _ _ _ _ _ => none
  | .vfrcp _ _ _ _ => none
  | .vfrsq _ _ _ _ => none
  | .vfsqrt _ _ _ _ => none
  | .vfexp2 _ _ _ _ => none
  | .vflog2 _ _ _ _ => none
  | .vftanh _ _ _ _ => none
  | .vfsigm _ _ _ _ => none
  | .vfcmp _ _ _ _ _ _ => none
  | .vfred _ _ _ _ _ => none
  | .vfscan _ _ _ _ _ => none
  | .viadd _ _ _ _ _ => none
  | .visub _ _ _ _ _ => none
  | .vimul _ _ _ _ _ => none
  | .vimulh _ _ _ _ _ => none
  | .vimin _ _ _ _ _ => none
  | .vimax _ _ _ _ _ => none
  | .viand _ _ _ _ _ => none
  | .vior _ _ _ _ _ => none
  | .vixor _ _ _ _ _ => none
  | .vishl _ _ _ _ _ => none
  | .vishr _ _ _ _ _ => none
  | .vicmp _ _ _ _ _ _ => none
  | .vired _ _ _ _ _ => none
  | .viadds _ _ _ _ _ => none
  | .vsel _ _ _ _ _ => none
  | .vmov _ _ _ _ => none
  | .vbcastLine _ _ _ _ _ => none
  | .vbcastScalar _ _ _ _ _ => none
  | .vextIndex _ _ _ _ => none
  | .vextScalar _ _ _ _ => none
  | .vinsIndex _ _ _ _ => none
  | .vinsScalar _ _ _ _ => none
  | .vshuf _ _ _ _ _ => none
  | .vargmax _ _ _ _ => none
  | .vrng _ _ _ => none
  | .plopLogical _ _ _ _ _ => none
  | .plopFirst _ _ _ => none
  | .pcnt _ _ _ _ _ => none
  | .mshape _ _ => none
  | .mma _ _ _ _ _ _ => none
  | .mmas _ _ _ _ _ _ => none
  | .mmac _ _ _ _ _ _ => none
  | .mzero _ _ _ => none
  | .mplane _ _ _ _ _ _ => none
  | .mspack _ _ _ _ _ _ => none
  | .oqbind _ _ _ => none
  | .oqunbind _ => none
  | .mstat _ _ _ => none
  | .feedpop _ _ _ _ => none
  | .feedpush _ _ _ _ _ => none
  | .feedstat _ _ _ => none
  | .taskpush _ _ _ _ => none
  | .taskpop _ _ _ => none
  | .taskdone _ _ => none
  | .sleep _ _ _ _ => none
  | .fork _ _ _ _ => none
  | .garrive _ _ _ _ => none
  | .gwait _ _ _ _ => none
  | .gcancel _ _ _ => none
  | .grpstat _ _ _ => none
  | .pwracq _ _ _ _ => none
  | .pwrrel _ _ => none
  | .pwrq _ _ _ => none
  | .trap _ _ _ => none
  | .brk _ _ => none
  | .hcall _ _ _ _ => none
  | .tret _ => none
  | .budget _ _ _ _ => none
  | .discard _ _ _ _ => none
  | .ifence _ => none
  | .yield _ => none
  | .instructionRetire _ _ _ => none
  | .codeFetch _ _ _ _ => none
  | .waitTimeout _ _ _ => none
  | .trapEntry _ _ => none
  | .budgetExpiry _ _ => none
  | .generatorRefill _ _ _ => none
  | .scrubPass _ _ _ _ => none
  | .leaseExpiry _ _ => none
  | .timeRebase _ => none
  | .tableWalk _ _ _ _ => none
  | .pageMigrationSwitch _ _ _ => none
  | .lazyPageLoad _ _ => none
  | .copy _ _ _ _ _ => none
  | .gather _ _ _ _ _ => none
  | .scatter _ _ _ _ _ => none
  | .reduce _ _ _ _ _ => none
  | .fill _ _ _ _ _ => none
  | .chainFetch _ _ _ => none
  | .commandComplete _ _ _ _ => none
  | .engineTimeout _ _ _ _ => none
  | .matrixComplete _ _ _ _ => none
  | .jointOperationStart _ _ => none
  | .launch _ => none
  | .instanceBind _ _ => none
  | .instanceComplete _ _ => none
  | .launchCompletionPost _ => none
  | .dependenceMet _ => none
  | .taskPlace _ => none
  | .taskAgeingExpiry _ => none
  | .taskSteal _ _ _ => none
  | .groupTimeout _ => none
  | .groupComplete _ => none
  | .powerGrant _ _ => none
  | .loanReclaim _ => none
  | .loanRestore _ => none
  | .clockRequest _ _ => none
  | .clockSwitch _ => none
  | .voteWithdraw _ => none
  | .railHoldExpiry _ => none
  | .railMove _ _ => none
  | .stallSample _ _ _ _ => none
  | .pwrStallRead _ _ => none
  | .thermalSample _ => none
  | .throttleStep _ => none
  | .tripResume _ => none
  | .idleEntry => none
  | .idleExit => none
  | .wakeInputRise => none
  | .wakeInputFall => none
  | .supplyRemoval => none
  | .preemptRequest _ _ _ _ => none
  | .contextSave _ _ => none
  | .contextRestore _ => none
  | .xlateInv _ => none
  | .invalidationComplete => none
  | .kick _ _ => none
  | .ringConfigWrite _ _ _ _ _ => none
  | .ageTick => none
  | .completionEntryWrite _ => none
  | .eventRecordPost _ => none
  | .fwAnswerResume _ => none
  | .fwAnswerDiscard _ => none
  | .fwAnswerResult _ => none
  | .contractWrite _ _ _ _ _ => none
  | .wayChg _ => none
  | .partitionConfigWrite _ _ _ _ => none
  | .queueConfigWrite _ _ _ _ => none
  | .windowBoundary _ => none
  | .tileTimeExhausted _ => none
  | .partMovePairs _ _ _ => none
  | .partMoveSlices _ _ _ => none
  | .partMoveChannels _ _ _ => none
  | .partMoveLanes _ _ _ _ => none
  | .functionLevelReset _ => none
  | .vfReset _ => none
  | .guestReset _ _ => none
  | .memoryTempSample _ _ _ => none
  | .registerWrite _ _ _ _ => none
  | .windowRead _ _ _ => none
  | .windowWrite _ _ _ => none
  | .cqHeadWrite _ _ => none
  | .hostLinkDown => none
  | .peerWrite _ _ => none
  | .peerAtomic _ _ _ _ _ => none
  | .walzelLinkDown _ => none
  | .cameraFrame _ _ => none
  | .cameraPeriodEnd _ => none
  | .displayPeriodStart _ => none
  | .mboxGo => none
  | .getStatus _ => none
  | .lockAcquire _ => none
  | .lockRelease _ => none
  | .partMove _ _ => none
  | .streamSet _ _ _ => none
  | .powerSet _ _ _ => none
  | .powerState _ _ _ _ => none
  | .debugUnlock _ _ => none
  | .nonceExpiry => none
  | .debugAccess _ _ _ => none
  | .getVersion => none
  | .getCapabilities => none
  | .negotiateAlgorithms _ => none
  | .getDigests => none
  | .getCertificate _ => none
  | .challenge _ _ => none
  | .getMeasurements _ _ _ => none
  | .keyExchange _ _ => none
  | .finish _ => none
  | .endSession _ => none
  | .keyOnBoot => none
  | .walzelLinkUp _ _ => none
  | .hostLinkUp _ _ => none
  | .crcFailure _ => none
  | .peerRead _ _ => none
  | .railRampComplete _ => none

/-- The fields of a word in the custom-0 or custom-1 opcode (15 R380). -/
def decFwFields (w : BitVec 32) : Option Instr :=
  let rd := w.extractLsb' 7 5
  let rs1 := w.extractLsb' 15 5
  let rs2 := w.extractLsb' 20 5
  match (w.extractLsb' 0 7).toNat, (w.extractLsb' 12 3).toNat with
  | 0x0B, 0 => some (.rfetch rd rs1)
  | 0x0B, 1 => some (.bfext rd rs1 rs2)
  | 0x0B, 2 => some (.swait rd rs1 rs2)
  | 0x0B, 3 => some (.pclr rs1)
  | 0x2B, 0 => some (.dispatch rd rs1 rs2)
  | 0x2B, 1 => some (.qsave rd rs1 rs2)
  | 0x2B, 2 => some (.qload rd rs1 rs2)
  | 0x2B, 3 => some (.qbind rd rs1 rs2)
  | _, _ => none

/-- Is the word in the opcodes the extension takes (15 R380). -/
def isExtFw (w : BitVec 32) : Bool :=
  w.extractLsb' 0 7 = 0x0B || w.extractLsb' 0 7 = 0x2B

/-- The scheduler-core instruction of a word. `none` is the illegal-instruction exception for a
word of the two custom opcodes, and a word of the base set otherwise (15 R380). -/
def decodeFw (w : BitVec 32) : Option Instr :=
  match decFwFields w with
  | none => none
  | some i => if encodeFw i = some w then some i else none

/-- The decoder asked with a row's bits as one number: a 64-bit word followed by an extension word
of zeros or of the bits above bit 63, or a 32-bit word of a scheduler core. -/
def decodeTableWord (nbits w : Nat) : Option Instr :=
  if nbits ≤ 32 then decodeFw (BitVec.ofNat 32 w)
  else
    match decode (BitVec.ofNat 64 w) (BitVec.ofNat 64 (w / 2 ^ 64)) with
    | .ok i => some i
    | .error _ => none

end Sys2Proof
end

