-- ==== Sys2Proof/Machine/Fetch.lean ====
section
/-! DEFINITION. The code rings and the fetch unit (02 R45 to R47), and the word at the head of a
sequencer (02 R43, R46, 14 R368). -/
namespace Sys2Proof.Machine

/-- What the code ring of a sequencer holds of the word at an address. -/
inductive CodeWord where
  | missing
  | held (t : Trap)
  | word (w : Word)

/-- The word at an address, from the ring (R45). -/
def Seqr.code (q : Seqr) (a : VA) : CodeWord :=
  match q.ring.find (a.toNat / 128) with
  | none => .missing
  | some l =>
    match l.fault with
    | some t => .held t
    | none => match l.words[a.toNat / 8 % 16]? with
      | some w => .word w
      | none => .missing

/-- Lines that fetch reads: 64 from the head's line, and 64 from the line of each prepared target (R46).
DEDUCED, unsafe: log 26. -/
def Seqr.wants (q : Seqr) (line : Nat) : Bool :=
  let from_ (a : VA) : Bool := decide (a.toNat / 128 ≤ line) && decide (line < a.toNat / 128 + 64)
  from_ q.pc || (List.range 8).any (fun n => (q.breg n).prepared && from_ (q.breg n).target) ||
    (List.range 8).any fun n => (q.level n).active && from_ (q.level n).start

/-- A line placed in a ring of 64 lines; a full ring drops a line that is not the head's (R45).
DEDUCED, unsafe: log 26. -/
def Seqr.keepLine (q : Seqr) (line : Nat) (l : CodeLine) : Seqr :=
  let r := if q.ring.length < 64 then q.ring else
    match q.ring.find? fun e => e.1 ≠ q.pc.toNat / 128 with
    | some e => q.ring.del e.1
    | none => q.ring
  { q with ring := r.ins line l }

/-- The words of a line of device memory. -/
def Dram.codeLine (d : Dram) (pa : Nat) : List Word :=
  (List.range 16).map fun i => BitVec.ofNat 64 (d.bytes.num (pa / 128 * 128 + 8 * i) 8)

/-- A context that may issue: bound, running, and not stopping. -/
def Ctx.running (c : Ctx) : Bool := c.bound && c.stop.isNone && !c.halted

/-- CODE_FETCH (R45, R46): a 128-byte line read at its home, with execute permission in both stages; a
fault is held with the line, and a page not loaded yet is read later. The walk's reads take the sequencer's program time with them (14 R364), and the
read of the line itself takes none. -/
def execCodeFetch (core slot : Nat) (y : Sq) (line : Nat) (s : State) : Out :=
  let c := s.ctx core slot
  let q := c.seq.get y
  if !c.bound || !q.wants line || (q.ring.find line).isSome then .next s else
  let put (s : State) (l : CodeLine) : Out :=
    let c := s.ctx core slot
    .next (s.setCtx core slot (c.setSeq y ((c.seq.get y).keepLine line l)))
  let timed (s : State) (t : Nat) : State :=
    let c := s.ctx core slot
    s.setCtx core slot (c.setSeq y ((c.seq.get y).receive ⟨t, []⟩))
  match s.translate ⟨c.guest, core, q.pts⟩ (line * 128) .exec with
  | (s', t, .fault x) => put (timed s' t) ⟨[], some { Trap.plain .fetchFault with x := some x }⟩
  | (s', t, .lazy _) => .next (timed s' t)
  | (s', t, .ok pa kind) =>
    let s' := timed s' t
    if kind ≠ 0 then put s' ⟨[], some { Trap.plain .fetchFault with x := some ⟨true, 7, .exec, 1⟩ }⟩
    else if !fitted pa then .fault .noDeviceMemory
    else if s'.dram.badIn (pa / 128 * 128) 128 then put s' ⟨[], some (Trap.plain .eccUncorr)⟩
    else put s' ⟨s'.dram.codeLine pa, none⟩

/-! ### The head of a sequencer -/

/-- What the head comes to: an instruction to run, or a state in which the sequencer has waited or
trapped. -/
inductive Head where
  | run (i : Instr)
  | done (s : State)

/-- A sequencer issues: its context runs, it has not ended, in handler mode only C does (14 R344), and no
BUDGET trap is due (14 R352). -/
def Ctx.issues (c : Ctx) (y : Sq) : Bool :=
  c.running && !(c.seq.get y).ended && (!c.handler || y == .c) && (!c.budgetHeld || c.handler)

/-- A pre-emption stopped the context in this core cycle, in which a trap still goes first (14 R341). -/
def Ctx.stopsLate (c : Ctx) (cycle : Nat) : Bool :=
  match c.stop, c.late with
  | some (.preempt _), some (_, n) => n == cycle
  | _, _ => false

/-- A sequencer may issue in a core cycle: its context issues, or a pre-emption has stopped it in this very cycle, or its
OQBIND's members have met (11 R273), and no sequencer after it in the order C, L, X, S has acted in the cycle (14 R341). -/
def Ctx.issuesIn (c : Ctx) (y : Sq) (cycle : Nat) : Bool :=
  c.mayAct y cycle && (c.issues y ||
    ((c.stopsLate cycle || (y == .x && c.met)) && ({ c with stop := none } : Ctx).issues y))

/-- A fetch fault reported at the head (R46, R368); the line is fetched again afterwards. -/
def State.fetchTrap (s : State) (t : Trap) (a : VA) (straddle : Bool) : State :=
  let q := s.sq
  (s.setSq { q with ring := q.ring.del (a.toNat / 128) }).takeTrap
    { t with addr := if t.x.isSome then a.setWidth 64 else 0, straddle := straddle }

/-- The trap of a word that is no instruction (Table 2.18, R44): ILLEGAL_SEQ before ILLEGAL_ENC. -/
def decTrap (e : DecErr) (w : Word) (y : Sq) : Trap :=
  match e with
  | .opc => Trap.plain .illegalOpc
  | .enc => Trap.plain (if permitted (opcOf w) y then .illegalEnc else .illegalSeq)

/-- The head of the executing sequencer. -/
def State.head (s : State) : Head :=
  if !s.clocksRun || !s.me.issuesIn s.who.y (s.core s.who.core).cycle then .done s else
  let q := s.sq
  match q.code q.pc with
  | .missing => .done s
  | .held t => .done (s.fetchTrap t q.pc false)
  | .word w =>
    let run (ext : Word) : Head :=
      match decode w ext with
      | .ok i => .run i
      | .error e => .done (s.takeTrap (decTrap e w s.who.y))
    if isLong w then
      match q.code (q.pc + 8) with
      | .missing => .done s
      | .held t => .done (s.fetchTrap t (q.pc + 8) true)
      | .word ext => run ext
    else run 0

/-- A trap has stopped a context, or its handler has been entered (14 R339). -/
def Ctx.trapped (before after : Ctx) : Bool :=
  (after.handler && !before.handler) || match after.stop with
    | some (.trap _ _) => true
    | some (.preempt _) | some (.hcall _ _ _) | none => false

/-- What a word at the head leaves: its sequencer has acted in the core cycle where the word issued or trapped; of a context
that a pre-emption stopped in this very cycle only a trap still comes (14 R341). -/
def State.settled (s t : State) : State :=
  let n := (s.core s.who.core).cycle
  let traps := s.me.trapped t.me
  let issues := decide (s.sq.inflight.length < t.sq.inflight.length)
  if s.me.stopsLate n && !traps && !(s.who.y == .x && s.me.met) then s
  else if traps || issues then t.setMe (t.me.acts s.who.y n)
  else t

end Sys2Proof.Machine
end

