-- ==== Sys2Proof/Machine/Time.lean ====
section
/-! DEFINITION. What the passing of time does to clocks, rails, groups, charges and buckets, and who executes. -/
namespace Sys2Proof.Machine

/-! ### Microseconds and cycles -/

/-- Core cycles of a cluster in some microseconds (13 R333). -/
def State.cyclesOf (s : State) (core us : Nat) : Nat :=
  if s.clocksRun then us * (600 + 25 * (s.cluster (clusterOf core)).fNow) else 0

/-- A context asleep (12 R292): C in a feed wait, each other sequencer ended or in a coupling wait. -/
def Ctx.asleep (c : Ctx) : Bool :=
  c.tasks.feedWait.isSome &&
    [c.seq.l, c.seq.x, c.seq.s].all fun q => q.done || q.waiting.isSome

/-- BUDGET.LEFT over some cycles (14 R352); from 1 to 0 the BUDGET trap is due. -/
def Ctx.spend (c : Ctx) (n : Nat) : Ctx :=
  if c.budget = 0 || c.asleep || c.handler || n = 0 then c
  else { c with budget := c.budget - n, budgetHeld := c.budgetHeld || decide (c.budget ≤ n) }

/-- The highest vote on a rail (13 R331). -/
def State.railTarget (s : State) (r : Nat) : Nat :=
  (List.range 8).foldl (fun a n => if (s.cluster n).rail = r then max a (s.cluster n).vote else a) (s.rail r).vote

/-- A rail after some microseconds: it ramps by 10 mV each, downwards only after its hold (13 R331). -/
def State.ramp (s : State) (us r : Nat) : State :=
  let x := s.rail r
  let t := s.railTarget r
  if s.power.state != .active then s
  else if s.power.trip.tripped then s.setRail r { x with v := 0, hold := none }
  else if x.v < t then s.setRail r { x with v := min t (x.v + 2 * us) }
  else if t < x.v && x.hold.isNone then s.setRail r { x with v := max t (x.v - 2 * us) }
  else s

/-- A pending sibling of a group that a saved context holds (12 R313). -/
def State.heldBySaved (s : State) (pa : Nat) : Bool :=
  s.saved.any fun e => e.2.img.tasks.siblings.any fun h =>
    h.1 == pa && s.dram.bytes.num (pa + 640 + 4 * h.2) 4 % 16 == 8

/-- A sibling of a group is pending (12 R313, R314). -/
def State.pendingIn (s : State) (pa : Nat) : Bool :=
  (List.range (min 64 (s.dram.bytes.num pa 1 % 128))).any fun i => s.dram.bytes.num (pa + 640 + 4 * i) 4 % 4 == 0

/-- The clock of an open group goes on (12 R313): while a sibling is pending (18 R408), in wall mode always, and in active
mode while the guest's window is open and its partition is powered, no trip stands (13 R336), and no saved context holds a
pending sibling. -/
def State.groupGoes (s : State) (pa : Nat) : Bool :=
  let m := s.dram.bytes
  let g := m.num (pa + 32) 1
  s.pendingIn pa && (m.num pa 8 / 2 ^ 8 % 2 == 1 ||
    (s.admitted g && !(s.part (s.partOf g)).off && !s.power.trip.tripped && !s.heldBySaved pa))

/-- The clock of an open group over some microseconds, up to its timeout (12 R313): a bank-unit update of each µs, as a
write of T (07 R147), which a locked page holds (07 R153). -/
def State.groupClock (s : State) (us pa : Nat) : State :=
  let held := s.groups.get 0 pa
  let us := held + if s.groupGoes pa then us else 0
  if us = 0 then s
  else if s.locked pa then { s with groups := s.groups.ins pa us }
  else
    let m := s.dram.bytes
    let limit := m.num (pa + 24) 4
    let n := min (if limit = 0 then 2 ^ 32 - 1 else limit) (m.num (pa + 28) 4 + us)
    let h := s.home (s.partOf (m.num (pa + 32) 1)) pa
    let d := (h.write ((h.line pa).rts + us) (pa + 28) (leBytes 4 n) [] false).1
    { s with dram := d, groups := s.groups.ins pa 0 }

/-- Tile time charged to guests over some microseconds (15 R395). -/
def State.chargeTiles (s : State) (us : Nat) : State :=
  s.ctxs.foldl (fun s e =>
    if e.2.bound then
      let g := s.guest e.2.guest
      s.setGuest e.2.guest { g with charge := g.charge + (if e.2.borrow then 2 else 1) * us }
    else s) s

/-- A free number up to a bound. -/
def freeBelow (free n : Nat) : Nat := Config.freeNat free % (n + 1)

/-- A bucket after some microseconds (15 R396): it gains its rate, and its owner's traffic takes tokens, which are a free
number: how many accesses go over a pooled lane, or reach the memory controller, the program does not show.
DESIGN CHOICE, safe: log 65. -/
def Bucket.gain (us free : Nat) (b : Bucket) : Bucket :=
  if b.valid then { b with level := freeBelow free (min b.depth (b.level + b.rate * us)) } else b

/-- No context is bound and no wall-time group clock runs: what IDLE asks for, beside streams and scheduler cores
(13 Table 13.9). -/
def State.quietNow (s : State) : Bool :=
  (s.ctxs.all fun e => !e.2.bound) && s.groups.all fun e => s.dram.bytes.num e.1 8 / 2 ^ 8 % 2 != 1

/-- IDLE ends: the rails stand at their highest votes again, and the compute clocks run (13 Table 13.9). -/
def State.wake (s : State) : State :=
  if s.power.state = .idle then
    let s := (List.range 4).foldl (fun s r => s.setRail r { s.rail r with v := s.railTarget r }) s
    { s with power := { s.power with state := .active, quietSince := s.time } }
  else s

/-- Something that keeps the part from IDLE, or ends it. -/
def State.stirred (s : State) : State :=
  let s := s.wake
  { s with power := { s.power with quietSince := s.time } }

/-! ### Who executes -/

/-- The state with an executing sequencer. -/
def State.asWho (s : State) (w : Who) : State := { s with who := w }

/-- The state with an executing scheduler core. -/
def State.asFw (s : State) (core : Nat) : State := { s with fw := core }

/-- A row of the table that is no word of a compute core or scheduler core. DESIGN CHOICE, safe: log 2. -/
def isEvent (i : Instr) : Bool := (encode i).isNone && (encodeFw i).isNone

end Sys2Proof.Machine
end

