-- ==== Sys2Proof/Machine/Power.lean ====
section
/-! DEFINITION. Power levels: units and requests, PWRREL and PWRQ (13 R320 to R330), and the readable registers of
a cluster (Tables 13.6 and 13.7). PWRACQ, grants and loans are in Machine/Grants.lean. -/
namespace Sys2Proof.Machine

/-! ### Units (R322, R323, R325) -/

/-- What a partition may lend anew: nothing while a loan is reduced, since free units restore it first (R325).
DEDUCED, unsafe: log 53. -/
def State.lendable (s : State) (p : Nat) : Nat :=
  if s.power.loans.any fun l => decide (l.left < l.units) then 0 else s.freeUnits p

/-- How an extra would be taken for a partition: its own units, then loans in ascending partition number; none
where it cannot be granted whole (R323). DEDUCED, unsafe: log 53. -/
def State.plan (s : State) (p extra : Nat) : Option (Nat × List (Nat × Nat)) :=
  let own := min extra (s.freeUnits p)
  let r := (List.range 8).foldl (fun (a : Nat × List (Nat × Nat)) q =>
    let n := min a.1 (s.lendable q)
    if q = p ∨ n = 0 then a else (a.1 - n, a.2 ++ [(q, n)])) (extra - own, [])
  if r.1 = 0 then some (own, r.2) else none

/-- The units of a plan taken for a context. -/
def State.take (s : State) (key : Nat) (plan : Nat × List (Nat × Nat)) : State :=
  let c := s.ctx (key / 4) (key % 4)
  let s := s.setCtx (key / 4) (key % 4) { c with power := { c.power with own := c.power.own + plan.1 } }
  { s with power := { s.power with loans := s.power.loans ++ plan.2.map fun e => ⟨e.1, key, e.2, e.2⟩ } }

/-- The extra that raising a context of a core to a level needs (R323, R327). -/
def State.extraFor (s : State) (core slot level : Nat) : Nat :=
  s.chargeAt core (max level (s.lmaxBut core slot)) - s.chargeAt core (s.lmax core)

/-- Units that a context holds: its own and those on loan. -/
def State.unitsOf (s : State) (key : Nat) : Nat :=
  (s.ctx (key / 4) (key % 4)).power.own + s.loanOf key

/-- Units given up by a context: loaned ones first, the youngest loan first, then its own. -/
def State.giveUp (s : State) (key n : Nat) : State :=
  let r := s.power.loans.reverse.foldl (fun (a : Nat × List Loan) l =>
    if l.key = key then
      let k := min a.1 l.left
      (a.1 - k, if l.left = k then a.2 else { l with units := l.units - k, left := l.left - k } :: a.2)
    else (a.1, l :: a.2)) (n, [])
  let s := { s with power := { s.power with loans := r.2 } }
  let c := s.ctx (key / 4) (key % 4)
  s.setCtx (key / 4) (key % 4) { c with power := { c.power with own := c.power.own - r.1 } }

/-- Revoked units that some contexts still wait for, beyond what they need, are asked for no more. -/
def State.forgo (s : State) (keys : List Nat) (n : Nat) : State :=
  let r := s.power.loans.reverse.foldl (fun (a : Nat × List Loan) l =>
    if keys.contains l.key then
      let k := min a.1 (l.units - l.left)
      (a.1 - k, { l with units := l.units - k } :: a.2)
    else (a.1, l :: a.2)) (n, [])
  { s with power := { s.power with loans := r.2 } }

/-- The level that a context holds or has been granted: G changes only at the retire of its PWRACQ (R327). -/
def Ctx.pledged (c : Ctx) : Nat :=
  let given := c.power.waits.foldl (fun a e => if c.power.given = some e.1 then max a e.2 else a) c.power.g
  Sq.order.foldl (fun a y => (c.seq.get y).inflight.foldl (fun a p => p.effects.foldl (fun a e =>
    match e with
    | .power _ l => max a l
    | _ => a) a) a) given

/-- What a core's Lmax no longer needs is freed, from the given context first (R328). -/
def State.settle (s : State) (core first : Nat) : State :=
  let top := (s.onCore core).foldl (fun a e => max a e.2.pledged) 4
  let need := s.chargeAt core top - s.chargeAt core 4
  let keys := first :: ((s.onCore core).map fun e => core * 4 + e.1).filter (· != first)
  let total (s : State) : Nat := keys.foldl (fun a k => a + s.unitsOf k) 0
  let s := keys.foldl (fun s k => s.giveUp k (min (s.unitsOf k) (total s - need))) s
  let asked := s.power.loans.foldl (fun a l => if keys.contains l.key then a + (l.units - l.left) else a) 0
  s.forgo keys (total s + asked - need)

/-- A context leaves its core (R330): what the others still need passes to the one with the greatest G, the rest
is freed, and its requests go. -/
def State.freeGrant (s : State) (core slot : Nat) : State :=
  let key := core * 4 + slot
  let c := s.ctx core slot
  let s := s.setCtx core slot { c with power := { c.power with g := 4, a := 4, waits := [], given := none } }
  let s := s.settle core key
  let rest := (s.onCore core).filter fun e => e.1 != slot
  let best := rest.find? fun e => rest.all fun x => decide (x.2.power.g ≤ e.2.power.g)
  let s := match best with
    | none => s
    | some e =>
      let t := s.ctx core e.1
      let s := s.setCtx core e.1 { t with power := { t.power with own := t.power.own + (s.ctx core slot).power.own } }
      let moved (l : Loan) : Loan := if l.key = key then { l with key := core * 4 + e.1 } else l
      { s with power := { s.power with loans := s.power.loans.map moved } }
  let s := s.setCtx core slot { s.ctx core slot with power := CtxPower.empty }
  { s with power := { s.power with
      loans := s.power.loans.filter fun l => l.key != key
      reqs := s.power.reqs.filter fun
        | .ctx k _ => k != key
        | .image _ _ => true
        | .saved _ => true } }

/-- The highest level whose extra the units of a context cover, never below 4 (R325). -/
def State.covered (s : State) (core slot : Nat) : Nat :=
  let c := s.ctx core slot
  let others := s.lmaxBut core slot
  let units := s.unitsOf (core * 4 + slot)
  (List.range (c.power.g + 1)).foldl (fun a l =>
    if s.chargeAt core (max l others) - s.chargeAt core others ≤ units then max a l else a) 4

/-- A context's effective level follows its units: G where its loans are whole (R324, R325). -/
def State.adjust (s : State) (key : Nat) : State :=
  let c := s.ctx (key / 4) (key % 4)
  let whole := s.power.loans.all fun l => l.key != key || l.left == l.units
  let a := if whole then c.power.g else min c.power.g (s.covered (key / 4) (key % 4))
  s.setCtx (key / 4) (key % 4) { c with power := { c.power with a := a } }

/-! ### PWRACQ (R327) -/

/-- A request of the executing sequencer joins those that wait; one that waits already keeps its place. -/
def State.request (s : State) (level : Nat) : State :=
  let key := s.who.core * 4 + s.who.slot
  let y := s.who.y
  let c := s.me
  let w := c.power.waits.filter fun e => e.1 != y
  let s := s.setMe { c with power := { c.power with waits := w ++ [(y, level)] } }
  if s.power.reqs.contains (.ctx key y) && c.power.waits.any fun e => e.1 == y then s
  else { s with power := { s.power with reqs := (s.power.reqs.filter fun e => e != .ctx key y) ++ [.ctx key y] } }

/-! ### PWRREL (R328) -/

/-- PWRREL: G and A take the new level at issue; the units are freed at its retire (INSTRUCTION_RETIRE). -/
def execPwrrel (cm : Common) (level : BitVec 4) (s : State) : Out :=
  issue { opc := 0xD1, cm := cm, wf := (Instr.pwrrel cm level).wellFormed, reads := [.sr 6], writes := [.sr 6] }
    (fun s _ _ =>
      let c := s.me
      let n := max level.toNat 4
      if c.power.g ≤ n then .ok { s := s }
      else .ok { s := s.setMe { c with power := { c.power with g := n, a := n } }, gate := .lower n }) s

/-! ### Registers that PWRQ and firmware read -/

/-- PWR.CLK (Table 13.6). -/
def State.clkWord (s : State) (n : Nat) : Word :=
  let c := s.cluster n
  BitVec.ofNat 64 (c.fReq % 2 ^ 7 + c.vReq % 2 ^ 7 * 2 ^ 8 + c.fNow % 2 ^ 7 * 2 ^ 16 + (s.rail c.rail).v % 2 ^ 8 * 2 ^ 23 +
    c.rail % 4 * 2 ^ 31 + c.status % 8 * 2 ^ 33)

/-- The context word (Table 13.4). -/
def State.powerWord (s : State) (core slot : Nat) : Word :=
  let c := s.ctx core slot
  let stalled := decide (c.power.a < c.power.g) && Sq.order.any fun y => (c.seq.get y).stalled
  BitVec.ofNat 64 (c.power.g + c.power.a * 2 ^ 4 + bitNum (c.power.waits.any fun e => decide (c.power.g < e.2)) * 2 ^ 8 + bitNum stalled * 2 ^ 9 +
    c.power.own % 2 ^ 8 * 2 ^ 16 + s.loanOf (core * 4 + slot) % 2 ^ 8 * 2 ^ 24)

/-- Units that a partition has borrowed. -/
def State.borrowed (s : State) (p : Nat) : Nat :=
  s.power.loans.foldl (fun a l => if (s.ctx (l.key / 4) (l.key % 4)).part = p then a + l.left else a) 0

/-- The partition word (Table 13.5). -/
def State.partWord (s : State) (p : Nat) : Word :=
  BitVec.ofNat 64 (s.share p % 2 ^ 9 + s.base p % 2 ^ 9 * 2 ^ 9 + s.freeUnits p % 2 ^ 9 * 2 ^ 18 +
    s.lent p % 2 ^ 9 * 2 ^ 27 + s.borrowed p % 2 ^ 9 * 2 ^ 36)

/-- PWRQ (R329). DEDUCED, unsafe: log 92. -/
def execPwrq (cm : Common) (d : Spec) (item : BitVec 2) (s : State) : Out :=
  issue { opc := 0xD2, cm := cm, wf := (Instr.pwrq cm d item).wellFormed, dst := some d, reads := [.sr 6] }
    (fun s _ _ =>
      let v := if item = 0 then s.powerWord s.who.core s.who.slot
        else if item = 1 then s.partWord s.me.part
        else s.clkWord (clusterOf s.who.core)
      .ok { s := s, eff := Spec.write s.who.y d v }) s

end Sys2Proof.Machine
end

