-- ==== Sys2Proof/Machine/Clocks.lean ====
section
/-! DEFINITION. Clocks, rails, stall samples and temperature (13 R331 to R337). -/
namespace Sys2Proof.Machine

/-! ### Rails (R331) -/

/-- A rail holds its voltage when its highest vote has fallen; a later fall restarts the hold (R331, R414). -/
def State.afterVotes (s : State) (rail before : Nat) : State :=
  if s.railTarget rail < before then s.setRail rail { s.rail rail with hold := some (s.time + 100) } else s

/-- Clusters on a rail charged at its highest vote, where that is higher (R332). -/
def State.chargeUp (s : State) (rail : Nat) : State :=
  (List.range 8).foldl (fun s n =>
    let c := s.cluster n
    if c.rail = rail then s.setCluster n { c with chargeV := max c.chargeV (s.railTarget rail) } else s) s

/-- Charges once a rail stands at its highest vote: a cluster that waits for a withdrawal keeps the higher ones
(R332, R414). -/
def State.chargeDown (s : State) (rail : Nat) : State :=
  if (s.rail rail).v ≠ s.railTarget rail then s else
  (List.range 8).foldl (fun s n =>
    let c := s.cluster n
    if c.rail = rail ∧ c.withdraw = none then
      let f := match c.req with | some r => max c.fNow r.f | none => c.fNow
      s.setCluster n { c with chargeV := (s.rail rail).v, chargeF := f }
    else s) s

/-- RAIL_HOLD_EXPIRY: the hold is over, and the rail ramps down as time passes (Time.lean). -/
def execRailHoldExpiry (rail : Nat) (s : State) : Out :=
  match (s.rail rail).hold with
  | some t => .next (if t ≤ s.time then s.setRail rail { s.rail rail with hold := none } else s)
  | none => .next s

/-- RAIL_RAMP_COMPLETE (R414). -/
def execRailRampComplete (rail : Nat) (s : State) : Out := .next (s.chargeDown rail)

/-- The cores of a cluster. -/
def coresOf (n : Nat) : List Nat := (List.range 64).filter fun c => clusterOf c == n

/-- RAIL_MOVE: a write of go to PWR.RAIL (Table 13.6a). -/
def execRailMove (cluster : Nat) (v : Word) (s : State) : Out :=
  if 8 ≤ cluster then .next s else
  let c := s.cluster cluster
  let r := (v.extractLsb' 0 2).toNat
  let empty := (coresOf cluster).all fun n => (s.onCore n).isEmpty
  if !empty || decide ((s.rail r).v < Config.vfloor cluster c.fNow) then
    .next (s.setCluster cluster { c with railReq := r, railStatus := 1 })
  else
    let before := s.railTarget c.rail
    let s := s.setCluster cluster { c with rail := r, railReq := r, railStatus := 0, chargeV := (s.rail r).v }
    .next ((if r = c.rail then s else s.afterVotes c.rail before).chargeUp r)

/-! ### Clock requests (R332, R333) -/

/-- Partitions with a core in a cluster. -/
def State.partsIn (s : State) (cluster : Nat) : List Nat :=
  (List.range 8).filter fun p => (coresOf cluster).any fun c => (s.part p).cores.getLsbD c

/-- A request accepted: its vote placed, an earlier withdrawal cancelled, and the higher charges (R332, R414).
DEDUCED, unsafe: log 54. -/
def State.acceptClock (s : State) (cluster f v : Nat) : State :=
  let c := s.cluster cluster
  let v := min v (Config.railClamp c.rail)
  (s.setCluster cluster { c with
    status := 1, vote := max c.vote v, req := some ⟨f, v, c.vote⟩, withdraw := none, lastReq := f
    chargeF := max c.chargeF f, chargeV := max c.chargeV v }).chargeUp c.rail

/-- A clock request judged in the order of R333. A denied one changes only the register's fields, and Vesper is
told. DEDUCED, unsafe: log 54. -/
def State.requestClock (s : State) (cluster f v : Nat) : State :=
  let c := s.cluster cluster
  let s := s.setCluster cluster { c with fReq := f, vReq := v }
  let deny (k : Nat) : State := (s.setCluster cluster { s.cluster cluster with status := k }).notice (.clock cluster k)
  if 56 < f ∨ 70 < v then deny 4
  else if v < Config.vfloor cluster f then deny 2
  else if ((s.partsIn cluster).any fun p =>
      decide ((s.acceptClock cluster f v).share p < (s.acceptClock cluster f v).base p)) = true then deny 3
  else if c.req.isSome then deny 1
  else s.acceptClock cluster f v

/-- CLOCK_REQUEST: a write of go to PWR.CLK (Table 13.6). -/
def execClockRequest (cluster : Nat) (v : Word) (s : State) : Out :=
  .next (if 8 ≤ cluster then s else s.requestClock cluster (v.extractLsb' 0 7).toNat (v.extractLsb' 8 7).toNat)

/-- CLOCK_SWITCH (R332): raising waits for the rail to reach the vote, and no cluster runs at a frequency whose floor its
rail does not reach. -/
def execClockSwitch (cluster : Nat) (s : State) : Out :=
  let c := s.cluster cluster
  match c.req with
  | none => .next s
  | some r =>
    if s.power.trip.tripped || (decide (c.fNow < r.f) && decide ((s.rail c.rail).v < r.v)) ||
        decide ((s.rail c.rail).v < Config.vfloor cluster r.f) then .next s
    else
      let wait := if r.v < r.oldVote then some (r.v, s.time + 100) else none
      .next ((s.setCluster cluster { c with fNow := r.f, status := 0, req := none, withdraw := wait }).chargeDown c.rail)

/-- VOTE_WITHDRAW (R332): 100 µs after the switch. -/
def execVoteWithdraw (cluster : Nat) (s : State) : Out :=
  let c := s.cluster cluster
  match c.withdraw with
  | none => .next s
  | some (v, due) =>
    if s.time < due then .next s
    else
      let before := s.railTarget c.rail
      let s := s.setCluster cluster { c with vote := v, withdraw := none }
      .next ((s.afterVotes c.rail before).chargeDown c.rail)

/-! ### Samples (R334, R335) -/

/-- A periodic event is due once in each period of so many microseconds. DEDUCED, unsafe: log 55. -/
def State.due (s : State) (key period : Nat) : Bool := decide (s.ticks.get 0 key < s.time / period)

/-- The period's event has taken place. DEDUCED, unsafe: log 55. -/
def State.ticked (s : State) (key period : Nat) : State := { s with ticks := s.ticks.put 0 key (s.time / period) }

/-- The governor's decision after a sample (R335); none where it requests nothing. -/
def Cluster.govern (c : Cluster) (active mem : Nat) : Option Nat :=
  let g (lo n : Nat) : Nat := (c.gov.extractLsb' lo n).toNat
  if !c.gov.getLsbD 0 || active == 0 || c.req.isSome then none
  else if g 5 8 * active ≤ mem * 256 ∧ g 28 7 < c.fNow then some (max (c.fNow - g 1 4) (g 28 7))
  else if mem * 256 ≤ g 13 8 * active ∧ c.fNow < g 35 7 then some (min (c.fNow + g 1 4) (g 35 7))
  else none

/-- STALL_SAMPLE: the counters of the last 10 µs are copied to PWR.STALL and cleared (R334); then the governor decides.
`mem` counts the cycles in which arbitration at the data ports, which is timing, kept every awake sequencer waiting.
DESIGN CHOICE, safe: log 5. -/
def execStallSample (cluster : Nat) (_active : Unit) (mem : Nat) (_pwr : Unit) (s : State) : Out :=
  if 8 ≤ cluster ∨ s.due (2 + cluster) 10 = false then .next s else
  let s := s.ticked (2 + cluster) 10
  let c := s.cluster cluster
  let cap (n : Nat) : Nat := min n (2 ^ 20 - 1)
  let waits := min c.nActive (c.nMem + mem)
  let w := BitVec.ofNat 64 (cap c.nActive + cap waits * 2 ^ 20 + cap c.nPwr * 2 ^ 40 + 2 ^ 63)
  let s := s.setCluster cluster { c with stall := w, nActive := 0, nMem := 0, nPwr := 0 }
  match c.govern (cap c.nActive) (cap waits) with
  | some f => .next (s.requestClock cluster f (Config.vfloor cluster f + (c.gov.extractLsb' 21 7).toNat))
  | none => .next s

/-- PWR_STALL_READ: a read of the upper half, or of the whole register, clears fresh (R334, 00 R445).
DEDUCED, unsafe: log 85. -/
def execPwrStallRead (cluster half : Nat) (s : State) : Out :=
  let c := s.cluster cluster
  .next (if 8 ≤ cluster ∨ half = 0 then s else s.setCluster cluster { c with stall := c.stall &&& ~~~(1#64 <<< 63) })

/-! ### Temperature (R336, R337) -/

/-- The trip: every rail at 0.55 V, and the compute clocks stopped; Vesper and each partition with cores are told.
DEDUCED, unsafe: log 56. -/
def State.trip (s : State) (cluster : Nat) : State :=
  let t := s.power.trip
  let s := { s with power := { s.power with trip := { t with
    tripped := true, cluster := cluster, count := min (t.count + 1) (2 ^ 32 - 1) } } }
  let s := ((List.range 4).foldl (fun s r => s.setRail r { s.rail r with v := 0, hold := none }) s).notice (.trip cluster)
  (List.range 8).foldl (fun s p => if (s.part p).pairs = 0 then s else s.noticePart p (.trip cluster)) s

/-- A cluster's junction sensor read; a throttle that begins is posted to Vesper and to each partition in the cluster. -/
def State.readSensor (s : State) (n t : Nat) : State :=
  let c := s.cluster n
  let s := s.setCluster n { c with temp := t, throttled := c.throttled || decide (105 ≤ t) }
  let s := if 105 ≤ t ∧ c.throttled = false then
      (s.partsIn n).foldl (fun s p => s.noticePart p (.throttle n)) (s.notice (.throttle n)) else s
  { s with power := { s.power with trip := { s.power.trip with peak := max s.power.trip.peak (min t 255) } } }

/-- THERMAL_SAMPLE: the sensors of clusters 0 to 7, every 10 µs. DEDUCED, unsafe: log 56. -/
def execThermalSample (temps : List Nat) (s : State) : Out :=
  if temps.length ≠ 8 ∨ s.due 1 10 = false then .next s else
  let s := (List.range 8).foldl (fun s n => s.readSensor n (temps.getD n 0)) (s.ticked 1 10)
  match (List.range 8).find? fun n => decide (115 ≤ temps.getD n 0) with
  | some n => .next (if s.power.trip.tripped then s else s.trip n)
  | none => .next s

/-- The partitions of a cluster keep their bases within their shares at another charge frequency of it (01 R22, R333). -/
def State.clockFits (s : State) (cluster f : Nat) : Bool :=
  let z := s.setCluster cluster { s.cluster cluster with chargeF := f }
  (s.partsIn cluster).all fun p => decide (z.base p ≤ z.share p)

/-- THROTTLE_STEP: 100 MHz down at 105 °C or more, or back up below 100 °C, every 100 µs, within the budget (01 R22).
DEDUCED, unsafe: log 56. -/
def execThrottleStep (cluster : Nat) (s : State) : Out :=
  if 8 ≤ cluster ∨ s.due (16 + cluster) 100 = false ∨ s.power.trip.tripped = true then .next s else
  let s := s.ticked (16 + cluster) 100
  let c := s.cluster cluster
  let charged (f : Nat) : Nat := match c.req with | some r => max f r.f | none => f
  let up := min (c.fNow + 4) c.lastReq
  if !c.throttled then .next s
  else if 105 ≤ c.temp then .next (s.setCluster cluster { c with fNow := c.fNow - 4, chargeF := charged (c.fNow - 4) })
  else if c.temp < 100 ∧ c.fNow < c.lastReq ∧ Config.vfloor cluster up ≤ (s.rail c.rail).v ∧
      s.clockFits cluster (charged up) = true then
    .next (s.setCluster cluster { c with fNow := up, chargeF := charged up, throttled := decide (up < c.lastReq) })
  else .next (s.setCluster cluster { c with throttled := decide (100 ≤ c.temp ∨ c.fNow < c.lastReq) })

/-- TRIP_RESUME: only Vesper's write acts, and only while every sensor reads below 100 °C. -/
def execTripResume (by_ : Writer) (s : State) : Out :=
  let cool := (List.range 8).all fun n => decide ((s.cluster n).temp < 100)
  if by_ ≠ .vesper ∨ s.power.trip.tripped = false ∨ cool = false then .next s
  else
    let s := (List.range 8).foldl (fun s n =>
      let c := s.cluster n
      s.setCluster n { c with fNow := 0, chargeF := match c.req with | some r => r.f | none => 0 }) s
    .next { s with power := { s.power with trip := { s.power.trip with tripped := false, peak := 0 } } }

end Sys2Proof.Machine
end

