-- ==== Sys2Proof/Machine/Scalar.lean ====
section
/-! DEFINITION. Scalar, branch and loop instructions (04). -/
namespace Sys2Proof.Machine

/-! ### Results of Table 4.7 -/

/-- Signed division truncated towards zero, with the results of Table 4.7 for its corners. -/
def divRes (x y : Word) : Word :=
  if y = 0 then BitVec.allOnes 64
  else if x = BitVec.intMin 64 ∧ y = BitVec.allOnes 64 then x
  else BitVec.ofInt 64 (x.toInt.tdiv y.toInt)

/-- The remainder that goes with `divRes`; it has the sign of x. -/
def remRes (x y : Word) : Word :=
  if y = 0 then x
  else if x = BitVec.intMin 64 ∧ y = BitVec.allOnes 64 then 0
  else BitVec.ofInt 64 (x.toInt.tmod y.toInt)

/-- Unsigned division (Table 4.7). -/
def divuRes (x y : Word) : Word := if y = 0 then BitVec.allOnes 64 else BitVec.ofNat 64 (x.toNat / y.toNat)

/-- Unsigned remainder (Table 4.7). -/
def remuRes (x y : Word) : Word := if y = 0 then x else BitVec.ofNat 64 (x.toNat % y.toNat)

/-- High half of the signed product. -/
def mulhRes (x y : Word) : Word := BitVec.ofInt 64 ((x.toInt * y.toInt) / 2 ^ 64)

/-- High half of the unsigned product. -/
def mulhuRes (x y : Word) : Word := BitVec.ofNat 64 (x.toNat * y.toNat / 2 ^ 64)

/-- A shift amount: the low six bits. -/
def shamt (y : Word) : Nat := y.toNat % 64

/-- Leading zero bits of a word (R72). -/
def clzRes (x : Word) : Word :=
  BitVec.ofNat 64 (match firstFrom (fun i => x.getLsbD (63 - i)) 0 64 with | some i => i | none => 64)

/-- Trailing zero bits of a word (R72). -/
def ctzRes (x : Word) : Word :=
  BitVec.ofNat 64 (match firstFrom (fun i => x.getLsbD i) 0 64 with | some i => i | none => 64)

/-- One bits of a word (R72). -/
def popcRes (x : Word) : Word := BitVec.ofNat 64 (countBits x.toNat 64)

/-- A truth value as a word. -/
def flagWord (b : Bool) : Word := if b then 1 else 0

/-- The conditions of Table 4.9. -/
def condRes (cond : BitVec 3) (x y : Word) : Bool :=
  if cond = 0 then x == y
  else if cond = 1 then x != y
  else if cond = 2 then x.slt y
  else if cond = 3 then !x.slt y
  else if cond = 4 then x.ult y
  else if cond = 5 then !x.ult y
  else if cond = 6 then (x &&& y) != 0
  else (x &&& y) == 0

/-- Bits pos to pos + len - 1 of a word, extended to 64 (R71). -/
def bfxRes (x : Word) (pos lenM1 : BitVec 6) (sx : Bool) : Word :=
  let len := lenM1.toNat + 1
  let f := x.toNat / 2 ^ pos.toNat % 2 ^ len
  if sx then sext64 len f else BitVec.ofNat 64 f

/-- A word with bits pos to pos + len - 1 replaced by the low bits of another (R71). -/
def bfiRes (old x : Word) (pos lenM1 : BitVec 6) : Word :=
  let m : Word := BitVec.ofNat 64 ((2 ^ (lenM1.toNat + 1) - 1) * 2 ^ pos.toNat)
  (old &&& ~~~m) ||| ((x <<< pos.toNat) &&& m)

/-! ### Shapes of instructions -/

/-- Two scalar sources and a scalar destination (R68). -/
def issueRR (i : Instr) (opc : Nat) (cm : Common) (d a b : Spec) (hold : Bool) (f : Word → Word → Word)
    (s : State) : Out :=
  issue { opc := opc, cm := cm, wf := i.wellFormed, srcs := [a, b], dst := some d, hold := hold }
    (fun s w _ => .ok { s := s, eff := Spec.write s.who.y d (f (w.getD 0 0) (w.getD 1 0)) }) s

/-- One scalar source and a scalar destination (R69, R71, R72). -/
def issueR1 (i : Instr) (opc : Nat) (cm : Common) (d a : Spec) (f : Word → Word) (s : State) : Out :=
  issue { opc := opc, cm := cm, wf := i.wellFormed, srcs := [a], dst := some d }
    (fun s w _ => .ok { s := s, eff := Spec.write s.who.y d (f (w.getD 0 0)) }) s

/-- A divide of the sequencer has issued and not retired (R63). -/
def State.dividing (s : State) : Bool := s.sq.inflight.any fun p => decide (6 ≤ p.opc ∧ p.opc ≤ 9)

/-- A condition written by a comparison (R73). k0 is not interlocked, since it is never written. -/
def kEffect (kd : BitVec 3) (v : Bool) : List Effect := if kd = 0 then [] else [.k kd.toNat v]

/-- The interlock of a condition. -/
def kLoc (k : BitVec 3) : List Loc := if k = 0 then [] else [.k k.toNat]

/-! ### Register to register and immediate (R68, R69) -/

def execAdd (cm : Common) (d a b : Spec) (s : State) : Out :=
  issueRR (.add cm d a b) 0x01 cm d a b false (· + ·) s
def execSub (cm : Common) (d a b : Spec) (s : State) : Out :=
  issueRR (.sub cm d a b) 0x02 cm d a b false (· - ·) s
def execMul (cm : Common) (d a b : Spec) (s : State) : Out :=
  issueRR (.mul cm d a b) 0x03 cm d a b false (· * ·) s
def execMulh (cm : Common) (d a b : Spec) (s : State) : Out :=
  issueRR (.mulh cm d a b) 0x04 cm d a b false mulhRes s
def execMulhu (cm : Common) (d a b : Spec) (s : State) : Out :=
  issueRR (.mulhu cm d a b) 0x05 cm d a b false mulhuRes s
def execDiv (cm : Common) (d a b : Spec) (s : State) : Out :=
  issueRR (.div cm d a b) 0x06 cm d a b s.dividing divRes s
def execDivu (cm : Common) (d a b : Spec) (s : State) : Out :=
  issueRR (.divu cm d a b) 0x07 cm d a b s.dividing divuRes s
def execRem (cm : Common) (d a b : Spec) (s : State) : Out :=
  issueRR (.rem cm d a b) 0x08 cm d a b s.dividing remRes s
def execRemu (cm : Common) (d a b : Spec) (s : State) : Out :=
  issueRR (.remu cm d a b) 0x09 cm d a b s.dividing remuRes s
def execAnd (cm : Common) (d a b : Spec) (s : State) : Out :=
  issueRR (.andR cm d a b) 0x0A cm d a b false (· &&& ·) s
def execOr (cm : Common) (d a b : Spec) (s : State) : Out :=
  issueRR (.orR cm d a b) 0x0B cm d a b false (· ||| ·) s
def execXor (cm : Common) (d a b : Spec) (s : State) : Out :=
  issueRR (.xorR cm d a b) 0x0C cm d a b false (· ^^^ ·) s
def execSll (cm : Common) (d a b : Spec) (s : State) : Out :=
  issueRR (.sll cm d a b) 0x0D cm d a b false (fun x y => x <<< shamt y) s
def execSrl (cm : Common) (d a b : Spec) (s : State) : Out :=
  issueRR (.srl cm d a b) 0x0E cm d a b false (fun x y => x >>> shamt y) s
def execSra (cm : Common) (d a b : Spec) (s : State) : Out :=
  issueRR (.sra cm d a b) 0x0F cm d a b false (fun x y => x.sshiftRight (shamt y)) s
def execMin (cm : Common) (d a b : Spec) (s : State) : Out :=
  issueRR (.minR cm d a b) 0x10 cm d a b false (fun x y => if y.slt x then y else x) s
def execMax (cm : Common) (d a b : Spec) (s : State) : Out :=
  issueRR (.maxR cm d a b) 0x11 cm d a b false (fun x y => if x.slt y then y else x) s
def execMinu (cm : Common) (d a b : Spec) (s : State) : Out :=
  issueRR (.minu cm d a b) 0x12 cm d a b false (fun x y => if y.ult x then y else x) s
def execMaxu (cm : Common) (d a b : Spec) (s : State) : Out :=
  issueRR (.maxu cm d a b) 0x13 cm d a b false (fun x y => if x.ult y then y else x) s
def execSlt (cm : Common) (d a b : Spec) (s : State) : Out :=
  issueRR (.slt cm d a b) 0x14 cm d a b false (fun x y => flagWord (x.slt y)) s
def execSltu (cm : Common) (d a b : Spec) (s : State) : Out :=
  issueRR (.sltu cm d a b) 0x15 cm d a b false (fun x y => flagWord (x.ult y)) s

def execAddi (cm : Common) (d a : Spec) (imm : BitVec 28) (s : State) : Out :=
  issueR1 (.addi cm d a imm) 0x16 cm d a (· + imm.signExtend 64) s
def execAndi (cm : Common) (d a : Spec) (imm : BitVec 28) (s : State) : Out :=
  issueR1 (.andi cm d a imm) 0x17 cm d a (· &&& imm.signExtend 64) s
def execOri (cm : Common) (d a : Spec) (imm : BitVec 28) (s : State) : Out :=
  issueR1 (.ori cm d a imm) 0x18 cm d a (· ||| imm.signExtend 64) s
def execXori (cm : Common) (d a : Spec) (imm : BitVec 28) (s : State) : Out :=
  issueR1 (.xori cm d a imm) 0x19 cm d a (· ^^^ imm.signExtend 64) s
def execSlli (cm : Common) (d a : Spec) (sh : BitVec 6) (s : State) : Out :=
  issueR1 (.slli cm d a sh) 0x1A cm d a (· <<< sh.toNat) s
def execSrli (cm : Common) (d a : Spec) (sh : BitVec 6) (s : State) : Out :=
  issueR1 (.srli cm d a sh) 0x1B cm d a (· >>> sh.toNat) s
def execSrai (cm : Common) (d a : Spec) (sh : BitVec 6) (s : State) : Out :=
  issueR1 (.srai cm d a sh) 0x1C cm d a (·.sshiftRight sh.toNat) s
def execSlti (cm : Common) (d a : Spec) (imm : BitVec 28) (s : State) : Out :=
  issueR1 (.slti cm d a imm) 0x1D cm d a (fun x => flagWord (x.slt (imm.signExtend 64))) s

/-- LI (R70). -/
def execLi (cm : Common) (d : Spec) (v : Word) (s : State) : Out :=
  issue { opc := 0x1E, cm := cm, wf := (Instr.li cm d v).wellFormed, dst := some d, long := true }
    (fun s _ _ => .ok { s := s, eff := Spec.write s.who.y d v }) s

/-- BFX (R71). -/
def execBfx (cm : Common) (d a : Spec) (pos lenM1 : BitVec 6) (sx : Bool) (s : State) : Out :=
  issueR1 (.bfx cm d a pos lenM1 sx) 0x1F cm d a (bfxRes · pos lenM1 sx) s

/-- BFI (R71): it reads d as well as writing it. -/
def execBfi (cm : Common) (d a : Spec) (pos lenM1 : BitVec 6) (s : State) : Out :=
  issue { opc := 0x20, cm := cm, wf := (Instr.bfi cm d a pos lenM1).wellFormed, srcs := [a], dst := some d }
    (fun s w _ => .ok { s := s, eff := Spec.write s.who.y d (bfiRes (s.sq.peek d) (w.getD 0 0) pos lenM1) }) s

def execClz (cm : Common) (d a : Spec) (s : State) : Out := issueR1 (.clz cm d a) 0x21 cm d a clzRes s
def execCtz (cm : Common) (d a : Spec) (s : State) : Out := issueR1 (.ctz cm d a) 0x22 cm d a ctzRes s
def execPopc (cm : Common) (d a : Spec) (s : State) : Out := issueR1 (.popc cm d a) 0x23 cm d a popcRes s

/-! ### Conditions (R73 to R75) -/

/-- CMP. -/
def execCmp (cm : Common) (kd : BitVec 3) (a b : Spec) (cond : BitVec 3) (s : State) : Out :=
  issue { opc := 0x24, cm := cm, wf := (Instr.cmp cm kd a b cond).wellFormed, srcs := [a, b], writes := kLoc kd }
    (fun s w _ => .ok { s := s, eff := kEffect kd (condRes cond (w.getD 0 0) (w.getD 1 0)) }) s

/-- CMPI. -/
def execCmpi (cm : Common) (kd : BitVec 3) (a : Spec) (cond : BitVec 3) (imm : BitVec 24) (s : State) : Out :=
  issue { opc := 0x25, cm := cm, wf := (Instr.cmpi cm kd a cond imm).wellFormed, srcs := [a], writes := kLoc kd }
    (fun s w _ => .ok { s := s, eff := kEffect kd (condRes cond (w.getD 0 0) (imm.signExtend 64)) }) s

/-- KOP (R74). -/
def execKop (cm : Common) (kd ka kb : BitVec 3) (table : BitVec 4) (s : State) : Out :=
  issue { opc := 0x26, cm := cm, wf := (Instr.kop cm kd ka kb table).wellFormed, reads := kLoc ka ++ kLoc kb, writes := kLoc kd }
    (fun s _ _ =>
      let v := table.getLsbD (2 * bitNum (s.sq.cond ka.toNat) + bitNum (s.sq.cond kb.toNat))
      .ok { s := s, eff := kEffect kd v }) s

/-- SEL (R75): both sources are read, whichever is chosen. -/
def execSel (cm : Common) (d a b : Spec) (k : BitVec 3) (neg : Bool) (s : State) : Out :=
  issue { opc := 0x27, cm := cm, wf := (Instr.sel cm d a b k neg).wellFormed, srcs := [a, b], dst := some d, reads := kLoc k }
    (fun s w _ =>
      let v := if s.sq.cond k.toNat != neg then w.getD 0 0 else w.getD 1 0
      .ok { s := s, eff := Spec.write s.who.y d v }) s

/-! ### Branches (R76 to R79) -/

/-- PBR (R77): the target is the word's own address plus off words. -/
def execPbr (cm : Common) (bn : BitVec 3) (off : BitVec 33) (s : State) : Out :=
  issue { opc := 0x28, cm := cm, wf := (Instr.pbr cm bn off).wellFormed, writes := [.b bn.toNat] }
    (fun s _ _ => .ok { s := s, eff := [.b bn.toNat ⟨s.sq.pc + (off.signExtend 57 <<< 3), true⟩] }) s

/-- PBRR (R77): the register is prepared when the value is aligned to 8. -/
def execPbrr (cm : Common) (bn : BitVec 3) (a : Spec) (s : State) : Out :=
  issue { opc := 0x29, cm := cm, wf := (Instr.pbrr cm bn a).wellFormed, srcs := [a], writes := [.b bn.toNat] }
    (fun s w _ =>
      let v := w.getD 0 0
      .ok { s := s, eff := [.b bn.toNat ⟨v.setWidth 57, v.extractLsb' 0 3 == 0⟩] }) s

/-- BAD_TARGET where a target register is not prepared (R78), unless a write of it is still under way. -/
def Seqr.targetCheck (q : Seqr) (bn : BitVec 3) : Option Trap :=
  if (q.breg bn.toNat).prepared || q.pending (.b bn.toNat) then none else some (Trap.plain .badTarget)

/-- BR (R78). -/
def execBr (cm : Common) (bn k : BitVec 3) (neg : Bool) (s : State) : Out :=
  issue { opc := 0x2A, cm := cm, wf := (Instr.br cm bn k neg).wellFormed, check := s.sq.targetCheck bn,
          reads := .b bn.toNat :: kLoc k }
    (fun s _ _ =>
      let f : Flow := if s.sq.cond k.toNat != neg then .jump (s.sq.breg bn.toNat).target else .seq
      .ok { s := s, flow := f }) s

/-- CALL (R78): the link goes to b7, after the old target is read. -/
def execCall (cm : Common) (bn k : BitVec 3) (neg : Bool) (s : State) : Out :=
  issue { opc := 0x2B, cm := cm, wf := (Instr.call cm bn k neg).wellFormed, check := s.sq.targetCheck bn,
          reads := .b bn.toNat :: kLoc k, writes := [.b 7] }
    (fun s _ _ =>
      if s.sq.cond k.toNat != neg then
        .ok { s := s, eff := [.b 7 ⟨s.sq.pc + 8, true⟩], flow := .jump (s.sq.breg bn.toNat).target }
      else .ok { s := s }) s

/-! ### Loops (R79 to R83) -/

/-- The trip count of a level of the kernel's loop table (R80). -/
def Ctx.tableTrip (c : Ctx) (n : Nat) : Word :=
  match c.levels[n]? with
  | none => 0
  | some l =>
    if l.kind ≠ 0 then 0 else if l.fromArg then c.args.get 0 l.arg else BitVec.ofNat 64 l.count

/-- The levels at and above one popped. -/
def Seqr.popFrom (q : Seqr) (n : Nat) : Seqr :=
  (List.range 8).foldl (fun q m => if n ≤ m then q.setLevel m Loop.none else q) q

/-- The first address past the body of a LOOP (R80). -/
def loopEnd (pc : VA) (body : BitVec 31) : VA := pc + 8 + BitVec.ofNat 57 (body.toNat * 8)

/-- BAD_TARGET of LOOP: a lower level would end before it (R80). -/
def Seqr.loopCheck (q : Seqr) (level : Nat) (e : VA) : Option Trap :=
  if (List.range level).any fun m => (q.level m).active && decide ((q.level m).stop.toNat < e.toNat)
  then some (Trap.plain .badTarget) else none

/-- LOOP (R80). -/
def execLoop (cm : Common) (level : BitVec 3) (count : Spec) (body : BitVec 31) (s : State) : Out :=
  issue { opc := 0x2C, cm := cm, wf := (Instr.loop cm level count body).wellFormed, srcs := [count],
          check := s.sq.loopCheck level.toNat (loopEnd s.sq.pc body) }
    (fun s w _ =>
      let q := s.sq
      let e := loopEnd q.pc body
      let trip := if count = .s 0 then s.me.tableTrip level.toNat else w.getD 0 0
      let p := q.popFrom level.toNat
      if trip = 0 then .ok { s := s.setSq p, flow := .arrive e }
      else .ok { s := s.setSq (p.setLevel level.toNat ⟨true, q.pc + 8, e, trip, 0⟩) }) s

/-- ENDL (R82). -/
def execEndl (cm : Common) (level k : BitVec 3) (neg : Bool) (s : State) : Out :=
  issue { opc := 0x2D, cm := cm, wf := (Instr.endl cm level k neg).wellFormed, reads := kLoc k,
          check := if (s.sq.level level.toNat).active then none else some (Trap.plain .badTarget) }
    (fun s _ _ =>
      if s.sq.cond k.toNat != neg then
        .ok { s := s.setSq (s.sq.popFrom level.toNat), flow := .jump (s.sq.level level.toNat).stop }
      else .ok { s := s }) s

/-! ### Special registers, NOP and END (R84 to R87) -/

/-- What an MFS is interlocked with. -/
def srReads (n : Nat) : List Loc := if n = 0x103 then (List.range 8).map .b else [.sr n]

/-- MFS (R84). An MFS of RETIRED issues only after every earlier instruction of its sequencer retired.
DEDUCED, unsafe: log 92. -/
def execMfs (cm : Common) (d : Spec) (num : BitVec 9) (s : State) : Out :=
  let read (s : State) : Option Word :=
    s.me.readSr s.who.core s.who.slot (s.core s.who.core).cycle s.who.y num.toNat
  issue { opc := 0x2E, cm := cm, wf := (Instr.mfs cm d num).wellFormed && (read s).isSome, dst := some d,
          reads := srReads num.toNat, hold := num = 0x101 && !s.sq.inflight.isEmpty }
    (fun s _ _ => .ok { s := s, eff := Spec.write s.who.y d ((read s).getD 0) }) s

/-- MTS (R85, R65). -/
def execMts (cm : Common) (num : BitVec 9) (a : Spec) (s : State) : Out :=
  issue { opc := 0x2F, cm := cm, wf := (Instr.mts cm num a).wellFormed && srWritable num.toNat,
          priv := srHandlerOnly num.toNat && !s.me.handler, srcs := [a], writes := [.sr num.toNat] }
    (fun s w _ => .ok { s := s, eff := [.sr num.toNat (w.getD 0 0)] }) s

/-- NOP (R86). -/
def execNop (cm : Common) (s : State) : Out :=
  issue { opc := 0x30, cm := cm, wf := (Instr.nop cm).wellFormed } (fun s _ _ => .ok { s := s }) s

/-- END (R87): nothing more is fetched or issued in this instance. -/
def execEnd (cm : Common) (s : State) : Out :=
  issue { opc := 0x31, cm := cm, wf := (Instr.endSeq cm).wellFormed }
    (fun s _ _ => .ok { s := s, eff := [.endSeq], ended := true }) s

end Sys2Proof.Machine
end

