-- ==== Sys2Proof/Machine/Sched.lean ====
section
/-! DEFINITION. Scheduler cores: exceptions, and the eight extension instructions (15 R371 to R388). -/
namespace Sys2Proof.Machine

/-! ### Registers, exceptions, SRAM -/

/-- A register of a scheduler core; x0 reads zero. -/
def FwCore.reg (c : FwCore) (n : BitVec 5) : Word := if n = 0 then 0 else c.x.get 0 n.toNat

/-- A register written; x0 discards. -/
def FwCore.setX (c : FwCore) (n : BitVec 5) (v : Word) : FwCore :=
  if n = 0 then c else { c with x := c.x.put 0 n.toNat v }

/-- The executing scheduler core. -/
def State.fwMe (s : State) : FwCore := s.fwCore s.fw

/-- The executing scheduler core replaced. -/
def State.setFwMe (s : State) (c : FwCore) : State := s.setFw s.fw c

/-- An exception (R381). PRESUMED, as the RISC-V privileged rules have it: mepc, mcause and mtval are
written, MPIE takes MIE, MIE is cleared, MPP stays 3, and the core goes on at mtvec's base.
PRESUMED, unsafe: log 13. -/
def FwCore.raise (c : FwCore) (cause : Nat) (mtval : Word) : FwCore :=
  { c with
    mepc := c.pc
    mcause := BitVec.ofNat 64 cause
    mtval := mtval
    mstatus := (if c.mstatus.getLsbD 3 then 0x1880 else 0x1800) ||| (c.mstatus &&& ~~~0x1888#64)
    pc := c.mtvec &&& ~~~3#64
    asleep := false }

/-- The executing scheduler core raises an exception. PRESUMED, unsafe: log 13. -/
def State.raise (s : State) (cause : Nat) (mtval : Word) : Out := .next (s.setFwMe (s.fwMe.raise cause mtval))

/-- The instruction ends: its result, if any, and the next address. -/
def State.fwDone (s : State) (rd : BitVec 5) (v : Word) : Out :=
  let s := { s with power := { s.power with quietSince := s.time } }
  let c := s.fwMe
  .next (s.setFwMe { c.setX rd v with pc := c.pc + 4, minstret := c.minstret + 1, asleep := false })

/-- Bytes of SRAM (Table 15.1). -/
def sramSize : Nat := 2 ^ 20

/-- The exception of a record's address, if any: misaligned, or no SRAM. DEDUCED, unsafe: log 81. -/
def recordFault (a : Word) (misaligned access : Nat) : Option Nat :=
  if a.toNat % 64 ≠ 0 then some misaligned else if sramSize ≤ a.toNat then some access else none

/-! ### Kiosk and slots -/

/-- A ring that takes kicks and may be bound (Table 15.2). -/
def KRing.usable (r : KRing) : Bool := r.enable && decide (4 ≤ r.size) && decide (r.size ≤ 15)

/-- The scheduler core of a group (Table 15.1, KIOSK.ROUTE). -/
def State.routeOf (s : State) (g : Nat) : Nat := (s.route.extractLsb' (2 * g) 2).toNat

/-- The pending bits of a group (R384). -/
def State.pendingOf (s : State) (g : Nat) : Word :=
  BitVec.ofNat 64 ((List.range 64).foldl (fun a i => a + bitNum (s.ring (64 * g + i)).pending * 2 ^ i) 0)

/-- The word of group 31 of a scheduler core (R384). -/
def State.ownWord (s : State) (core : Nat) : Word :=
  let c := s.fwCore core
  let slot (p : KRing → Bool) (n : Nat) : Nat :=
    match c.slots.find n with
    | some x => bitNum (p (s.ring x.ring))
    | none => 0
  let ready := (List.range 16).foldl (fun a n => a + slot (fun r => r.tail != r.head) n * 2 ^ n) 0
  let idle := (List.range 16).foldl (fun a n => a + slot (fun r => r.tail == r.head) n * 2 ^ (16 + n)) 0
  let sum := (List.range 25).foldl (fun a g =>
    a + bitNum (s.routeOf g == core && s.pendingOf g != 0) * 2 ^ (32 + g)) 0
  BitVec.ofNat 64 (ready + idle + sum + bitNum (c.evHead != c.evTail) * 2 ^ 57)

/-- The rings after the ageing ticks that are due: one age for each multiple of 100 µs since the last (R376). What makes a
ring pending, unbound or neither comes after them. DEDUCED, unsafe: log 55. -/
def State.aged (s : State) : State :=
  let n := s.time / 100 - s.ticks.get 0 0
  if n = 0 then s else
  { s with
    ticks := s.ticks.put 0 0 (s.time / 100)
    rings := s.rings.mapAll default fun _ r => if r.pending && r.bound.isNone then { r with age := min 63 (r.age + n) } else r }

/-- A ring bound to a slot of the executing scheduler core, both with the priority given. DEDUCED, unsafe: log 81. -/
def State.bindRing (s : State) (slot n prio : Nat) : State :=
  let s := s.aged
  let r := s.ring n
  let s := s.setRing n { r with bound := some (s.fw, slot), prio := prio, pending := false, age := 0 }
  let c := s.fwMe
  s.setFwMe { c with slots := c.slots.ins slot ⟨n, prio⟩ }

/-- Entries between head and tail. -/
def KRing.backlog (r : KRing) : Word := BitVec.ofNat 64 ((r.tail + 2 ^ r.size - r.head % 2 ^ r.size) % 2 ^ r.size)

/-! ### The instructions -/

/-- What reading a command entry comes to (R382). -/
inductive EntryRead where
  | ok (s : State) (bytes : List Byte)
  | bad (s : State) (host : Bool)
  | wait
  | gone

/-- An entry read: device memory through stage 2 of the guest, as a load of T that follows the kick, or host
memory, whose answer may fail or not come within 1 ms. The walk's time is the core's, whatever it meets (14 R364).
DESIGN CHOICE, safe: log 105. -/
def State.readCommand (s : State) (ring : Nat) (ea : Nat) : EntryRead :=
  let r := s.ring ring
  let c := s.fwMe
  if r.kind then
    if s.links.hostUp && !Config.freeBit s.free then .ok s.fresh (s.host.bytes.read ea 64) else .bad s.fresh true
  else
    let at_ (s : State) (t : Nat) : State := s.setFwMe { s.fwMe with pts := t }
    match s.stage2 ⟨ring / 8, 64 + s.fw, max c.pts r.pts⟩ ea .read with
    | (s, t, .fault _ _) => .bad (at_ s t) false
    | (s, t, .lazy) => if s.lazyFailed (ring / 8) ea then .bad (at_ s t) false else .wait
    | (s, t, .ok pa kind _ _) =>
      if kind ≠ 0 then .bad (at_ s t) false
      else
        let pa := s.dram.served pa
        if !fitted pa then .gone
        else
          let (d, t) := (s.home (s.partOf (ring / 8)) pa).homeLoad t (s.leaseLen (ring / 8) pa) pa
          .ok (at_ { s with dram := d } t) (d.bytes.read pa 64)

/-- RFETCH (R382). -/
def execRfetch (rd rs1 : BitVec 5) (s : State) : Out :=
  let c := s.fwMe
  let slot := c.reg rs1
  match (if slot.toNat < 16 then c.slots.find slot.toNat else none) with
  | none => s.raise 26 slot
  | some x =>
    let r := s.ring x.ring
    if 2 ^ r.size ≤ r.tail then s.raise 25 (BitVec.ofNat 64 r.tail)
    else if r.head = r.tail then s.fwDone rd (BitVec.allOnes 64)
    else
      let ea := r.base.toNat + 64 * r.head
      match s.readCommand x.ring ea with
      | .bad s host => s.raise 24 (BitVec.ofNat 64 (ea % 2 ^ 63 + bitNum host * 2 ^ 63))
      | .wait => .next s
      | .gone => .fault .noDeviceMemory
      | .ok s bs =>
        let c := s.fwMe
        let s := s.setFwMe { c with sram := c.sram.write (0xFFC00 + 64 * slot.toNat) bs }
        let s := s.setRing x.ring { r with head := (r.head + 1) % 2 ^ r.size }
        s.fwDone rd (BitVec.ofNat 64 r.head)

/-- BFEXT (R383). -/
def execBfext (rd rs1 rs2 : BitVec 5) (s : State) : Out :=
  let c := s.fwMe
  let v := c.reg rs2
  let pos := v.extractLsb' 0 6
  let lenM1 := v.extractLsb' 6 6
  if v.extractLsb' 13 51 ≠ 0 ∨ 64 < pos.toNat + lenM1.toNat + 1 then
    s.raise 2 (match encodeFw (.bfext rd rs1 rs2) with | some w => w.setWidth 64 | none => 0)
  else s.fwDone rd (bfxRes (c.reg rs1) pos lenM1 (v.getLsbD 12))

/-- SWAIT (R384): a core that finds nothing stays at the word. DESIGN CHOICE, safe: log 82. -/
def execSwait (rd rs1 rs2 : BitVec 5) (s : State) : Out :=
  let c := s.fwMe
  let g := c.reg rs1
  let m := c.reg rs2
  if g = 31 ∨ (g.toNat ≤ 24 ∧ s.routeOf g.toNat = s.fw) then
    let w := (if g = 31 then s.ownWord s.fw else s.pendingOf g.toNat) &&& m
    if w ≠ 0 then s.fwDone rd w
    else if c.mip &&& c.mie ≠ 0 then s.fwDone rd 0
    else .next (s.setFwMe { c with asleep := true })
  else s.raise 29 g

/-- PCLR (R385). -/
def execPclr (rs1 : BitVec 5) (s : State) : Out :=
  let n := s.fwMe.reg rs1
  if 1600 ≤ n.toNat then s.raise 29 n
  else (s.aged.setRing n.toNat { s.ring n.toNat with pending := false, age := 0 }).fwDone 0 0

/-- DISPATCH (R386, R417); it ends IDLE (13 Table 13.9). -/
def execDispatch (rd rs1 rs2 : BitVec 5) (s : State) : Out :=
  let s := s.wake
  let c := s.fwMe
  let a := c.reg rs1
  let v := c.reg rs2
  match recordFault a 4 5 with
  | some e => s.raise e a
  | none =>
    let q := (v.extractLsb' 0 12).toNat
    let g := (v.extractLsb' 12 8).toNat
    let x := s.queue q
    if v.extractLsb' 23 41 ≠ 0 ∨ 199 < g ∨ x.enable = false ∨ x.owner ≠ g ∨ x.kind = 1 ∨ s.resets.contains g then
      s.raise 27 v
    else if !x.room 1 then s.fwDone rd (BitVec.allOnes 64)
    else
      let bs := c.sram.read a.toNat 64
      if x.kind = 0 then
        let (s, n) := s.appendFeed q 4 0 0xFFFF (bs.drop 8) ⟨c.pts, []⟩
        s.fwDone rd (BitVec.ofNat 64 n)
      else
        let ceiling := ((s.guest g).e0.extractLsb' 40 3).toNat
        (s.submit q (min (v.extractLsb' 20 3).toNat ceiling) g bs ⟨c.pts, []⟩).fwDone rd 0

/-- The QCB of a bound ring (Table 15.7a), with the 8 bytes kept for firmware. DEDUCED, unsafe: log 81. -/
def qcbBytes (n prio : Nat) (r : KRing) (fw : List Byte) : List Byte :=
  leBytes 8 (1 + n * 2 ^ 8 + r.gen * 2 ^ 20 + prio * 2 ^ 32) ++ leBytes 8 r.base.toNat ++
    leBytes 8 (r.size + bitNum r.kind * 2 ^ 4 + r.head * 2 ^ 16) ++ fw ++ leBytes 32 0

/-- QSAVE (R388). -/
def execQsave (rd rs1 rs2 : BitVec 5) (s : State) : Out :=
  let c := s.fwMe
  let slot := c.reg rs1
  let a := c.reg rs2
  match (if slot.toNat < 16 then c.slots.find slot.toNat else none) with
  | none => s.raise 26 slot
  | some x =>
    match recordFault a 6 7 with
    | some e => s.raise e a
    | none =>
      let r := s.ring x.ring
      let m := (c.sram.write a.toNat (qcbBytes x.ring x.prio r (c.sram.read (a.toNat + 24) 8))).write (0xFFC00 + 64 * slot.toNat) (leBytes 64 0)
      let s := s.setFwMe { c with sram := m, slots := c.slots.del slot.toNat }
      let s := s.aged.setRing x.ring { r with bound := none, pending := r.pending || r.tail != r.head }
      s.fwDone rd (BitVec.ofNat 64 x.ring)

/-- The lowest set bit of a reserved mask, as a byte offset. -/
def lowByte (v mask : Nat) : Option Nat := (firstFrom (fun i => (v &&& mask).testBit i) 0 64).map (· / 8)

/-- The lowest offset among the failing checks of a QCB (R388, R446), if any. -/
def State.qcbFail (s : State) (bs : List Byte) : Option Nat :=
  let w (n : Nat) : Nat := leNat ((bs.drop (8 * n)).take 8)
  let n := w 0 / 2 ^ 8 % 2 ^ 11
  let r := s.ring n
  let rsv (i mask : Nat) : List Nat := match lowByte (w i) mask with | some b => [8 * i + b] | none => []
  let fails : List Nat :=
    (if w 0 % 256 ≠ 1 then [0] else []) ++
    rsv 0 (2 ^ 19 + (2 ^ 64 - 2 ^ 35)) ++ rsv 2 (0xFFE0 + (2 ^ 64 - 2 ^ 32)) ++
    (List.range 4).flatMap (fun i => rsv (4 + i) (2 ^ 64 - 1)) ++
    (if 1600 ≤ n ∨ r.usable = false ∨ r.bound.isSome then [1] else []) ++
    (if w 0 / 2 ^ 20 % 2 ^ 12 ≠ r.gen then [2] else []) ++
    (if w 1 ≠ r.base.toNat then [8] else []) ++
    (if w 2 % 16 ≠ r.size ∨ w 2 / 16 % 2 ≠ bitNum r.kind then [16] else []) ++
    (if w 2 / 2 ^ 16 % 2 ^ 16 ≠ r.head then [18] else [])
  fails.min?

/-- QLOAD (R388). -/
def execQload (rd rs1 rs2 : BitVec 5) (s : State) : Out :=
  let c := s.fwMe
  let slot := c.reg rs1
  let a := c.reg rs2
  if 16 ≤ slot.toNat ∨ (c.slots.find slot.toNat).isSome then s.raise 26 slot
  else match recordFault a 4 5 with
    | some e => s.raise e a
    | none =>
      let bs := c.sram.read a.toNat 64
      match s.qcbFail bs with
      | some o => s.raise 28 (BitVec.ofNat 64 o)
      | none =>
        let n := leNat (bs.take 8) / 2 ^ 8 % 2 ^ 11
        let prio := leNat (bs.take 8) / 2 ^ 32 % 8
        (s.bindRing slot.toNat n prio).fwDone rd (s.ring n).backlog

/-- QBIND (R388). -/
def execQbind (rd rs1 rs2 : BitVec 5) (s : State) : Out :=
  let c := s.fwMe
  let slot := c.reg rs1
  let n := c.reg rs2
  if 16 ≤ slot.toNat ∨ (c.slots.find slot.toNat).isSome ∨ 1600 ≤ n.toNat ∨ (s.ring n.toNat).usable = false ∨
      (s.ring n.toNat).bound.isSome then s.raise 26 n
  else (s.bindRing slot.toNat n.toNat (s.ring n.toNat).prio).fwDone rd (s.ring n.toNat).backlog

end Sys2Proof.Machine
end

