-- ==== Sys2Proof/Machine/Kiosk.lean ====
section
/-! DEFINITION. Guest rings: kicks, configuration and ageing (15 R374 to R376), and how a write of 4 or 8 bytes
reaches a register of 8 bytes (00 R5, R445). -/
namespace Sys2Proof.Machine

/-! ### Writes of registers (R445) -/

/-- The halves that an access of a size at an offset names: lower, upper; none where it is not performed. -/
def regHalves (off size : Nat) : Option (Bool × Bool) :=
  if size = 8 ∧ off % 8 = 0 then some (true, true)
  else if size = 4 ∧ off % 8 = 0 then some (true, false)
  else if size = 4 ∧ off % 8 = 4 then some (false, true)
  else none

/-- A register's word after an access, every bit written as RW. A value of 4 bytes stands in the low half. -/
def regMerge (old : Word) (off size : Nat) (v : Word) : Option Word :=
  match regHalves off size with
  | some (true, true) => some v
  | some (true, false) => some ((old &&& 0xFFFFFFFF00000000#64) ||| (v &&& 0xFFFFFFFF#64))
  | some (false, true) => some ((old &&& 0xFFFFFFFF#64) ||| (v <<< 32))
  | some (false, false) | none => none

/-- The exception of a scheduler core or of Vesper for an access that is not performed: address-misaligned where the
address is no multiple of the size, else the access fault, of a load or of a store; a host's write is dropped (R445, 15
R371, R373). DEDUCED, unsafe: log 58. -/
def State.accessFault (s : State) (by_ : Writer) (load : Bool) (a size : Nat) : State :=
  let cause := (if a % size = 0 then 5 else 4) + (if load then 0 else 2)
  match by_ with
  | .sched n => s.setFw n ((s.fwCore n).raise cause (BitVec.ofNat 64 a))
  | .vesper => { s with vesper := { s.vesper with core := s.vesper.core.raise cause (BitVec.ofNat 64 a) } }
  | .host _ => s

/-- A word whose masked bits come from another. -/
def under (mask old new : Word) : Word := (old &&& ~~~mask) ||| (new &&& mask)

/-! ### Kicks (R375) -/

/-- A kick of a ring, with the program time that it hands over (22 R425). -/
def KRing.kick (r : KRing) (tail pts : Nat) : KRing :=
  if !r.usable then r else
  let t := tail % 2 ^ 16
  let r := { r with tail := t, pts := max r.pts pts }
  if r.bound.isSome || t == r.head then r else { r with pending := true, age := if r.pending then r.age else 0 }

/-! ### Configuration (R374) -/

/-- The base and configuration words of a ring (Table 15.2), tail and head included. -/
def KRing.ctlWord (r : KRing) : Word :=
  BitVec.ofNat 64 (r.size % 16 + bitNum r.kind * 2 ^ 4 + bitNum r.enable * 2 ^ 5 + r.head % 2 ^ 16 * 2 ^ 16 +
    r.tail % 2 ^ 16 * 2 ^ 32 + r.gen % 2 ^ 12 * 2 ^ 48)

/-- The configuration fields written: ignored while the ring is enabled and bound; a change of base, size or kind
adds 1 to gen. -/
def KRing.configure (r : KRing) (base : Word) (size : Nat) (kind enable : Bool) : KRing :=
  if r.enable && r.bound.isSome then r
  else
    let same := r.base == base && r.size == size && r.kind == kind
    { r with
      base := base, size := size, kind := kind, enable := enable
      gen := if same then r.gen else (r.gen + 1) % 2 ^ 12 }

/-- A write into bytes 0 to 15 of a ring. `tail` where the writer's layout holds a tail, whose write is a kick. -/
def KRing.write (r : KRing) (off size : Nat) (v : Word) (tail : Bool) (pts : Nat) : KRing :=
  if off < 8 then
    match regMerge r.base off size v with
    | some b => r.configure b r.size r.kind r.enable
    | none => r
  else
    match regMerge r.ctlWord off size v, regHalves off size with
    | some w, some (lo, hi) =>
      let r := if lo then r.configure r.base (w.extractLsb' 0 4).toNat (w.getLsbD 4) (w.getLsbD 5) else r
      if tail && hi then r.kick (w.extractLsb' 32 16).toNat pts else r
    | _, _ => r

/-- The priority written, up to the guest's ceiling. -/
def State.writePrio (s : State) (n off size : Nat) (v : Word) : State :=
  let r := s.ring n
  match regHalves off size with
  | some (true, _) =>
    s.setRing n { r with prio := min (v.extractLsb' 0 3).toNat ((s.guest (n / 8)).e0.extractLsb' 40 3).toNat }
  | _ => s

/-- RING_CONFIG_WRITE: a driver through its BAR0 (22 R422), or firmware, which owns the rings of local guests and
otherwise writes only priorities. -/
def execRingConfigWrite (by_ : Writer) (ring off size : Nat) (v : Word) (s : State) : Out :=
  if 1600 ≤ ring then .next s else
  let s := s.aged
  let r := s.ring ring
  match by_ with
  | .host fn =>
    if s.guestOfFn fn ≠ ring / 8 ∨ (s.fn fn).busy = true ∨ 16 ≤ off then .next s
    else .next (s.setRing ring (r.write off size v false (s.fn fn).pts))
  | .sched core =>
    if off < 16 then .next (if ring < 64 then s.setRing ring (r.write off size v true (s.fwCore core).pts) else s)
    else if off < 24 then .next (s.writePrio ring off size v)
    else .next s
  | .vesper =>
    if off < 16 then .next (if ring < 64 then s.setRing ring (r.write off size v true 0) else s)
    else if off < 24 then .next (s.writePrio ring off size v)
    else .next s

/-! ### Ageing (R376) -/

/-- AGE_TICK: every pending, unbound ring ages by one for each multiple of 100 µs that has passed since the last tick. A
kick, a binding or a PCLR comes after the ticks before it (`State.aged`). -/
def execAgeTick (s : State) : Out := .next s.aged

/-- KIOSK.NEXT as a scheduler core reads it (R376): the pending, unbound ring of greatest effective priority among
its groups; then of greater age, then of lower number. DEDUCED, unsafe: log 83. -/
def State.kioskNext (s : State) (core : Nat) : Word :=
  let s := s.aged
  let rs := s.rings.filter fun e => e.2.pending && e.2.bound.isNone && s.routeOf (e.1 / 64) == core
  let eff (r : KRing) : Nat := r.prio + r.age / 8
  match rs.find? fun e => rs.all fun x => decide (eff x.2 < eff e.2) ||
      (eff x.2 == eff e.2 && (decide (x.2.age < e.2.age) || (x.2.age == e.2.age && decide (e.1 ≤ x.1)))) with
  | some e => BitVec.ofNat 64 (e.1 + eff e.2 * 2 ^ 11 + e.2.age * 2 ^ 15)
  | none => 1#64 <<< 63

end Sys2Proof.Machine
end

