-- ==== Sys2Proof/Machine/Engine.lean ====
section
/-! DEFINITION. Copy commands: their checks (08 R183 to R187, R446), the two queues of a context (R180 to
R182), and the copy instructions (R195 to R203). -/
namespace Sys2Proof.Machine

/-! ### Queues -/

/-- A queue of a context. -/
def Ctx.eq (c : Ctx) (q : Bool) : EngQueue := if q then c.q1 else c.q0

/-- A context with one queue replaced. -/
def Ctx.setEq (c : Ctx) (q : Bool) (v : EngQueue) : Ctx := if q then { c with q1 := v } else { c with q0 := v }

/-- Places of a command (R180). -/
def Cmd.places (k : Cmd) : Nat := if 8 < k.dims.length then 2 else 1

/-- Occupied places (R180). -/
def EngQueue.occupied (e : EngQueue) : Nat :=
  e.jobs.foldl (fun a j => a + j.cmd.places) 0 + e.records.foldl (fun a r => a + r.places) 0

/-- The wait of CPUSH and CPOP. -/
def queueWait (q : Bool) : Wait := ⟨6, bitNum q⟩

/-! ### The command (R183) -/

/-- A field of some bytes. -/
def fieldAt (bs : List Byte) (o n : Nat) : Nat := leNat ((bs.drop o).take n)

/-- Byte offset of word `k` of dimension `n` in a command with its CONT. -/
def dimOff (n k : Nat) : Nat := (if n < 8 then 32 + 12 * n else 160 + 12 * (n - 8)) + 4 * k

/-- A dimension (Table 8.2). -/
def dimAt (bs : List Byte) (n : Nat) : Dim :=
  let sg (k : Nat) : Int := (BitVec.ofNat 32 (fieldAt bs (dimOff n k) 4)).toInt
  ⟨fieldAt bs (dimOff n 0) 4, sg 1, sg 2⟩

/-- The number of dimensions of a command word. -/
def dimsOf (w : Word) : Nat := (w.extractLsb' 8 4).toNat + 1

/-- A command, as its bytes give it. -/
def parseCmd (bs : List Byte) : Cmd :=
  let w : Word := BitVec.ofNat 64 (fieldAt bs 0 8)
  let c : Word := BitVec.ofNat 64 (fieldAt bs 24 8)
  { op := (w.extractLsb' 0 8).toNat
    dims := (List.range (dimsOf w)).map (dimAt bs)
    elem := (w.extractLsb' 12 4).toNat
    red := (w.extractLsb' 16 4).toNat
    scope := (w.extractLsb' 20 4).toNat
    sk := (w.extractLsb' 24 4).toNat
    dk := (w.extractLsb' 28 4).toNat
    wait := w.extractLsb' 32 16
    sig := w.extractLsb' 48 16
    src := BitVec.ofNat 64 (fieldAt bs 8 8)
    dst := BitVec.ofNat 64 (fieldAt bs 16 8)
    bar := if c.getLsbD 22 then some (c.extractLsb' 0 22).toNat else none
    norec := c.getLsbD 23
    sring := if c.getLsbD 28 then some (c.extractLsb' 24 4).toNat else none
    dring := if c.getLsbD 33 then some (c.extractLsb' 29 4).toNat else none
    idxSize := (c.extractLsb' 34 2).toNat
    idxAddr := (c.extractLsb' 36 22).toNat }

/-- Bytes of an element (R183). -/
def Cmd.bytes (k : Cmd) : Nat := 2 ^ k.elem

/-- Elements of a command (R185). -/
def Cmd.total (k : Cmd) : Nat := k.dims.foldl (fun a d => a * d.count) 1

/-- Bytes of an index (R185). -/
def Cmd.idxBytes (k : Cmd) : Nat := 2 ^ (k.idxSize + 1)

/-- The count of the outermost dimension. -/
def Cmd.outer (k : Cmd) : Nat := match k.dims.getLast? with | some d => d.count | none => 1

/-- The offset of a failing check. -/
def failAt (b : Bool) (o : Nat) : List Nat := if b then [o] else []

/-- The offset of the first of some bytes that is not zero. -/
def firstByte (bs : List Byte) (o : Nat) : List Nat :=
  match firstFrom (fun i => bs.getD i 0 != 0) 0 bs.length with
  | some i => [o + i]
  | none => []

/-- Failing checks of one operand (R185, R187, R194): its kind's byte is 3, its ring's 27. -/
def Ctx.operandFails (c : Ctx) (slices : Nat) (k : Cmd) (kind : Nat) (a : Word) (off : Nat) (ring : Option Nat)
    (pattern : Bool) : List Nat :=
  (match ring with
    | some n => failAt (kind != 1) 3 ++ failAt (decide (c.ringsN ≤ n) || !(c.ring n).valid) 27
    | none => []) ++
  (if pattern then [] else
    failAt (decide (a.toNat % k.bytes ≠ 0) || (kind == 0 && decide (2 ^ 57 ≤ a.toNat)) ||
      (kind == 1 && decide (2 ^ 22 ≤ a.toNat)) ||
      (kind == 2 && (decide (2 ^ 37 ≤ a.toNat) || decide (slices ≤ a.toNat / 2 ^ 32)))) off)

/-- Offsets of the failing checks of ENGINE_ERR (R184, R196, R446, Table 8.6a). -/
def Ctx.cmdFails (c : Ctx) (slices : Nat) (bs : List Byte) : List Nat :=
  let k := parseCmd bs
  let n := k.dims.length
  let fill := k.op == 5
  let red := k.op == 4
  let ix := k.op == 2 || k.op == 3
  failAt (k.op == 0 || decide (5 < k.op)) 0 ++
  failAt (decide (4 < k.elem) || ((fill || red) && decide (3 < k.elem)) ||
    (red && decide (9 ≤ k.red ∧ k.red ≤ 11) && k.elem != 2)) 1 ++
  failAt (if red then k.red == 0 || decide (11 < k.red) else k.red != 0) 2 ++
  failAt (decide (4 < k.sk) || decide (4 < k.dk) || (fill && k.sk != 0) || (red && k.dk != 0 && k.dk != 2)) 3 ++
  failAt (k.wait.getLsbD 0) 4 ++ failAt (k.sig.getLsbD 0) 6 ++
  c.operandFails slices k k.sk k.src 8 k.sring fill ++ c.operandFails slices k k.dk k.dst 16 k.dring false ++
  failAt (match k.bar with | some a => a % 16 != 0 || !c.allocatedRange a 16 | none => false) 24 ++
  failAt (decide (4 ≤ fieldAt bs 31 1)) 31 ++
  failAt (k.idxSize == 3 || (ix && (k.idxAddr % k.idxBytes != 0 ||
    !c.allocatedRange k.idxAddr (k.outer * k.idxBytes)))) 28 ++
  (if 8 < n then failAt (fieldAt bs 128 1 != 0x0F) 128 ++ firstByte ((bs.drop 129).take 31) 129 else []) ++
  (List.range (if 8 < n then 16 else 8)).flatMap (fun i =>
    let d := dimAt bs i
    if n ≤ i then (List.range 3).flatMap fun w => failAt (fieldAt bs (dimOff i w) 4 != 0) (dimOff i w)
    else failAt (d.count == 0) (dimOff i 0) ++
      failAt (d.ss % k.bytes != 0 || (fill && d.ss != 0)) (dimOff i 1) ++ failAt (d.ds % k.bytes != 0) (dimOff i 2)) ++
  failAt (decide (2 ^ 32 ≤ k.total)) (dimOff (n - 1) 0)

/-- One scratchpad operand passes its box check (R187); a ring that does not exist is left to ENGINE_ERR. -/
def Ctx.boxOk (c : Ctx) (k : Cmd) (kind : Nat) (a : Word) (ring : Option Nat) (indexed : Bool)
    (stride : Dim → Int) : Bool :=
  if kind ≠ 1 then true else
  let dims := if indexed then k.dims.dropLast else k.dims
  let b := walkBounds a.toNat k.bytes (dims.map fun d => (d.count, stride d))
  match ring with
  | none => c.boxAllocated b.1 b.2
  | some n => c.ringsN ≤ n || !(c.ring n).valid || decide (0 ≤ b.1 ∧ b.2 < (c.ring n).size * 256)

/-- The scratchpad operands pass their checks. -/
def Ctx.boxesOk (c : Ctx) (k : Cmd) : Bool :=
  k.dims.any (·.count == 0) ||
    ((k.op == 5 || c.boxOk k k.sk k.src k.sring (k.op == 2) Dim.ss) &&
      c.boxOk k k.dk k.dst k.dring (k.op == 3) Dim.ds)

/-- The commands that the wait mask waits for (05 R109); none where a wait points forward. -/
def Ctx.waitsOf (c : Ctx) (m : BitVec 16) : Option (List Nat) :=
  (List.range 16).foldl (fun a e =>
    match a with
    | none => none
    | some l =>
      if !m.getLsbD e || c.event e then some l
      else
        let u := c.evSetter.get 0 e
        if u ≠ 0 ∧ u ∈ c.openUids then some (l ++ [u]) else none) (some [])

/-- A checked command joins its queue, where a pushed one may start once its CPUSH has retired (R209): it takes its number,
and becomes the latest setter of the events it
signals (R181, 05 R109). -/
def State.enqueue (s : State) (core slot : Nat) (q : Bool) (k : Cmd) (waits : List Nat) (carry : Carry)
    (chained : Bool) : State :=
  let c := s.ctx core slot
  let u := s.nextUid
  let j : Job :=
    { seq := c.nextSeq, uid := u, cmd := k, scope := s.scopeMembers core slot k.scope, carry := carry
      fz := c.fzOn, chained := chained, waits := waits, st := .waiting, sclaim := none, dclaim := none
      progress := 0, kind := 0, partialDone := false, time := carry.pts, idx := [], issued := chained, begun := false
      word := none, hist := [] }
  let e := c.eq q
  let c := { c.setEq q { e with jobs := e.jobs ++ [j] } with
    nextSeq := (c.nextSeq + 1) % 2 ^ 32
    evSetter := (List.range 16).foldl (fun t n => if k.sig.getLsbD n then t.put 0 n u else t) c.evSetter }
  { s.setCtx core slot c with nextUid := u + 1 }

/-! ### The instructions -/

/-- Slices of the executing context's partition. -/
def State.mySlices (s : State) : Nat := (s.part s.me.part).sliceCount

/-- CPUSH (R196). -/
def execCpush (cm : Common) (d : Spec) (q : Bool) (a : Spec) (s : State) : Out :=
  issue { opc := 0x70, cm := cm, wf := (Instr.cpush cm d q a).wellFormed, srcs := [a], dst := some d, cls := 3, spad := true
          reads := [.sr 2], check := if a = .s 0 ∧ s.me.allocatedRange 0 128 = false then some (Trap.plain .spadRange) else none }
    (fun s w _ =>
      let c := s.me
      let ca := (w.getD 0 0).toNat
      let there := c.allocatedRange ca 128
      let w0 : Word := BitVec.ofNat 64 (leNat (c.spad.load s.sq.know s.free ca 8))
      let two := there && decide (8 < dimsOf w0)
      if 16 < (c.eq q).occupied + (if two && ca % 128 == 0 then 2 else 1) then .waitOn (queueWait q)
      else
        let size := if two then 256 else 128
        let bs := c.spad.load s.sq.know s.free ca size
        let k := parseCmd bs
        if !there || !c.allocatedRange ca size || !c.boxesOk k then .trap (Trap.plain .spadRange)
        else if ca % 128 ≠ 0 then .trap (Trap.plain .align)
        else match c.spad.badAddr ca size with
          | some x => .trap (Trap.at .eccUncorr (BitVec.ofNat 64 x))
          | none =>
            match (c.cmdFails s.mySlices bs).min? with
            | some o => .trap { Trap.plain .engineErr with detail := o }
            | none =>
              if c.stale k.scope then .trap (Trap.plain .staleScope)
              else match c.waitsOf k.wait with
                | none => .trap (Trap.plain .fwdWait)
                | some l =>
                  let v : Word := BitVec.ofNat 64 c.nextSeq
                  .ok { s := (s.enqueue s.who.core s.who.slot q k l s.sq.carry false).fresh
                        eff := Spec.write s.who.y d v ++ [.cpush s.nextUid] }) s

/-- CPOP (R197): it acquires the command at its issue (07 R157). -/
def execCpop (cm : Common) (d : Spec) (q : Bool) (s : State) : Out :=
  issue { opc := 0x71, cm := cm, wf := (Instr.cpop cm d q).wellFormed, dst := some d }
    (fun s _ _ =>
      let c := s.me
      let e := c.eq q
      match e.records with
      | [] => if e.jobs.all (·.cmd.norec) then .trap (Trap.plain .queueFault) else .waitOn (queueWait q)
      | r :: t =>
        let s := s.setMe (c.setEq q { e with records := t })
        .ok { s := s.setSq (s.sq.receive r.carry), eff := Spec.write s.who.y d r.word }) s

/-- CPEEK (R198). -/
def execCpeek (cm : Common) (d : Spec) (q : Bool) (s : State) : Out :=
  issue { opc := 0x72, cm := cm, wf := (Instr.cpeek cm d q).wellFormed, dst := some d }
    (fun s _ _ =>
      .ok { s := s, eff := Spec.write s.who.y d
              (match (s.me.eq q).records with | r :: _ => r.word | [] => BitVec.allOnes 64) }) s

/-- CCHAIN (R199). -/
def execCchain (cm : Common) (q : Bool) (a : Spec) (spad : Bool) (s : State) : Out :=
  issue { opc := 0x73, cm := cm, wf := (Instr.cchain cm q a spad).wellFormed, srcs := [a] }
    (fun s w _ =>
      let c := s.me
      let e := c.eq q
      let v := w.getD 0 0
      if e.st == 1 || v.toNat % 128 != 0 || decide (2 ^ (if spad then 22 else 57) ≤ v.toNat) then
        .trap (Trap.plain .queueFault)
      else
        .ok { s := s.setMe (c.setEq q { e with
                ptr := v, inSpad := spad, carry := s.sq.carry
                st := if e.credit = 0 then 2 else 1
                park := if e.credit = 0 then 1 else 0 }) }) s

/-- CKICK (R200). -/
def execCkick (cm : Common) (q : Bool) (a : Spec) (n : BitVec 16) (s : State) : Out :=
  issue { opc := 0x74, cm := cm, wf := (Instr.ckick cm q a n).wellFormed, srcs := [a] }
    (fun s w _ =>
      let c := s.me
      let e := c.eq q
      let v := e.credit + n.toNat + (w.getD 0 0).toNat
      if 65535 < v then .trap (Trap.plain .queueFault)
      else
        let go := e.st == 2 && e.park == 1 && decide (0 < v)
        .ok { s := s.setMe (c.setEq q { e with
                credit := v, carry := s.sq.carry
                st := if go then 1 else e.st
                park := if go then 0 else e.park }) }) s

/-- The word of Table 8.7. -/
def cqstatWord (e : EngQueue) (next : Nat) : Word :=
  let waiting := (e.jobs.filter (!·.begun)).length
  BitVec.ofNat 64 (waiting + (e.jobs.length - waiting) * 2 ^ 5 + e.records.length * 2 ^ 8 + e.occupied * 2 ^ 13 +
    e.st * 2 ^ 18 + e.park * 2 ^ 20 + e.credit * 2 ^ 24 + next % 2 ^ 16 * 2 ^ 40)

/-- CQSTAT (R201). -/
def execCqstat (cm : Common) (d : Spec) (q : Bool) (s : State) : Out :=
  issue { opc := 0x75, cm := cm, wf := (Instr.cqstat cm d q).wellFormed, dst := some d }
    (fun s _ _ => .ok { s := s, eff := Spec.write s.who.y d (cqstatWord (s.me.eq q) s.me.nextSeq) }) s

/-- A command whose elements are not over: CABORT stops it (R202). -/
def Job.stoppable (j : Job) : Bool := j.st == .waiting || j.st == .running

/-- A command that CABORT stops: one whose elements are over ends with its own status (R202). -/
def Job.abort (j : Job) : Job :=
  match j.st with
  | .waiting | .running => { j with st := .over, kind := 5 }
  | .over | .ending => j

/-- CABORT (R202): it retires when what it aborts has completed. -/
def execCabort (cm : Common) (q : Bool) (a : Spec) (s : State) : Out :=
  issue { opc := 0x76, cm := cm, wf := (Instr.cabort cm q a).wellFormed, srcs := [a] }
    (fun s w _ =>
      let c := s.me
      let e := c.eq q
      let whole : Bool := a == .s 0
      let hit (j : Job) : Bool := whole || j.seq == ((w.getD 0 0).extractLsb' 0 32).toNat
      .ok { s := s.setMe (c.setEq q { e with
              jobs := e.jobs.map fun j => if hit j then j.abort else j
              st := if whole then 2 else e.st
              park := if whole then 5 else e.park })
            gate := .engine ((e.jobs.filter fun j => hit j && j.stoppable).map (·.uid)) }) s

end Sys2Proof.Machine
end

