-- ==== Sys2Proof/Machine/Elements.lean ====
section
/-! DEFINITION. Elements of a line by format tag (06 Table 6.1, R121), predication (09 R222, 10 R235), and
the conversion of one element (09 Table 9.7). -/
namespace Sys2Proof.Machine

/-! ### Tags (06 Table 6.1) -/

/-- Elements in a cell. -/
def perCell (tag : Nat) : Nat :=
  if tag = 2 ∨ tag = 3 ∨ tag = 7 ∨ tag = 15 ∨ tag = 16 then 2
  else if tag = 4 ∨ tag = 5 ∨ tag = 8 ∨ tag = 9 ∨ (11 ≤ tag ∧ tag ≤ 14) then 4
  else if tag = 10 then 8 else 1

/-- Elements in a line (R222). -/
def elems (tag : Nat) : Nat := 64 * perCell tag

/-- Bits of a container. -/
def cbits (tag : Nat) : Nat := 32 / perCell tag

/-- Bits of a code. -/
def codeBits (tag : Nat) : Nat :=
  if tag = 12 then 4 else if tag = 13 then 6 else if tag = 15 then 12 else cbits tag

/-- The floating-point format of a tag. -/
def tagFmt (tag : Nat) : Option Fmt :=
  if tag = 1 then some .fp32 else if tag = 2 then some .bf16 else if tag = 3 then some .fp16
  else if tag = 4 then some .e4m3 else if tag = 5 then some .e5m2 else none

/-- Width and signedness of an integer tag. -/
def tagInt (tag : Nat) : Option (Nat × Bool) :=
  if tag = 6 then some (32, true) else if tag = 7 then some (16, true) else if tag = 8 then some (8, true)
  else if tag = 9 then some (8, false) else if tag = 10 then some (4, true) else none

/-- A block-integer tag (R213). -/
def isMxi (tag : Nat) : Bool := decide (12 ≤ tag ∧ tag ≤ 16)

/-! ### Elements -/

/-- Container `m` of a line (R121). -/
def elem (tag : Nat) (l : LineBits) (m : Nat) : Nat := (l.toNat / 2 ^ (m * cbits tag)) % 2 ^ cbits tag

/-- A code with copies of its top bit above it, as R121 stores it. -/
def store121 (tag v : Nat) : Nat :=
  let b := codeBits tag
  let c := v % 2 ^ b
  if isMxi tag && c.testBit (b - 1) then c + (2 ^ cbits tag - 2 ^ b) else c

/-- A line with containers given by a function. -/
def lineOfElems (tag : Nat) (f : Nat → Nat) : LineBits :=
  BitVec.ofNat 2048 ((List.range (elems tag)).foldl
    (fun a m => a + f m % 2 ^ cbits tag * 2 ^ (m * cbits tag)) 0)

/-- The bits of the containers that a test chooses. -/
def elemMask (tag : Nat) (p : Nat → Bool) : LineBits :=
  lineOfElems tag fun m => if p m then 2 ^ cbits tag - 1 else 0

/-- A predicate governs an element (R222, R235). -/
def governed (p : BitVec 256) (tag m : Nat) : Bool := p.getLsbD (if elems tag ≤ 256 then m else m / 2)

/-! ### Lines of the executing context -/

/-- A tile-form line read at issue. -/
def State.tileLine (s : State) (t : TileLine) : LineBits :=
  (s.me.tile t.tile.toNat).readLine t.dir (TileLine.index t s.sq)

/-- The tag of a line's tile. -/
def State.tileTag (s : State) (t : TileLine) : Nat := (s.me.tile t.tile.toNat).tag

/-- The trap of an uncorrectable cell that a source line reads (06 R140). -/
def State.tileEcc (s : State) (t : TileLine) : Option Trap :=
  ((s.me.tile t.tile.toNat).badCell t.dir (TileLine.index t s.sq)).map fun c => eccTile t.tile.toNat c.1

/-- The first trap of some lines. -/
def State.eccOf (s : State) (l : List TileLine) : Option Trap := l.findSome? s.tileEcc

/-- The trap of an uncorrectable cell that a write would merge into (06 R140). -/
def State.mergeEcc (s : State) (d : TileLine) (mask : LineBits) : Option Trap :=
  let t := s.me.tile d.tile.toNat
  if t.bad.isEmpty then none else
  let j := TileLine.index d s.sq
  ((List.range 64).find? fun i =>
    let m := lineCell mask i
    m != 0 && m != BitVec.allOnes 32 && t.bad.get false ((Dir.cell d.dir j i).1 * 64 + (Dir.cell d.dir j i).2)).map
      fun i => eccTile d.tile.toNat (Dir.cell d.dir j i).1

/-- The whole cells of which a mask holds a bit. -/
def wholeCells (mask : LineBits) : LineBits := lineOf fun i => if lineCell mask i = 0 then 0 else BitVec.allOnes 32

/-- A line written under a mask, whose cells keep elsewhere the bits that they held at issue, with the tag where it changes
at retire (R222, 10 R237). -/
def State.lineEffects (s : State) (d : TileLine) (tag : Nat) (v mask : LineBits) : List Effect :=
  let j := TileLine.index d s.sq
  let old := (s.me.tile d.tile.toNat).rawLine d.dir j
  [.line d j (maskBits old v mask) (wholeCells mask), .retag d.tile.toNat tag]

/-- The retire of a line result: its flags too; an uncorrectable cell merged into traps (06 R140). -/
def State.lineDone (s : State) (d : TileLine) (tag : Nat) (v mask : LineBits) (fl : FFlags) (more : List Effect) :
    Result :=
  match s.mergeEcc d mask with
  | some t => .trap t
  | none => .ok { s := s, eff := s.lineEffects d tag v mask ++ .flags fl.bits :: more }

/-- Locations that a vector word reads: index registers, tiles, a predicate, and MODE (R29). -/
def lineLocs (ts : List TileLine) (p : BitVec 3) : List Loc :=
  .sr 2 :: (if p = 0 then [] else [.p p.toNat]) ++ ts.flatMap fun t => .tile t.tile.toNat :: idxLoc t

/-! ### Conversion of one element (Table 9.7) -/

/-- An integer limited to a format: its code, and whether it saturated. DEDUCED, unsafe: log 31. -/
def satInt (w : Nat) (signed : Bool) (v : Int) : Nat × Bool :=
  let lo : Int := if signed then -(2 ^ (w - 1)) else 0
  let hi : Int := if signed then 2 ^ (w - 1) - 1 else 2 ^ w - 1
  if v < lo then ((lo + 2 ^ w).toNat % 2 ^ w, true)
  else if hi < v then (hi.toNat, true)
  else ((v + 2 ^ w).toNat % 2 ^ w, false)

/-- The value of an integer code. -/
def intVal (w : Nat) (signed : Bool) (c : Nat) : Int := if signed then signedOf' w c else (c : Int)
where
  /-- Two's complement. -/
  signedOf' (w c : Nat) : Int := if c < 2 ^ (w - 1) then (c : Int) else (c : Int) - 2 ^ w

/-- A value converted to a floating format: NaNs become canonical, with nv for a signalling one. -/
def toFmt (f : Fmt) (rm : Nat) (sat fz : Bool) (v : FV) : Nat × FFlags :=
  match v with
  | .nan sig => (f.nan, { nv := sig })
  | .inf _ => f.pack rm sat fz v
  | .fin n m e => f.round rm sat fz n m e

/-- A value converted to an integer format. DEDUCED, unsafe: log 31. -/
def toInt (w : Nat) (signed : Bool) (rm : Nat) (v : FV) : Nat × FFlags :=
  match v with
  | .nan _ => (0, { nv := true })
  | .inf n => ((satInt w signed (if n then -(2 ^ 64) else 2 ^ 64)).1, { nv := true })
  | .fin n m e =>
    let (i, ix) := roundInt rm n m e
    let (c, sat) := satInt w signed i
    (c, { nv := sat, nx := sat || ix })

/-- Convert of R224. -/
def convElem (sf df rm : Nat) (sat fz : Bool) (c : Nat) : Nat × FFlags :=
  match tagFmt sf, tagInt sf, tagFmt df, tagInt df with
  | some f, _, some g, _ => toFmt g rm sat fz (f.value fz c)
  | some f, _, _, some (w, sg) => toInt w sg rm (f.value fz c)
  | _, some (w, sg), some g, _ =>
    let v := intVal w sg c
    g.round rm sat fz (decide (v < 0)) v.natAbs 0
  | _, some (w, sg), _, some (w', sg') =>
    let (r, s) := satInt w' sg' (intVal w sg c)
    (r, { nv := s, nx := s })
  | _, _, _, _ => (0, {})

/-- Codes and flags of the governed elements. -/
def convAll (n : Nat) (gov : Nat → Bool) (f : Nat → Nat × FFlags) : List Nat × FFlags :=
  (List.range n).foldl (fun a m =>
    if gov m then
      let (c, fl) := f m
      (a.1 ++ [c], a.2.or fl)
    else (a.1 ++ [0], a.2)) ([], {})

end Sys2Proof.Machine
end

