-- ==== Sys2Proof/Machine/Matrix.lean ====
section
/-! DEFINITION. Matrix instructions: shapes, records and checks (11 R256 to R263), and the issue of each
instruction (R264 to R275, R280). -/
namespace Sys2Proof.Machine

/-! ### The shape word (Table 11.3) -/

/-- M. -/
def shM (w : Word) : Nat := (w.extractLsb' 0 7).toNat + 1

/-- N. -/
def shN (w : Word) : Nat := (w.extractLsb' 8 7).toNat + 1

/-- K / 32. -/
def shBlocks (w : Word) : Nat := (w.extractLsb' 16 8).toNat + 1

/-- Digits of a precision (R256). -/
def digitsOf (p : Nat) : Nat := mxiBits p / 2
where
  /-- Bits of a precision (R221). -/
  mxiBits (p : Nat) : Nat := if p = 0 then 4 else if p = 1 then 6 else if p = 2 then 8 else if p = 3 then 12 else 16

/-- Digits of A. -/
def shDa (w : Word) : Nat := digitsOf (w.extractLsb' 24 3).toNat

/-- Digits of B. -/
def shDb (w : Word) : Nat := digitsOf (w.extractLsb' 27 3).toNat

/-- The nsc field. -/
def shNsc (w : Word) : Nat := (w.extractLsb' 32 4).toNat

/-- Ns of a sparse B. -/
def shNs (w : Word) : Nat := 4 * (shNsc w + 3)

/-- B is sparse. -/
def shSparse (w : Word) : Bool := shNsc w != 0

/-- Records of one whole pair (R260). -/
def pairRecords (scales : Bool) (sparse : Bool) (ns d : Nat) : Nat :=
  bitNum scales + (if sparse then 4 + (ns + 7) / 8 * d else 8 * d)

/-- Records that `blocks` blocks of an operand take, from the first on (R260). -/
def operandRecords (scales sparse : Bool) (ns d blocks : Nat) : Nat :=
  blocks / 2 * pairRecords scales sparse ns d + blocks % 2 * (bitNum scales + 4 * d)

/-- Records of A in one whole pair. -/
def shPairA (w : Word) : Nat := pairRecords (!w.getLsbD 30) false 0 (shDa w)

/-- Records of B in one whole pair. -/
def shPairB (w : Word) : Nat := pairRecords (!w.getLsbD 31) (shSparse w) (shNs w) (shDb w)

/-- Records of A in all. -/
def shRecordsA (w : Word) : Nat := operandRecords (!w.getLsbD 30) false 0 (shDa w) (shBlocks w)

/-- Records of B in all. -/
def shRecordsB (w : Word) : Nat := operandRecords (!w.getLsbD 31) (shSparse w) (shNs w) (shDb w) (shBlocks w)

/-- The touched tiles (R263). -/
def touched (acc : Nat) (w : Word) : List Nat :=
  (List.range ((shM w + 63) / 64)).flatMap fun a => (List.range ((shN w + 63) / 64)).map fun b => acc + 2 * a + b

/-! ### Checks -/

/-- The shape register, unless an MSHAPE of X has not retired. -/
def State.shapeNow (s : State) : Option Word := if s.sq.pending .shape then none else s.me.matrix.shape

/-- The address that a barrier operand gives (R268). -/
def barrierAddr (bo : Spec) (v : Word) : Option Nat := if bo = .s 0 then none else some v.toNat

/-- The trap of a barrier address (R268). -/
def Ctx.barrierTrap (c : Ctx) : Option Nat → Option Trap
  | none => none
  | some a =>
    if c.allocatedRange a 16 = false then some (Trap.plain .spadRange)
    else if a % 16 ≠ 0 then some (Trap.plain .align)
    else none

/-- The barrier operand (R268): its address, or its trap. -/
def Ctx.barrierCheck (c : Ctx) (bo : Spec) (v : Word) : Except Trap (Option Nat) :=
  match c.barrierTrap (barrierAddr bo v) with
  | some t => .error t
  | none => .ok (barrierAddr bo v)

/-- Borrowed operands raise the class (Table 11.6). -/
def Ctx.mmaClass (c : Ctx) (acc : Nat) (gens : List Nat) : Nat :=
  if 32 ≤ acc ∨ (gens.any fun g => match (c.gen g).cfg with | some k => decide (2 ^ 21 ≤ k.base) | none => false) then 13
  else 12

/-- The resume record that an issue at this word takes up (R278). -/
def State.resumeOf (s : State) (opc : Nat) : Option Resume :=
  s.me.matrix.resume.filter fun r => decide (r.pc = s.sq.pc ∧ r.opc = opc)

/-- The accumulator tags of a start without init pass (R263). -/
def Ctx.tagsOk (c : Ctx) (acc : Nat) (w : Word) : Bool :=
  (touched acc w).all fun t => decide ((c.tile t).tag ≤ 1)

/-! ### Issue of a multiply -/

/-- A binding that joint operations may use. -/
def Binding.whole (b : Binding) : Bool := b.phase == 2 && !b.broken

/-- The request of MMA, MMAS or MMAC. `ga` and `gb` are the generators that it reads itself; one that gives both operands
needs the records of both. Every shape touches the first tile and takes a record of each operand, so an instruction that
finds no valid shape still needs those (R40, R119, R267). -/
def mmaReq (i : Instr) (opc : Nat) (cm : Common) (acc : BitVec 6) (ga gb : Option Nat) (bo : Spec) (cls : Nat)
    (s : State) : Req :=
  let sh := s.shapeNow
  let ts := match sh with | some w => touched acc.toNat w | none => [acc.toNat]
  let a := match sh with | some w => shRecordsA w | none => 1
  let b := match sh with | some w => shRecordsB w | none => 1
  let both := ga.isSome && ga == gb
  { opc := opc, cm := cm, wf := i.wellFormed, cls := cls, clsLate := opc != 0xB3, srcs := [bo]
    tiles := ts
    gens := (ga.toList.map fun g => ⟨g, false, if both then a + b else a, false⟩) ++
      gb.toList.map fun g => ⟨g, false, if both then a + b else b, false⟩
    hold := s.me.matrix.run.isSome
    reads := [.shape, .sr 2], writes := (if opc = 0xB3 then [.all] else []) ++ ts.map .tile, sticky := [.sr 4] }

/-- A run's checks at its check point, beside its shape's (R263, R268, R278): an MMAC's is its joint start (R275). -/
def Ctx.runTrap (c : Ctx) (r : MatRun) : Option Trap :=
  if !r.resumed && !r.init && !c.tagsOk r.acc r.shape then some (Trap.plain .fmtMismatch) else c.barrierTrap r.bar

/-- The run that a multiply enters the engine with, where its checks pass (R262, R263, R268, R278). -/
def State.startMma (s : State) (opc acc ga gb : Nat) (bo : Spec) (v : Word) (init : Bool) (ok : Word → Bool) :
    Result :=
  let c := s.me
  match c.matrix.shape with
  | none => .trap (Trap.plain .shape)
  | some w =>
    let r := s.resumeOf opc
    let run : MatRun :=
      { opc := opc, pc := s.sq.pc, acc := acc, ga := ga, gb := gb, bar := barrierAddr bo v, init := init
        shape := (match r with | some r => r.shape | none => w), fz := c.fzOn
        apos := (match r with | some r => r.apos | none => (c.gen ga).pos)
        bpos := (match r with | some r => r.bpos | none => (c.gen gb).pos)
        blocks := (match r with | some r => r.blocks | none => 0)
        flags := 0, lines := 0, uid := s.nextUid, started := opc != 0xB3, resumed := r.isSome, scales := [] }
    if !ok w then .trap (Trap.plain .shape)
    else match (if opc = 0xB3 then none else c.runTrap run) with
      | some t => .trap t
      | none =>
        let b := c.matrix.binding.map fun b => if opc = 0xB3 then { b with joints := b.joints + 1 } else b
        .ok { s := ({ s with nextUid := s.nextUid + 1 } : State).setMe
                { c with matrix := { c.matrix with run := some run, binding := b } }
              gate := .matrix }

/-- MMA (R264). -/
def execMma (cm : Common) (acc : BitVec 6) (ga gb : BitVec 3) (bo : Spec) (init : Bool) (s : State) : Out :=
  issue (mmaReq (.mma cm acc ga gb bo init) 0xB1 cm acc (some ga.toNat) (some gb.toNat) bo
      (s.me.mmaClass acc.toNat [ga.toNat, gb.toNat]) s)
    (fun s w _ => s.startMma 0xB1 acc.toNat ga.toNat gb.toNat bo (w.getD 0 0) init
      fun sh => !shSparse sh && !sh.getLsbD 36) s

/-- MMAS (R269). -/
def execMmas (cm : Common) (acc : BitVec 6) (ga gb : BitVec 3) (bo : Spec) (init : Bool) (s : State) : Out :=
  issue (mmaReq (.mmas cm acc ga gb bo init) 0xB2 cm acc (some ga.toNat) (some gb.toNat) bo
      (s.me.mmaClass acc.toNat [ga.toNat, gb.toNat]) s)
    (fun s w _ => s.startMma 0xB2 acc.toNat ga.toNat gb.toNat bo (w.getD 0 0) init
      fun sh => shSparse sh && !sh.getLsbD 36) s

/-- MMAC (R275): the generator of an operand that it receives is neither read nor checked. -/
def execMmac (cm : Common) (acc : BitVec 6) (ga gb : BitVec 3) (bo : Spec) (init : Bool) (s : State) : Out :=
  let b := s.me.matrix.binding
  let own (bit : Nat) : Bool := match b with | some b => b.whole && !b.role.testBit bit | none => false
  issue (mmaReq (.mmac cm acc ga gb bo init) 0xB3 cm acc (if own 0 then some ga.toNat else none)
      (if own 1 then some gb.toNat else none) bo 14 s)
    (fun s w _ =>
      if !(match b with | some b => b.whole | none => false) then .trap (Trap.plain .queueFault)
      else s.startMma 0xB3 acc.toNat ga.toNat gb.toNat bo (w.getD 0 0) init fun sh => sh.getLsbD 36) s

/-! ### MSHAPE and MZERO (R262, R272) -/

/-- MSHAPE. -/
def execMshape (cm : Common) (shape : Word) (s : State) : Out :=
  issue { opc := 0xB0, cm := cm, wf := (Instr.mshape cm shape).wellFormed, long := true, writes := [.shape] }
    (fun s _ _ => .ok { s := s, eff := [.shape (shape ||| (1#64 <<< 63))] }) s

/-- A run that only writes what its retire holds. -/
def State.plainRun (s : State) (opc acc ga lines : Nat) (bar : Option Nat) : State :=
  let c := s.me
  let run : MatRun :=
    { opc := opc, pc := s.sq.pc, acc := acc, ga := ga, gb := ga, bar := bar, init := false, shape := 0
      fz := false, apos := 0, bpos := 0, blocks := 0, flags := 0, lines := lines, uid := s.nextUid
      started := true, resumed := false, scales := [] }
  ({ s with nextUid := s.nextUid + 1 } : State).setMe { c with matrix := { c.matrix with run := some run } }

/-- MZERO. -/
def execMzero (cm : Common) (acc : BitVec 6) (bo : Spec) (s : State) : Out :=
  let ts := (List.range 4).map (acc.toNat + ·)
  issue { opc := 0xB4, cm := cm, wf := (Instr.mzero cm acc bo).wellFormed, cls := 2, srcs := [bo], tiles := ts
          hold := s.me.matrix.run.isSome, reads := [.shape], writes := ts.map .tile }
    (fun s w _ =>
      match s.me.barrierCheck bo (w.getD 0 0) with
      | .error t => .trap t
      | .ok bar =>
        .ok { s := s.plainRun 0xB4 acc.toNat 0 0 bar, gate := .matrix
              eff := .zzero acc.toNat 4 :: ts.map fun t => .tag t 1 }) s

/-! ### MPLANE and MSPACK (R270, R271) -/

/-- Tag of a precision code. -/
def fmtTag (fmt : Nat) : Nat := 12 + fmt

/-- A source tile of a fmt passes its tag check. -/
def planeTagOk (fmt tag : Nat) : Bool := tag == 0 || tag == fmtTag fmt || (fmt == 2 && tag == 8)

/-- The code of element `k` of row `r` of a pair of tiles. -/
def Ctx.rowCode (c : Ctx) (acc fmt r k : Nat) : Nat :=
  let t := c.tile (acc + r / 64)
  elem (fmtTag fmt) (t.readLine .row (r % 64)) k % 2 ^ (2 * digitsOf fmt)

/-- Digit `t` of a code. -/
def digit (code t : Nat) : Nat := code / 4 ^ t % 4

/-- A record from a 16-bit value for each of 128 rows (R258). -/
def recordOf (f : Nat → Nat) : LineBits :=
  BitVec.ofNat 2048 ((List.range 128).foldl (fun a r => a + f r % 2 ^ 16 * 2 ^ (16 * r)) 0)

/-- The plane of digit `t` of 8 codes of each row. -/
def planeOf (code : Nat → Nat → Nat) (t : Nat) : LineBits :=
  recordOf fun r => (List.range 8).foldl (fun a k => a + digit (code r k) t * 4 ^ k) 0

/-- The plane records of one block (R270). -/
def Ctx.planes (c : Ctx) (acc fmt block : Nat) : List LineBits :=
  (List.range 4).flatMap fun q => (List.range (digitsOf fmt)).map fun t =>
    planeOf (fun r k => c.rowCode acc fmt r (32 * block + 8 * q + k)) t

/-- The magnitude of a code of `p` bits. -/
def codeMag (p code : Nat) : Nat := if code < 2 ^ (p - 1) then code else 2 ^ p - code

/-- The positions that MSPACK keeps of 64 codes: the `ns` of greatest magnitude, ties to the lower (R271). -/
def keptPositions (p ns : Nat) (codes : List Nat) : List Nat :=
  let m := codes.map (codeMag p)
  (List.range 64).filter fun k =>
    decide (((List.range 64).filter fun j =>
      decide (m.getD k 0 < m.getD j 0) || (m.getD j 0 == m.getD k 0 && decide (j < k))).length < ns)

/-- The 64 codes of a row in a group. -/
def Ctx.groupCodes (c : Ctx) (acc fmt group r : Nat) : List Nat :=
  (List.range 64).map fun k => c.rowCode acc fmt r (64 * group + k)

/-- The mask and packed records of one group, and how many rows lost a code (R269, R271). -/
def Ctx.packed (c : Ctx) (acc fmt group ns : Nat) : List LineBits × Nat :=
  let p := 2 * digitsOf fmt
  let rows := (List.range 128).map fun r =>
    let codes := c.groupCodes acc fmt group r
    (codes, keptPositions p ns codes)
  let maskOf (r : Nat) : Nat := ((rows.getD r ([], [])).2).foldl (fun a k => a + 2 ^ k) 0
  let masks := (List.range 4).map fun j =>
    BitVec.ofNat 2048 ((List.range 32).foldl (fun a i => a + maskOf (32 * j + i) * 2 ^ (64 * i)) 0)
  let code (q r k : Nat) : Nat :=
    let row := rows.getD r ([], [])
    match row.2[8 * q + k]? with
    | some x => row.1.getD x 0
    | none => 0
  let planes := (List.range ((ns + 7) / 8)).flatMap fun q =>
    (List.range (digitsOf fmt)).map fun t => planeOf (code q) t
  (masks ++ planes, (rows.filter fun r => decide (ns < (r.1.filter (· != 0)).length)).length)

/-- An uncorrectable cell of the two source tiles (06 R140). -/
def Ctx.pairEcc (c : Ctx) (acc : Nat) : Option Trap :=
  [acc, acc + 1].findSome? fun t =>
    let x := c.tile t
    if x.tag = 0 then none else x.bad.head?.map fun e => eccTile t (e.1 / 64)

/-- An uncorrectable word that MPLANE or MSPACK reads or merges into: in the two source tiles, or under the lines that it
pushes (06 R140). -/
def Ctx.planeEcc (c : Ctx) (acc ga lines : Nat) : Option Trap :=
  match c.pairEcc acc with
  | some t => some t
  | none => c.pushEcc ga lines

/-- The request of MPLANE or MSPACK. -/
def planeReq (i : Instr) (opc : Nat) (cm : Common) (acc : BitVec 6) (ga : BitVec 3) (bo : Spec) (lines : Nat)
    (s : State) : Req :=
  let ts := [acc.toNat, acc.toNat + 1]
  { opc := opc, cm := cm, wf := i.wellFormed, cls := 4, srcs := [bo], tiles := ts
    gens := [⟨ga.toNat, true, lines, false⟩], hold := s.me.matrix.run.isSome
    reads := .shape :: ts.map .tile }

/-- MPLANE. -/
def execMplane (cm : Common) (acc : BitVec 6) (ga : BitVec 3) (bo : Spec) (fmt block : BitVec 3) (s : State) : Out :=
  let n := 4 * digitsOf fmt.toNat
  issue (planeReq (.mplane cm acc ga bo fmt block) 0xB5 cm acc ga bo n s)
    (fun s w _ =>
      let c := s.me
      if !(planeTagOk fmt.toNat (c.tile acc.toNat).tag && planeTagOk fmt.toNat (c.tile (acc.toNat + 1)).tag) then
        .trap (Trap.plain .fmtMismatch)
      else match c.barrierCheck bo (w.getD 0 0), c.planeEcc acc.toNat ga.toNat n with
        | .error t, _ => .trap t
        | .ok _, some t => .trap t
        | .ok bar, none =>
          .ok { s := s.plainRun 0xB5 acc.toNat ga.toNat n bar, gate := .matrix
                eff := (c.planes acc.toNat fmt.toNat block.toNat).map fun l => .genLine ga.toNat l }) s

/-- MSPACK. Without a sparse shape it still pushes at least a line (R40). -/
def execMspack (cm : Common) (acc : BitVec 6) (ga : BitVec 3) (bo : Spec) (fmt : BitVec 3) (group : BitVec 2)
    (s : State) : Out :=
  let lines (w : Word) : Nat := 4 + (shNs w + 7) / 8 * digitsOf fmt.toNat
  let need := match s.shapeNow with | some w => if shSparse w then lines w else 1 | none => 1
  issue (planeReq (.mspack cm acc ga bo fmt group) 0xB6 cm acc ga bo need s)
    (fun s w _ =>
      let c := s.me
      match c.matrix.shape.filter shSparse with
      | none => .trap (Trap.plain .shape)
      | some sh =>
        if !(planeTagOk fmt.toNat (c.tile acc.toNat).tag && planeTagOk fmt.toNat (c.tile (acc.toNat + 1)).tag) then
          .trap (Trap.plain .fmtMismatch)
        else match c.barrierCheck bo (w.getD 0 0), c.planeEcc acc.toNat ga.toNat (lines sh) with
          | .error t, _ => .trap t
          | .ok _, some t => .trap t
          | .ok bar, none =>
            let r := c.packed acc.toNat fmt.toNat group.toNat (shNs sh)
            let s := s.plainRun 0xB6 acc.toNat ga.toNat (lines sh) bar
            .ok { s := s.setMe { s.me with matrix := { s.me.matrix with pruned := r.2 } }, gate := .matrix
                  eff := r.1.map fun l => .genLine ga.toNat l }) s

/-! ### Quads (R273, R274) -/

/-- The core of a role in a binding word (Table 11.4). -/
def roleCore (w : Word) (role : Nat) : Nat := (w.extractLsb' (8 * role) 6).toNat

/-- The binding word passes Table 11.4 and the checks on its cores (R273). -/
def State.bindWordOk (s : State) (w : Word) (role : Nat) : Bool :=
  let cs := (List.range 4).map (roleCore w)
  let cl := clusterOf s.who.core
  decide (w &&& 0x00000000C0C0C0C0 = 0) && decide cs.Nodup &&
    cs.all (fun n => clusterOf n == cl && (s.part s.me.part).cores.getLsbD n) && roleCore w role == s.who.core

/-- A context's OQBIND stands issued at the head of X and waits for the other members (R273). -/
def Ctx.binds (c : Ctx) : Bool := c.stop.isNone && !c.handler && c.seq.x.waiting == some ⟨7, 0⟩

/-- The context that holds a role of a binding, in a phase: its core and slot. A member that has come counts while its
OQBIND waits. -/
def State.memberAt (s : State) (guest : Nat) (w : Word) (phase role : Nat) : Option (Nat × Nat) :=
  let core := roleCore w role
  ((s.onCore core).find? fun e => e.2.guest == guest &&
    match e.2.matrix.binding with
    | some b => decide (b.word = w ∧ b.role = role) && b.phase == phase && (phase != 0 || e.2.binds)
    | none => false).map fun e => (core, e.1)

/-- Another context of a core holds its operand queues. -/
def State.queuesHeld (s : State) (core slot : Nat) : Bool :=
  (s.onCore core).any fun e => e.1 != slot &&
    match e.2.matrix.binding with
    | some b => b.phase != 0
    | none => false

/-- A context's binding replaced. -/
def State.setBinding (s : State) (core slot : Nat) (b : Option Binding) : State :=
  let c := s.ctx core slot
  s.setCtx core slot { c with matrix := { c.matrix with binding := b } }

/-- The four members meet once each has come and no other binding holds their operand queues (R273): each is
bound, and its OQBIND waits no more. DEDUCED, safe: log 89. -/
def State.meet (s : State) (guest : Nat) (w : Word) : State :=
  let ms := (List.range 4).filterMap (s.memberAt guest w 0)
  if ms.length = 4 ∧ (ms.all fun m => !s.queuesHeld m.1 m.2) = true then
    ms.foldl (fun s m =>
      let c := s.ctx m.1 m.2
      let b := c.matrix.binding.map fun b => { b with phase := 1 }
      let x := { c.seq.x with waiting := none, waited := 0 }
      s.setCtx m.1 m.2 { c.setSeq .x x with matrix := { c.matrix with binding := b } }) s
  else s

/-- A word's own queue source as it stands at the head, for a wait that must be judged before issue. -/
def State.peekSource (s : State) (a : Spec) : Word :=
  match a with
  | .q z => ((s.me.chan .data (chanIx z s.who.y)).avail.head?.map (·.v)).getD 0
  | .s _ | .li _ => s.sq.peek a

/-- OQBIND: the coming of a member is recorded while it waits. DEDUCED, safe: log 89. -/
def execOqbind (cm : Common) (a : Spec) (role : BitVec 2) (s : State) : Out :=
  let r : Req := { opc := 0xB7, cm := cm, wf := (Instr.oqbind cm a role).wellFormed, srcs := [a] }
  let w := s.peekSource a
  let b := s.me.matrix.binding
  let ready := (r.preTrap s.me s.who.y).isNone && !s.timeoutDue && (r.firstWait s.me s.who.y).isNone &&
    !r.held s.me s.sq
  let same (b : Binding) : Bool := decide (b.word = w ∧ b.role = role.toNat)
  let repeated := (s.onCore s.who.core).any fun e => e.1 != s.who.slot &&
    match e.2.matrix.binding with | some x => same x | none => false
  let fresh : Bool := match b with | none => true | some b => b.phase == 0
  let s := if ready && fresh && s.bindWordOk w role.toNat && !repeated then
      ((s.setBinding s.who.core s.who.slot (some ⟨w, w, role.toNat, 0, false, 0⟩)).countWait ⟨7, 0⟩).meet s.me.guest w
    else s
  issue r (fun s l _ =>
    let w := l.getD 0 0
    match s.me.matrix.binding with
    | some b =>
      if b.phase = 1 ∧ b.orig = w ∧ b.role = role.toNat then
        .ok { s := s.setBinding s.who.core s.who.slot (some { b with phase := 2 }) }
      else if b.phase = 0 ∧ b.word = w ∧ b.role = role.toNat ∧ s.bindWordOk w role.toNat = true then .waitOn ⟨7, 0⟩
      else .trap (Trap.plain .queueFault)
    | none => .trap (Trap.plain .queueFault)) s

/-- The members of a context's binding that are bound: core and slot. -/
def State.quad (s : State) (core slot : Nat) : List (Nat × Nat) :=
  let c := s.ctx core slot
  match c.matrix.binding with
  | none => []
  | some b => (List.range 4).filterMap fun r =>
      ((s.onCore (roleCore b.word r)).find? fun e => e.2.guest == c.guest &&
        match e.2.matrix.binding with
        | some x => decide (x.word = b.word ∧ x.role = r ∧ 1 ≤ x.phase)
        | none => false).map fun e => (roleCore b.word r, e.1)

/-- A context's unstarted MMAC stops with a trap after issue (R275). -/
def Ctx.dropMmac (c : Ctx) (t : Trap) : Ctx :=
  match c.matrix.run, c.seq.x.inflight.getLast? with
  | some r, some p =>
    if r.opc = 0xB3 ∧ r.started = false then
      let b := c.matrix.binding.map fun b => { b with joints := b.joints - 1 }
      ({ c with matrix := { c.matrix with run := none, binding := b } }.undo .x p).takeTrap .x { t with after := true }
    else c
  | _, _ => c

/-- A member leaves its binding: the binding of the others is broken (R274). -/
def State.leaveQuad (s : State) (core slot : Nat) : State :=
  let others := (s.quad core slot).filter fun m => m != (core, slot)
  let s := others.foldl (fun s m =>
    let c := s.ctx m.1 m.2
    let b := c.matrix.binding.map fun b => { b with broken := true }
    let c : Ctx := { c with matrix := { c.matrix with binding := b } }
    s.setCtx m.1 m.2 (c.dropMmac (Trap.plain .queueFault))) s
  s.setBinding core slot none

/-- A joint operation in which a context took part has not retired on some member. -/
def State.jointsOpen (s : State) (core slot : Nat) : Bool :=
  (s.quad core slot).any fun m =>
    match (s.ctx m.1 m.2).matrix.run with
    | some r => r.opc == 0xB3 && r.started
    | none => false

/-- OQUNBIND (R274): its wait is no coupling wait. A binding whose members have not met binds nothing. -/
def execOqunbind (cm : Common) (s : State) : Out :=
  issue { opc := 0xB8, cm := cm, wf := (Instr.oqunbind cm).wellFormed, hold := s.me.matrix.run.isSome }
    (fun s _ _ =>
      match s.me.matrix.binding.filter fun b => b.phase == 2 with
      | none => .trap (Trap.plain .queueFault)
      | some _ =>
        if s.jointsOpen s.who.core s.who.slot then .wait
        else .ok { s := s.leaveQuad s.who.core s.who.slot }) s

/-! ### MSTAT (R280) -/

/-- Progress of a run or of a resume record, as R268 counts it. -/
def progressOf (opc blocks lines : Nat) : Nat :=
  if opc = 0xB2 then blocks / 2 else if opc = 0xB5 ∨ opc = 0xB6 then lines else blocks

/-- The word of Table 11.5. -/
def mstatWord (m : Matrix) : Word :=
  let p := match m.run, m.resume with
    | some r, _ => progressOf r.opc r.blocks 0
    | none, some r => progressOf r.opc r.blocks 0
    | none, none => 0
  BitVec.ofNat 64 (bitNum m.run.isSome + 2 * bitNum m.resume.isSome + m.pruned * 2 ^ 8 + m.lastKind * 2 ^ 16 + p * 2 ^ 32)

/-- The binding word as MSTAT reads it. -/
def bindWord (m : Matrix) : Word :=
  match m.binding with
  | some b => if 2 ≤ b.phase then b.word ||| BitVec.ofNat 64 (b.role * 2 ^ 6 + 2 ^ 14) else 0
  | none => 0

/-- MSTAT. -/
def execMstat (cm : Common) (d : Spec) (item : BitVec 2) (s : State) : Out :=
  issue { opc := 0xB9, cm := cm, wf := (Instr.mstat cm d item).wellFormed, dst := some d
          reads := if item = 0 then [.shape] else [] }
    (fun s _ _ =>
      let m := s.me.matrix
      .ok { s := s, eff := Spec.write s.who.y d
              (if item = 0 then m.shape.getD 0 else if item = 1 then mstatWord m else bindWord m) }) s

end Sys2Proof.Machine
end

