-- ==== Sys2Proof/Machine/Tasks.lean ====
section
/-! DEFINITION. Feed and task instructions (12 R299 to R306), and what Bazaar does with tasks (R294 to R296). -/
namespace Sys2Proof.Machine

/-! ### Handles and records (R299) -/

/-- The queue that a handle binds, of one of some kinds: 0 feed, 1 task, 2 launch. -/
def State.handleQueue (s : State) (n : Nat) (kinds : List Nat) : Option Nat :=
  let h := s.me.tasks.handles.get default n
  if h.valid && kinds.contains h.kind && (s.queue h.queue).kind == h.kind then some h.queue else none

/-- A little-endian field of a record. -/
def recField (bs : List Byte) (o n : Nat) : Nat := leNat ((bs.drop o).take n)

/-- The bytes of a scratchpad record, or the trap that reading it takes (R299). -/
def State.readRecord (s : State) (a : Word) (n align : Nat) : Except Trap (List Byte) :=
  match s.me.spadCheck a.toNat n align with
  | some t => .error t
  | none =>
    match s.me.spad.badAddr a.toNat n with
    | some x => .error (Trap.at .eccUncorr (BitVec.ofNat 64 x))
    | none => .ok (s.me.spad.load s.sq.know s.free a.toNat n)

/-- What the executing sequencer hands over with a release at sc2 (R301, R303). -/
def State.carry2 (s : State) : Carry := ⟨s.sq.pts, s.sq.know.release (s.myScope 2)⟩

/-- What the executing sequencer takes of a release by an acquire at sc2 (R300, R304). -/
def State.take2 (s : State) (k : Carry) : State := s.setSq (s.sq.receive ⟨k.pts, k.know.acquire (s.myScope 2)⟩)

/-- The number of the executing context's slot. -/
def State.myKey (s : State) : Nat := s.who.core * 4 + s.who.slot

/-! ### FEEDPOP (R300) -/

/-- Bit `n` of a group's status (Table 12.10). -/
def Dram.groupBit (d : Dram) (pa n : Nat) : Bool := (d.bytes.num (pa + 2) 2).testBit n

/-- The state word of a sibling (Table 12.9). -/
def Dram.sibling (d : Dram) (pa i : Nat) : Nat := d.bytes.num (pa + 640 + 4 * i) 4

/-- Device memory at the homes of the eight lines of a descriptor. -/
def State.groupHome (s : State) (part pa : Nat) : Dram :=
  (List.range 8).foldl (fun d i => ({ s with dram := d } : State).home part (pa + 128 * i)) s.dram

/-- The times and bytes of one access of T by the home of a descriptor (R307): its eight lines take one time,
and word 0 carries the release. -/
def Dram.groupWrite (d : Dram) (pts pa : Nat) (ws : List (Nat × List Byte)) (rel : Know) : Dram × Nat :=
  let t := (List.range 8).foldl (fun t i => max t ((d.line (pa + 128 * i)).rts + 1)) pts
  ({ d with
     bytes := ws.foldl (fun m w => m.write (pa + w.1) w.2) d.bytes
     lines := (List.range 8).foldl (fun l i => l.put d.unlisted (pa / 128 + i) ⟨t, t⟩) d.lines
     rel := relWrite d.rel pa 8 rel true }, t)

/-- An access of T by the home of a descriptor, of a guest in a partition, at or after a time, and the dependence checks
that follow it (R294, R307): the state and the access's time. -/
def State.groupPut (s : State) (part pts pa : Nat) (ws : List (Nat × List Byte)) (rel : Know) : State × Nat :=
  let (d, t) := (s.groupHome part pa).groupWrite pts pa ws rel
  (({ s with dram := d } : State).noteCounters, t)

/-- What follows the marking of a continuation's sibling as held by the executing context (R300); it waits where the
access to its descriptor does. -/
def State.holdSibling (s : State) (bs : List Byte) (k : State → Result) : Result :=
  let va := recField bs 8 8
  let i := recField bs 1 1 % 64
  if recField bs 0 1 ≠ 1 ∨ va % 1024 ≠ 0 then k s
  else match s.reachXlat false .write va 1 with
    | .wait s' t => .enlist fun z => z.walked s' t
    | .trap s' t _ => k (s.walked s' t)
    | .ok s pa kind =>
      if kind ≠ 0 ∨ fitted pa = false ∨ s.dram.groupBit pa 0 = false ∨ s.dram.sibling pa i % 4 ≠ 0 then k s
      else if s.locked pa then Result.wait.afterWalk s
      else
        let w := s.dram.sibling pa i % 8 + 8 + (s.who.core + s.who.slot * 2 ^ 6) * 2 ^ 4
        let (s, _) := s.groupPut s.me.part s.sq.pts pa [(640 + 4 * i, leBytes 4 w)] []
        let c := s.me
        k (s.setMe { c with tasks := { c.tasks with siblings := (pa, i) :: c.tasks.siblings } })

/-- FEEDPOP (R300): the oldest record is claimed at issue and written at retire. DEDUCED, unsafe: log 47. -/
def execFeedpop (cm : Common) (d : Spec) (f : BitVec 4) (a : Spec) (s : State) : Out :=
  issue { opc := 0xC0, cm := cm, wf := (Instr.feedpop cm d f a).wellFormed, srcs := [a], dst := some d,
          writes := [.all] }
    (fun s w _ =>
      match s.handleQueue f.toNat [0] with
      | none => .trap (Trap.plain .feedFault)
      | some q =>
        let x := s.queue q
        match x.recs with
        | [] => .feed [q] false true
        | r :: rest =>
          if !s.firstInLine q s.myKey || !s.mayRun s.me.guest then .feed [q] false true
          else match s.me.spadCheck (w.getD 0 0).toNat 64 64 with
            | some t => .trap t
            | none =>
              s.holdSibling r.bytes fun s =>
                .ok { s := (s.setQueue q { x with recs := rest }).take2 r.carry
                      eff := .spad (w.getD 0 0).toNat r.bytes ::
                        Spec.write s.who.y d (BitVec.ofNat 64 (recField r.bytes 0 8)) }) s

/-! ### FEEDPUSH and FEEDSTAT (R301, R302) -/

/-- The priority ceiling of a guest (15 Table 15.9). -/
def State.ceiling (s : State) (g : Nat) : Nat := ((s.guest g).e0.extractLsb' 40 3).toNat

/-- The wait for room in a queue. -/
def roomWait : Wait := ⟨7, 0⟩

/-- FEEDPUSH (R301): Bazaar takes the record at issue. DEDUCED, unsafe: log 47. -/
def execFeedpush (cm : Common) (d : Spec) (f : BitVec 4) (a : Spec) (nowait : Bool) (s : State) : Out :=
  issue { opc := 0xC1, cm := cm, wf := (Instr.feedpush cm d f a nowait).wellFormed, srcs := [a], dst := some d }
    (fun s w _ =>
      match s.handleQueue f.toNat [0, 2] with
      | none => .trap (Trap.plain .feedFault)
      | some q =>
        match s.readRecord (w.getD 0 0) 64 64 with
        | .error t => .trap t
        | .ok bs =>
          let room := (s.queue q).room 1
          if !room && !nowait then .waitOn roomWait
          else if !room then .ok { s := s, eff := Spec.write s.who.y d (BitVec.allOnes 64) }
          else if (s.queue q).kind = 2 then
            .ok { s := (s.submit q (s.ceiling s.me.guest) s.me.guest bs s.carry2).fresh
                  eff := Spec.write s.who.y d 0 }
          else
            let (s', n) := s.appendFeed q 0 0 s.me.guest (bs.drop 8) s.carry2
            .ok { s := s'.fresh, eff := Spec.write s.who.y d (BitVec.ofNat 64 n) }) s

/-- Contexts in a feed wait on a queue (Table 12.8). -/
def State.sleepers (s : State) (q : Nat) : Nat :=
  (s.ctxs.filter fun e => match e.2.feeding with | some w => w.queues.contains q | none => false).length

/-- FEEDSTAT (R302). -/
def execFeedstat (cm : Common) (d : Spec) (f : BitVec 4) (s : State) : Out :=
  issue { opc := 0xC2, cm := cm, wf := (Instr.feedstat cm d f).wellFormed, dst := some d }
    (fun s _ _ =>
      match s.handleQueue f.toNat [0, 2] with
      | none => .trap (Trap.plain .feedFault)
      | some q =>
        let x := s.queue q
        .ok { s := s, eff := Spec.write s.who.y d (BitVec.ofNat 64 (x.recs.length + (x.capM1 + 1) * 2 ^ 24 +
          s.sleepers q % 2 ^ 8 * 2 ^ 48 + (if x.kind = 2 then 2 ^ 63 else 0))) }) s

/-! ### TASKPUSH (R303) -/

/-- Fields of a task record (Table 12.6); `affinity` is bits [56:16] of the address, which place it (R295). -/
structure TaskRec where
  handler : Nat
  hot : Bool
  ndeps : Nat
  sig : Bool
  affinity : Nat
  sigAddr : Nat

/-- The fields of a record. -/
def taskRec (bs : List Byte) : TaskRec :=
  let w := recField bs 0 8
  { handler := w % 256, hot := w / 2 ^ 8 % 4 == 2, ndeps := w / 2 ^ 10 % 4, sig := w / 2 ^ 12 % 2 == 1
    affinity := recField bs 8 8 % 2 ^ 57 / 2 ^ 16, sigAddr := recField bs 48 8 }

/-- A record with a reserved bit or value set (Table 12.6). -/
def taskReserved (bs : List Byte) : Bool :=
  let w := recField bs 0 8
  w / 2 ^ 8 % 4 == 3 || w / 2 ^ 10 % 4 == 3 || w / 2 ^ 13 % 8 != 0 || recField bs 8 8 / 2 ^ 57 != 0 ||
    recField bs 56 8 != 0

/-- What follows a dependence or signal counter's address (R293, R303). DEDUCED, unsafe: log 48. -/
def State.counter (s : State) (used : Bool) (va : Nat) (k : State → Nat → Result) : Result :=
  let bad : Trap := Trap.plain .taskFault
  if !used then k s 0
  else if va % 8 ≠ 0 then (Result.trap bad).afterWalk s
  else match s.reachXlat false .write va 1 with
    | .wait s t => .enlist fun z => z.walked s t
    | .trap s t _ => .trapLeaves (fun z => z.walked s t) bad
    | .ok s pa kind =>
      if kind ≠ 0 then (Result.trap bad).afterWalk s else if !fitted pa then .fault .noDeviceMemory else k s pa

/-- The handler index is that of a launch of the guest that still runs (R303). -/
def State.handlerRuns (s : State) (g h : Nat) : Bool :=
  s.launches.any fun e => e.2.guest == g && e.2.end_.isNone && recField e.2.record 48 1 == h

/-- The bytes of a record with its id (Table 12.6). -/
def withId (bs : List Byte) (id : Nat) : List Byte := bs.take 4 ++ leBytes 4 id ++ bs.drop 8

/-- A task registered in its queue (R294, R303); one without dependences is ready at once. -/
def State.addTask (s : State) (q uid : Nat) (bs : List Byte) (pa0 pa1 : Nat) (k : Carry) : State :=
  let t : Task :=
    { bytes := bs, queue := q, guest := s.me.guest, dep0 := pa0, dep1 := pa1, met0 := false, met1 := false
      readyAt := if (taskRec bs).ndeps = 0 then some s.time else none
      stealable := false, held := false, carry := k }
  let x := s.queue q
  let s := s.setQueue q { x with recs := x.recs ++ [⟨[], ⟨0, []⟩, 0, s.me.guest, uid⟩] }
  { s with tasks := s.tasks.ins uid (t.noted s.dram), nextUid := s.nextUid + 1 }

/-- TASKPUSH (R303). The id that Bazaar writes is a free value. DESIGN CHOICE, safe: log 38. -/
def execTaskpush (cm : Common) (d : Spec) (t : BitVec 4) (a : Spec) (s : State) : Out :=
  issue { opc := 0xC3, cm := cm, wf := (Instr.taskpush cm d t a).wellFormed, srcs := [a], dst := some d }
    (fun s w _ =>
      match s.handleQueue t.toNat [1] with
      | none => .trap (Trap.plain .taskFault)
      | some q =>
        match s.readRecord (w.getD 0 0) 128 128 with
        | .error t => .trap t
        | .ok bs =>
          let r := taskRec bs
          if taskReserved bs || !s.handlerRuns s.me.guest r.handler then .trap (Trap.plain .taskFault)
          else s.counter (decide (1 ≤ r.ndeps)) (recField bs 16 8) fun s pa0 =>
            s.counter (decide (2 ≤ r.ndeps)) (recField bs 32 8) fun s pa1 =>
              s.counter r.sig r.sigAddr fun s _ =>
                if !(s.queue q).room 1 then .waitOn roomWait
                else
                  let id := ((Config.freeWord s.free).setWidth 32).toNat
                  .ok { s := (s.addTask q s.nextUid (withId bs id) pa0 pa1 s.carry2).fresh.fresh
                        eff := Spec.write s.who.y d (BitVec.ofNat 64 id) }) s

/-! ### TASKPOP and TASKDONE (R304, R305) -/

/-- The interlock of the current task between instructions of C. DEDUCED, safe: log 27. -/
def taskLoc : Loc := .sr 0x2000

/-- The task that a TASKPOP takes: the one marked for rerun, or the oldest buffer entry. -/
def CtxTasks.next (t : CtxTasks) : Option Nat :=
  if t.rerun then t.current else match t.buffer with | u :: _ => some u | [] => none

/-- TASKPOP (R304): the entry is claimed at issue; the task becomes current at retire. -/
def execTaskpop (cm : Common) (d a : Spec) (s : State) : Out :=
  issue { opc := 0xC4, cm := cm, wf := (Instr.taskpop cm d a).wellFormed, srcs := [a], dst := some d,
          writes := [.all, taskLoc] }
    (fun s w _ =>
      let c := s.me
      if c.tasks.current.isSome && !c.tasks.rerun then .trap (Trap.plain .taskFault)
      else match c.tasks.next with
        | none => .feed [] true true
        | some u =>
          if !s.mayRun c.guest then .feed [] true true
          else match c.spadCheck (w.getD 0 0).toNat 128 64 with
            | some t => .trap t
            | none =>
              let t := s.tasks.get default u
              let c := { c with tasks := { c.tasks with
                buffer := if c.tasks.rerun then c.tasks.buffer else c.tasks.buffer.tail } }
              .ok { s := (s.setMe c).take2 t.carry
                    eff := .spad (w.getD 0 0).toNat t.bytes :: .task u ::
                      Spec.write s.who.y d (BitVec.ofNat 64 (recField t.bytes 0 8)) }) s

/-- The current task ended (R305). -/
def State.endTask (s : State) : State :=
  let c := s.me
  let s := match c.tasks.current with
    | some u => { s with tasks := s.tasks.del u }
    | none => s
  s.setMe { c with tasks := { c.tasks with current := none, rerun := false } }

/-- TASKDONE (R305): the signal is a RED of 1 at sc2. -/
def execTaskdone (cm : Common) (rerun : Bool) (s : State) : Out :=
  issue { opc := 0xC5, cm := cm, wf := (Instr.taskdone cm rerun).wellFormed, reads := [taskLoc] }
    (fun s _ _ =>
      let c := s.me
      match c.tasks.current with
      | none => .trap (Trap.plain .taskFault)
      | some u =>
        if rerun then .ok { s := s.setMe { c with tasks := { c.tasks with rerun := true } } }
        else
          let r := taskRec (s.tasks.get default u).bytes
          if !r.sig then .ok { s := s.endTask }
          else atomicAccess s (r.sigAddr : Int) 2 (some .add) 3 (fun old => some ((old + 1) % 2 ^ 64))
            fun s _ _ => .ok { s := s.endTask }) s

/-! ### SLEEP (R306) -/

/-- SLEEP: it pops nothing. -/
def execSleep (cm : Common) (d : Spec) (mask : BitVec 16) (task : Bool) (s : State) : Out :=
  issue { opc := 0xC6, cm := cm, wf := (Instr.sleep cm d mask task).wellFormed, dst := some d,
          reads := if task then [taskLoc] else [] }
    (fun s _ _ =>
      let named := (List.range 16).filter mask.getLsbD
      if named.any fun n => (s.handleQueue n [0]).isNone then .trap (Trap.plain .feedFault)
      else
        let full (n : Nat) : Bool := match s.handleQueue n [0] with
          | some q => !(s.queue q).recs.isEmpty
          | none => false
        let ready := (named.filter full).foldl (fun a n => a + 2 ^ n) 0 +
          (if task && s.me.tasks.next.isSome then 2 ^ 16 else 0)
        if ready = 0 then .feed (named.filterMap fun n => s.handleQueue n [0]) task false
        else .ok { s := s, eff := Spec.write s.who.y d (BitVec.ofNat 64 ready) }) s

/-! ### Bazaar and tasks (R294 to R296) -/

/-- Every dependence of a task is met. -/
def Task.ready (t : Task) : Bool :=
  let n := (taskRec t.bytes).ndeps
  (t.met0 || decide (n = 0)) && (t.met1 || decide (n ≤ 1))

/-- DEPENDENCE_MET (R294): the bank unit's report reaches Bazaar; once the last dependence is met the task is
ready. -/
def execDependenceMet (task : Nat) (s : State) : Out :=
  match s.tasks.find task with
  | none => .next s
  | some t =>
    if t.ready && t.readyAt.isNone then
      .next { s with tasks := s.tasks.ins task { t with readyAt := some s.time } }
    else .next s

/-- Contexts on a core of the instances of a handler and a guest (R295). -/
def State.handlersOn (s : State) (core guest handler : Nat) : List (Nat × Ctx) :=
  (s.onCore core).filter fun e => e.2.guest == guest && e.2.tasks.handler == handler

/-- The owner of a ready task (R295): H in ascending core number, and the affinity's hash over it. -/
def State.taskOwner (s : State) (t : Task) : Option Nat :=
  let r := taskRec t.bytes
  let h := (List.range 64).filter fun c =>
    (s.part (s.partOf t.guest)).cores.getLsbD c && (!r.hot || lit c) && !(s.handlersOn c t.guest r.handler).isEmpty
  if h.isEmpty then none
  else h[r.affinity * 0x9E3779B97F4A7C15 % 2 ^ 64 / 2 ^ 32 % h.length]?

/-- Of some contexts, the one with the fewest buffer entries below two, the lowest slot first (R295). -/
def fewest (l : List (Nat × Ctx)) : Option Nat :=
  let n (e : Nat × Ctx) : Nat := e.2.tasks.buffer.length
  match l.find? (fun e => n e = 0) with
  | some e => some e.1
  | none => (l.find? fun e => n e = 1).map (·.1)

/-- A task pushed into the prefetch buffer of a context: it leaves its queue. -/
def State.pushBuffer (s : State) (task core slot : Nat) : State :=
  match s.tasks.find task with
  | none => s
  | some t =>
    let x := s.queue t.queue
    let s := s.setQueue t.queue { x with recs := x.recs.filter fun r => r.task != task }
    let s := { s with tasks := s.tasks.ins task { t with held := true } }
    let c := s.ctx core slot
    s.setCtx core slot { c with tasks := { c.tasks with buffer := c.tasks.buffer ++ [task] } }

/-- No ready task of a queue stands before another in it. -/
def State.firstReady (s : State) (q task : Nat) : Bool :=
  match (s.queue q).recs.find? (fun r =>
    match s.tasks.find r.task with
    | some t => t.readyAt.isSome && s.taskOwner t == (s.tasks.find task).bind s.taskOwner
    | none => false) with
  | some r => r.task == task
  | none => false

/-- TASK_PLACE (R295): Bazaar pushes a ready task into a buffer on its owner core. -/
def execTaskPlace (task : Nat) (s : State) : Out :=
  match s.tasks.find task with
  | none => .next s
  | some t =>
    if t.readyAt.isNone || t.held || !s.mayRun t.guest || !s.firstReady t.queue task then .next s
    else match s.taskOwner t with
      | none => .next s
      | some core =>
        match fewest (s.handlersOn core t.guest (taskRec t.bytes).handler) with
        | none => .next s
        | some slot => .next (s.pushBuffer task core slot)

/-- A context has a task as its current one, or a TASKPOP of it that has issued and not retired. -/
def Ctx.hasTask (c : Ctx) (task : Nat) : Bool :=
  c.tasks.current == some task || c.seq.c.inflight.any fun p => p.effects.contains (.task task)

/-- A task that a context has, or has claimed, was popped. -/
def State.popped (s : State) (task : Nat) : Bool :=
  (s.ctxs.any fun e => e.2.hasTask task) || s.saved.any fun e => e.2.img.hasTask task

/-- TASK_AGEING_EXPIRY (R296): a ready task not popped by the end of its interval becomes stealable. -/
def execTaskAgeingExpiry (task : Nat) (s : State) : Out :=
  match s.tasks.find task with
  | none => .next s
  | some t =>
    match t.readyAt with
    | none => .next s
    | some at_ =>
      if at_ + (s.queue t.queue).ageing ≤ s.time && !s.popped task then
        .next { s with tasks := s.tasks.ins task { t with stealable := true } }
      else .next s

/-- A context idle for a task (R296). -/
def State.idleFor (s : State) (t : Task) (core slot : Nat) : Bool :=
  let c := s.ctx core slot
  let r := taskRec t.bytes
  c.bound && c.guest == t.guest && c.tasks.handler == r.handler && c.tasks.buffer.isEmpty &&
    (match c.feeding with | some w => w.task | none => false) && (!r.hot || lit core)

/-- A task taken out of whatever buffer holds it. -/
def State.unbuffer (s : State) (task : Nat) : State :=
  let drop (c : Ctx) : Ctx := { c with tasks := { c.tasks with buffer := c.tasks.buffer.filter (· != task) } }
  { s with
    ctxs := s.ctxs.mapAll Ctx.empty fun _ c => drop c
    saved := s.saved.map fun e => (e.1, { e.2 with img := drop e.2.img }) }

/-- TASK_STEAL (R296): the oldest stealable task moves to the buffer of an idle context. -/
def execTaskSteal (task core slot : Nat) (s : State) : Out :=
  match s.tasks.find task with
  | none => .next s
  | some t =>
    let older := s.tasks.any fun e => e.2.stealable && !s.popped e.1 && s.idleFor e.2 core slot &&
      decide (e.2.readyAt.getD 0 < t.readyAt.getD 0)
    if !t.stealable || s.popped task || older || !s.idleFor t core slot || !s.mayRun t.guest then .next s
    else .next ((s.unbuffer task).pushBuffer task core slot)

end Sys2Proof.Machine
end

