-- ==== Sys2Proof/Machine/Launch.lean ====
section
/-! DEFINITION. Launches: acceptance and checks (12 R283, R284), placement and binding (R286 to R289), the
completion of an instance (05 R114) and of a launch (R285). -/
namespace Sys2Proof.Machine

/-! ### Reading for a guest -/

/-- What reading a guest's memory comes to. -/
inductive GuestRead where
  | ok (s : State) (bytes : List Byte)
  | bad (s : State)
  | wait (s : State)
  | gone

/-- The walker that Bazaar uses: no core's TLB. -/
def bazaarWalker (guest pts : Nat) : Walker := ⟨guest, 68, pts⟩

/-- Words of 8 bytes read at a virtual address of a guest, as loads of T. -/
def State.readGuest (s : State) (guest pts va : Nat) : Nat → GuestRead
  | 0 => .ok s []
  | n + 1 =>
    match s.translate (bazaarWalker guest pts) va .read with
    | (s, _, .fault _) => .bad s
    | (s, _, .lazy _) => .wait s
    | (s, t, .ok pa kind) =>
      if kind ≠ 0 then .bad s
      else if !fitted pa then .gone
      else
        let (d, t) := (s.home (s.guest guest).part pa).homeLoad t 0 pa
        let bs := d.bytes.read pa 8
        match ({ s with dram := d } : State).readGuest guest t (va + 8) n with
        | .ok s r => .ok s (bs ++ r)
        | .bad s => .bad s
        | .wait s => .wait s
        | .gone => .gone

/-! ### The checks of R284 -/

/-- The byte of the lowest set bit of a masked word at an offset (08 R446). -/
def lowAt (v mask o : Nat) : List Nat :=
  match firstFrom (fun i => (v &&& mask).testBit i) 0 64 with
  | some b => [o + b / 8]
  | none => []

/-- Failing checks of a launch record beside its addresses (R283, R284). -/
def State.recordFails (s : State) (guest : Nat) (bs : List Byte) : List Nat :=
  let w (i : Nat) : Nat := recField bs (8 * i) 8
  let handle (n : Nat) : List Nat :=
    let h := recField bs (16 + 2 * n) 2
    let q := s.queue (h % 2 ^ 12)
    failAt (h / 2 ^ 14 % 2 != 0 || h / 2 ^ 12 % 4 == 3) (17 + 2 * n) ++
      failAt (h / 2 ^ 15 != 0 && (q.owner != guest || q.kind != h / 2 ^ 12 % 4)) (16 + 2 * n)
  let done := s.queue (w 7 % 2 ^ 12)
  failAt (w 0 % 2 ^ 12 != 0) 0 ++ lowAt (w 0) (2 ^ 64 - 2 ^ 57) 0 ++ failAt (w 1 % 8 != 0) 8 ++
    (List.range 16).flatMap handle ++ lowAt (w 6) (2 ^ 64 - 2 ^ 32 + 0xFF00) 48 ++
    lowAt (w 7) (2 ^ 64 - 2 ^ 16 + 0x7000) 56 ++
    failAt (w 7 / 2 ^ 15 % 2 != 0 && (!done.enable || done.kind != 0)) 56

/-- The regions of a descriptor (03 Table 3.6). -/
def descRegions (b : List Byte) : List Region :=
  (List.range (min 8 (recField b 10 1))).map fun n =>
    let v := recField b (96 + 4 * n) 4
    ⟨v % 64, v / 64 % 128, v / 2 ^ 13 % 8⟩

/-- The levels of a descriptor. -/
def descLevels (b : List Byte) : List Level :=
  (List.range (min 8 (recField b 11 1))).map fun n =>
    let v := recField b (128 + 8 * n) 8
    ⟨v % 4, v / 4 % 2 == 1, v / 8 % 2 == 1, v / 2 ^ 8 % 256, v / 2 ^ 16 % 2 ^ 32⟩

/-- Trip count of a level under some arguments. -/
def Level.trip (l : Level) (args : Tbl Word) : Nat := if l.fromArg then (args.get 0 l.arg).toNat else l.count

/-- Failing checks of region `n` (R284, Table 8.6a). DEDUCED, unsafe: log 50. -/
def regionFails (b : List Byte) (borrow : Bool) (n : Nat) : List Nat :=
  let v := recField b (96 + 4 * n) 4
  let rs := descRegions b
  match rs[n]? with
  | none => lowAt v (2 ^ 32 - 1) (96 + 4 * n)
  | some r =>
    let hi := r.base + r.count
    let overlap := (rs.take n).any fun x => decide (x.base < hi ∧ r.base < x.base + x.count)
    failAt (r.count == 0 || decide (64 < r.count) || decide (r.base < 32 ∧ 32 < hi) || decide (64 < hi) ||
      (decide (32 ≤ r.base) && !borrow) || overlap) (96 + 4 * n) ++
      failAt (r.span == 7) (97 + 4 * n) ++ lowAt v 0xFFFF0000 (96 + 4 * n)

/-- Failing checks of level `n`. -/
def levelFails (b : List Byte) (args : Tbl Word) (n : Nat) : List Nat :=
  let v := recField b (128 + 8 * n) 8
  let ls := descLevels b
  match ls[n]? with
  | none => lowAt v (2 ^ 64 - 1) (128 + 8 * n)
  | some l =>
    let before := ls.take n
    let trip := (args.get 0 l.arg).toNat
    failAt (l.kind == 3 || v / 2 ^ 4 % 16 != 0 || (l.kind == 2 && before.any (·.kind == 2)) ||
      (l.kind == 1 && before.any fun x => x.kind == 1 && x.cyclic != l.cyclic)) (128 + 8 * n) ++
      failAt ((!l.fromArg && l.arg != 0) || decide (15 < l.arg) ||
        (l.kind != 0 && l.fromArg && decide (trip = 0 ∨ 2 ^ 32 ≤ trip))) (129 + 8 * n) ++
      failAt ((l.fromArg && l.count != 0) || (l.kind != 0 && !l.fromArg && l.count == 0)) (130 + 8 * n) ++
      lowAt v (2 ^ 64 - 2 ^ 48) (128 + 8 * n)

/-- Failing checks of a descriptor (R284). DEDUCED, unsafe: log 50. -/
def descFails (b : List Byte) (args : Tbl Word) : List Nat :=
  let f (o : Nat) : Nat := recField b o 1
  let borrow := f 3 / 4 % 2 == 1
  let entry (i : Nat) : List Nat :=
    let off := recField b (48 + 8 * i) 4
    let len := recField b (52 + 8 * i) 4
    let e := recField b (16 + 8 * i) 8
    failAt (len == 0) (48 + 8 * i) ++ failAt (e % 8 != 0 || decide (e < off ∨ off + len ≤ e)) (16 + 8 * i)
  failAt (recField b 0 2 != 1) 0 ++ failAt (f 2 != 1 && f 2 != 2) 2 ++
    failAt (f 3 % 4 == 3 || f 3 / 8 != 0 || (borrow && f 3 % 4 != 2)) 3 ++ failAt (f 4 / 16 != 0) 4 ++
    failAt (f 8 % 2 == 1) 8 ++ failAt (decide (8 < f 10)) 10 ++ failAt (decide (8 < f 11)) 11 ++
    firstByte ((b.drop 12).take 4) 12 ++ firstByte ((b.drop 88).take 8) 88 ++ firstByte ((b.drop 192).take 64) 192 ++
    (List.range 4).flatMap entry ++ (List.range 8).flatMap (regionFails b borrow) ++
    (List.range 8).flatMap (levelFails b args)

/-- A descriptor that passed its checks. -/
def kdesc (b : List Byte) : KDesc :=
  let f (o : Nat) : Nat := recField b o 1
  { nbv := f 2, heat := f 3 % 4, borrow := f 3 / 4 % 2 == 1, powerMax := f 4 % 16, tiles := 4 * f 5, gens := f 6
    rings := f 7, regions := descRegions b, levels := descLevels b
    entries := ⟨recField b 16 8, recField b 24 8, recField b 32 8, recField b 40 8⟩ }

/-! ### Placement (R286, R287) -/

/-- The eligible list of a die (R286). -/
def State.eligible (s : State) (p heat die : Nat) : List Nat :=
  let cs := ((List.range 32).map (· + 32 * die)).filter fun c => (s.part p).cores.getLsbD c
  if heat = 0 then cs
  else if heat = 1 then cs.filter lit ++ cs.filter fun c => !lit c
  else cs.filter lit

/-- The eligible lists of the dies that hold eligible cores, in ascending order. -/
def State.dies (s : State) (p heat : Nat) : List (List Nat) :=
  ([0, 1].map (s.eligible p heat)).filter fun l => !l.isEmpty

/-- Own granules and borrowed granules of a kernel. -/
def KDesc.granules (d : KDesc) (own : Bool) : Nat :=
  d.regions.foldl (fun a r => if decide (r.base < 32) == own then a + r.count else a) 0

/-- The first resource beyond one core's capacity (Table 12.2); zero for none. -/
def State.capacity (s : State) (p : Nat) (d : KDesc) : Nat :=
  let k := if d.borrow then 2 else 1
  if (s.dies p d.heat).isEmpty then 1
  else if 32 * k < d.tiles then 2
  else if 30 < d.granules true ∨ 32 * (k - 1) < d.granules false then 3
  else if 8 < d.gens then 4
  else if 16 < d.rings then 5
  else 0

/-- Coordinates of an instance, by level: the lowest spatial level varies fastest (R286). -/
def coordsOf (levels : List Level) (args : Tbl Word) (inst : Nat) : List Nat :=
  (levels.foldl (fun (a : Nat × List Nat) l =>
    if l.kind = 0 then (a.1, a.2 ++ [0]) else (a.1 / l.trip args, a.2 ++ [a.1 % l.trip args])) (inst, [])).2

/-- Instances of a launch (R286). -/
def instances (levels : List Level) (args : Tbl Word) : Nat :=
  levels.foldl (fun a l => if l.kind = 0 then a else a * l.trip args) 1

/-- The core of an instance (R287). -/
def State.target (s : State) (p : Nat) (heat : Nat) (levels : List Level) (args : Tbl Word) (inst : Nat) : Option Nat :=
  let co := coordsOf levels args inst
  let at_ := List.zip levels co
  let dies := s.dies p heat
  let list := match at_.find? fun e => e.1.kind == 2 with
    | some (l, c) =>
      let j := if l.cyclic then c % max 1 dies.length else c * dies.length / max 1 (l.trip args)
      dies.getD j []
    | none => dies.flatten
  let cores := at_.filter fun e => e.1.kind == 1
  let (c, nc) := cores.foldl (fun (a : Nat × Nat) e => (a.1 + e.2 * a.2, a.2 * e.1.trip args)) (0, 1)
  let k := match cores with
    | [] => 0
    | e :: _ => if e.1.cyclic then c % max 1 list.length else c * min list.length nc / max 1 nc
  list[k]?

/-! ### Room on a core (R288) -/

/-- What a context asks of a core. -/
structure Ask where
  heat : Nat
  borrow : Bool
  tiles : Nat
  own : Nat

/-- Own granules of a context's regions. -/
def Ctx.ownGranules (c : Ctx) : Nat := c.regions.foldl (fun a r => if r.base < 32 then a + r.count else a) 0

/-- What a kernel asks. -/
def KDesc.ask (d : KDesc) : Ask := ⟨d.heat, d.borrow, d.tiles, d.granules true⟩

/-- What a saved context asks. -/
def Ctx.ask (c : Ctx) : Ask := ⟨c.heat, c.borrow, c.tilesN, c.ownGranules⟩

/-- The slot that an instance takes: the lowest free one of its core; R287 and R288 do not say which.
DESIGN CHOICE, unsafe: log 108. -/
def State.freeSlot (s : State) (core : Nat) : Option Nat := (List.range 4).find? fun k => !(s.ctx core k).bound

/-- A core has room (R288, 01 R13, R20): a hot context holds its core alone, a borrowing one its partner too. -/
def State.fits (s : State) (core : Nat) (a : Ask) : Bool :=
  let cs := s.onCore core
  (s.freeSlot core).isSome && !s.lending core && !(cs.any fun e => e.2.heat == 2) &&
    (a.heat != 2 || (cs.isEmpty && (!a.borrow || ((s.onCore (partner core)).isEmpty && !s.lending (partner core))))) &&
    decide (cs.foldl (fun n e => n + min e.2.tilesN 32) 0 + min a.tiles 32 ≤ 32) &&
    decide (cs.foldl (fun n e => n + e.2.ownGranules) 0 + a.own ≤ 30)

/-- An instance that has not been bound. -/
def Launch.pending (l : Launch) (inst : Nat) : Bool := decide (inst < l.total) && !l.placed.contains inst

/-- The core that R287 gives an instance of a launch. -/
def State.launchTarget (s : State) (l : Launch) (inst : Nat) : Option Nat :=
  s.target (s.partOf l.guest) l.desc.heat l.desc.levels l.args inst

/-- The lowest pending instance of a launch for a core. -/
def State.nextFor (s : State) (l : Launch) (core : Nat) : Option Nat :=
  if l.end_.isSome then none
  else firstFrom (fun i => l.pending i && s.launchTarget l i == some core) 0 l.total

/-- Work that is bound before other work: of higher priority, then older (15 R394). -/
def goesFirst (p1 t1 p2 t2 : Nat) : Bool := decide (p2 < p1) || (p1 == p2 && decide (t1 < t2))

/-- A hot instance waits for a core, or for its partner, so that nothing else binds there (R288). `me` is the launch
and number of an instance that asks, and `mine` the priority and age of hot work that asks: among hot work the one
that goes first holds the core. DEDUCED, unsafe: log 96. -/
def State.hotWaits (s : State) (core : Nat) (me mine : Option (Nat × Nat)) : Bool :=
  s.launches.any fun e =>
    let l := e.2
    let waits (c : Nat) : Bool := match s.nextFor l c with
      | some i => decide (me ≠ some (e.1, i))
      | none => false
    let first : Bool := match mine with
      | none => true
      | some (p, t) => goesFirst l.prio l.since p t
    l.desc.heat == 2 && s.mayRun l.guest && first && (waits core || (l.desc.borrow && waits (partner core)))

/-- The priority and age of hot work; none for other work. -/
def hotKey (heat prio since : Nat) : Option (Nat × Nat) := if heat = 2 then some (prio, since) else none

/-- An instance of a launch is kept from its core by a hot one (R288). -/
def State.keptOff (s : State) (core launch inst : Nat) (l : Launch) : Bool :=
  s.hotWaits core (some (launch, inst)) (hotKey l.desc.heat l.prio l.since)

/-! ### Saved contexts (R289, R330) -/

/-- Priority of a saved context: that of its launch (15 R394). -/
def State.savedPrio (s : State) (e : Saved) : Nat := match s.launches.find e.img.launch with | some l => l.prio | none => 0

/-- A saved context is kept from a core by a hot instance (R288). -/
def State.keepsOff (s : State) (core : Nat) (e : Saved) : Bool :=
  s.hotWaits core none (hotKey e.img.heat (s.savedPrio e) e.since)

/-- The cores to try for a saved context: the R287 core, then the others in ascending order. -/
def State.restoreCores (s : State) (c : Ctx) : List Nat :=
  let p := s.partOf c.guest
  match s.target p c.heat c.levels c.args c.inst with
  | none => []
  | some t => t :: ((List.range 64).filter fun n => n != t && (s.dies p c.heat).flatten.contains n)

/-- The extra that placing a saved context on a core needs, and how it would be taken (R330). -/
def State.restorePlan (s : State) (c : Ctx) (core : Nat) : Option (Nat × List (Nat × Nat)) :=
  let p := s.partOf c.guest
  let extra := s.chargeAt core (max c.power.g (s.lmax core)) - s.chargeAt core (s.lmax core)
  if extra = 0 then some (0, []) else s.plan p extra

/-- The work that a YIELD put before a saved context still waits and may run (R355). -/
def State.waitsBefore (s : State) (e : Saved) : Bool :=
  match e.behind with
  | none => false
  | some (true, uid, inst) =>
    match s.launches.find uid with
    | some l => l.end_.isNone && l.pending inst && s.mayRun l.guest
    | none => false
  | some (false, uid, _) =>
    match s.saved.find uid with
    | some x => x.ticket.isNone && s.mayRun x.img.guest
    | none => false

/-- The core on which a saved context has room now: the first of R289 that can bind it. -/
def State.roomCore (s : State) (e : Saved) : Option Nat :=
  if e.ticket.isSome || !s.mayRun e.img.guest || !s.clocksRun || s.waitsBefore e then none
  else (s.restoreCores e.img).find? fun n => s.fits n e.img.ask && !s.keepsOff n e

/-- The core on which a saved context can be placed now, its grant included (R289, R330). -/
def State.restoreCore (s : State) (e : Saved) : Option Nat :=
  if e.ticket.isSome || !s.mayRun e.img.guest || !s.clocksRun || s.waitsBefore e then none
  else (s.restoreCores e.img).find? fun n =>
    s.fits n e.img.ask && !s.keepsOff n e && (s.restorePlan e.img n).isSome

/-- Some work that waits for a core goes before work of a priority and an age. -/
def State.ahead (s : State) (core prio since : Nat) : Bool :=
  (s.launches.any fun e => goesFirst e.2.prio e.2.since prio since && s.mayRun e.2.guest &&
    s.fits core e.2.desc.ask && match s.nextFor e.2 core with | some i => !s.keptOff core e.1 i e.2 | none => false) ||
  s.saved.any fun e => goesFirst (s.savedPrio e.2) e.2.since prio since && s.restoreCore e.2 == some core

/-! ### LAUNCH (R284, R301) -/

/-- A launch's completion settled: it is held until it is posted, in the order of the numbers at which launches end
(R285). -/
def Launch.finish (l : Launch) (serial code detail : Nat) : Launch :=
  { l with end_ := some (code, detail), endedAt := serial }

/-- The accepted launch joins the others. -/
def State.addLaunch (s : State) (l : Launch) : State :=
  { s with launches := s.launches.ins s.nextUid l, nextUid := s.nextUid + 1 }

/-- A launch of a record, before its checks. -/
def newLaunch (r : BRec) (uid : Nat) : Launch :=
  { guest := r.guest, prio := r.prio, since := uid, record := r.bytes, desc := default, args := [], total := 0
    placed := [], live := 0, retired := 0, qleft := false, fault := none, end_ := none, endedAt := 0, posted := false }

/-- Launch arguments as a table (Table 12.1). -/
def argTable (bs : List Byte) : Tbl Word :=
  (List.range 16).foldl (fun t i => Tbl.put 0 t i (BitVec.ofNat 64 (recField bs (8 * i) 8))) []

/-- The checks of R284 on a record whose image and arguments have been read, where they could be. -/
def State.judge (s : State) (l : Launch) (image args : Option (List Byte)) : Launch :=
  let fails := s.recordFails l.guest l.record ++ failAt image.isNone 0 ++ failAt args.isNone 8
  let b := image.getD []
  let at_ := argTable (args.getD [])
  let l := { l with args := at_ }
  match fails.min? with
  | some o => l.finish s.nextUid 2 o
  | none => match (descFails b at_).min? with
    | some o => l.finish s.nextUid 2 o
    | none =>
      let d := kdesc b
      match s.capacity (s.partOf l.guest) d with
      | 0 => { l with desc := d, total := instances d.levels at_ }
      | n => { l.finish s.nextUid 1 n with desc := d }

/-- A read of a guest's memory that R284 makes, where its address is legal. -/
def State.fetchFor (s : State) (guest pts va n : Nat) (legal : Bool) : GuestRead :=
  if legal then s.readGuest guest pts va n else .bad s

/-- The bytes of a read, where there are any. -/
def GuestRead.bytes? : GuestRead → Option (List Byte)
  | .ok _ b => some b
  | .bad _ | .wait _ | .gone => none

/-- The state after a read: its walks have happened, wherever they ended (14 R364). -/
def GuestRead.after (s : State) : GuestRead → State
  | .ok s _ | .bad s | .wait s => s
  | .gone => s

/-- LAUNCH: Bazaar accepts the oldest record of a launch queue while the guest's held launches number fewer than
64 (15 R379), and checks it. -/
def execLaunch (queue : Nat) (s : State) : Out :=
  let x := s.queue queue
  match x.recs with
  | [] => .next s
  | r :: rest =>
    if !x.enable || x.kind != 2 || decide (64 ≤ s.heldLaunches r.guest) || s.resets.contains r.guest ||
        s.still (s.partOf r.guest) then .next s
    else
      let w0 := recField r.bytes 0 8
      let w1 := recField r.bytes 8 8
      let img := s.fetchFor r.guest r.carry.pts (w0 % 2 ^ 57) 32 (w0 % 2 ^ 12 == 0)
      let s1 := img.after s
      let args := if w1 = 0 then .ok s1 (List.replicate 128 0)
        else s1.fetchFor r.guest r.carry.pts w1 16 (w1 % 8 == 0)
      match img, args with
      | .wait s, _ => .next s
      | _, .wait s => .next s
      | .gone, _ => .fault .noDeviceMemory
      | _, .gone => .fault .noDeviceMemory
      | _, _ =>
        let s := (args.after s1).setQueue queue { x with recs := rest }
        .next (s.addLaunch (s.judge (newLaunch r s.nextUid) img.bytes? args.bytes?))

/-! ### INSTANCE_BIND (R288) -/

/-- The handle table of a launch record (Table 12.1). -/
def handleTable (bs : List Byte) : Tbl Handle :=
  (List.range 16).foldl (fun t n =>
    let h := recField bs (16 + 2 * n) 2
    Tbl.put default t n ⟨h % 2 ^ 12, h / 2 ^ 12 % 4, h / 2 ^ 15 == 1⟩) []

/-- A context as its instance starts (R288, 04 R62, 05 R92, 06 R119, R128). -/
def Launch.start (l : Launch) (uid part inst : Nat) : Ctx :=
  let image := recField l.record 0 8
  let sq (e : Nat) : Seqr := { Seqr.empty with pc := BitVec.ofNat 57 (image + e), ended := false, done := false }
  let co := coordsOf l.desc.levels l.args inst
  { Ctx.empty with
    bound := true, guest := l.guest, part := part, launch := uid, inst := inst, heat := l.desc.heat
    borrow := l.desc.borrow, nbv := l.desc.nbv, tilesN := l.desc.tiles, gensN := l.desc.gens, ringsN := l.desc.rings
    powerMax := l.desc.powerMax, regions := l.desc.regions, levels := l.desc.levels, args := l.args
    coords := (List.range 8).foldl (fun t n => Tbl.put 0 t n (BitVec.ofNat 64 (co.getD n 0))) []
    seq := ⟨sq l.desc.entries.c, sq l.desc.entries.l, sq l.desc.entries.x, sq l.desc.entries.s⟩
    tasks := { (default : CtxTasks) with handles := handleTable l.record, handler := recField l.record 48 1 } }

/-- The initiator bucket of a guest on a core taken or freed (15 R396): valid while the guest has a context
there. -/
def State.coreBuckets (s : State) (core : Nat) : State :=
  let guests := ((s.onCore core).map fun e => e.2.guest).dedup
  let key (k : Nat) : Nat := core * 8 + k
  let old := (List.range 8).foldl (fun s k =>
    let b := s.buckets.get default (key k)
    if b.valid && !guests.contains b.owner then { s with buckets := s.buckets.put default (key k) default } else s) s
  guests.foldl (fun s g =>
    if (List.range 8).any fun k => (s.buckets.get default (key k)).valid && (s.buckets.get default (key k)).owner == g then s
    else match (List.range 8).find? fun k => !(s.buckets.get default (key k)).valid with
      | some k =>
        let w := (s.guest g).e1
        let b : Bucket := ⟨(w.extractLsb' 0 16).toNat, (w.extractLsb' 16 16).toNat, 0, g, true⟩
        { s with buckets := s.buckets.put default (key k) b }
      | none => s) old

/-- INSTANCE_BIND: an instance binds to a slot of its core once it has room. -/
def execInstanceBind (launch inst : Nat) (s : State) : Out :=
  match s.launches.find launch with
  | none => .next s
  | some l =>
    match s.launchTarget l inst with
    | none => .next s
    | some core =>
      match s.freeSlot core with
      | none => .next s
      | some slot =>
        if s.nextFor l core ≠ some inst ∨ s.mayRun l.guest = false ∨ s.clocksRun = false ∨
            s.fits core l.desc.ask = false ∨ s.keptOff core launch inst l = true ∨ s.ahead core l.prio l.since = true then .next s
        else
          let s := s.setCtx core slot (l.start launch (s.partOf l.guest) inst)
          let s := { s with launches := s.launches.ins launch { l with placed := inst :: l.placed, live := l.live + 1 } }
          .next (s.coreBuckets core)

/-! ### INSTANCE_COMPLETE (05 R114) and the end of a launch (R285) -/

/-- A channel that holds nothing. -/
def Ctx.channelsEmpty (c : Ctx) : Bool :=
  (c.toks.all fun e => e.2.avail.isEmpty) && (c.data.all fun e => e.2.avail.isEmpty) && c.bos.all fun e => e.2.avail.isEmpty

/-- A launch that has no instance left is over (R285). -/
def Launch.over (l : Launch) (serial : Nat) : Launch :=
  if l.end_.isSome || l.live != 0 || decide (l.placed.length < l.total) then l
  else match l.fault with
    | some c => l.finish serial 4 c
    | none => l.finish serial 0 0

/-- An instance leaves its launch. -/
def State.leaveLaunch (s : State) (uid : Nat) (f : Launch → Launch) : State :=
  match s.launches.find uid with
  | none => s
  | some l =>
    { s with launches := s.launches.ins uid ((f { l with live := l.live - 1 }).over s.nextUid), nextUid := s.nextUid + 1 }

/-- What a context holds of tasks returns to the head of their queues, ready; its current task is dropped (R297). -/
def State.returnTasks (s : State) (t : CtxTasks) : State :=
  let s := t.buffer.reverse.foldl (fun s u =>
    match s.tasks.find u with
    | none => s
    | some k =>
      let x := s.queue k.queue
      let s := s.setQueue k.queue { x with recs := ⟨[], ⟨0, []⟩, 0, k.guest, u⟩ :: x.recs }
      { s with tasks := s.tasks.ins u { k with held := false } }) s
  match t.current with
  | some u => { s with tasks := s.tasks.del u }
  | none => s

/-- A slot is emptied: its grant is freed, a quad it belongs to is left, its bucket follows. -/
def State.vacate (s : State) (core slot : Nat) : State :=
  let s := s.leaveQuad core slot
  let s := s.freeGrant core slot
  (s.setCtx core slot Ctx.empty).coreBuckets core

/-- INSTANCE_COMPLETE (05 R114): after the four ENDs and the completion of every engine command; a member of a quad
leaves it as OQUNBIND does, after its joint operations (11 R274). -/
def execInstanceComplete (core slot : Nat) (s : State) : Out :=
  let c := s.ctx core slot
  if !c.bound || c.stop.isSome || !(Sq.order.all fun y => (c.seq.get y).done) || !c.quiet || !c.q0.jobs.isEmpty ||
      !c.q1.jobs.isEmpty || c.handler || s.jointsOpen core slot then .next s
  else
    let left := c.qleft || !c.channelsEmpty
    let s := s.returnTasks c.tasks
    let s := s.leaveLaunch c.launch fun l => { l with retired := l.retired + 1, qleft := l.qleft || left }
    .next (s.vacate core slot)

/-! ### LAUNCH_COMPLETION_POST (R285) -/

/-- The 16 bytes of a completion record (Table 12.3). -/
def Launch.completion (l : Launch) (code detail : Nat) : Word × Word :=
  (BitVec.ofNat 64 (code + detail % 256 * 2 ^ 8 + bitNum l.qleft * 2 ^ 16 + l.retired % 2 ^ 32 * 2 ^ 32),
   BitVec.ofNat 64 (recField l.record 50 2))

/-- The done_queue that a launch's record is bound for, while it is an enabled feed queue (R285); a reset's record goes
to none of the guest's own (R418). -/
def State.doneQueue (s : State) (l : Launch) (code : Nat) : Option Nat :=
  let w7 := recField l.record 56 8
  let x := s.queue (w7 % 2 ^ 12)
  if w7 / 2 ^ 15 % 2 = 1 ∧ x.enable = true ∧ x.kind = 0 ∧ (code = 3 → x.owner ≠ l.guest) then some (w7 % 2 ^ 12) else none

/-- A record that has waited longer is bound for a done_queue (R285). -/
def State.recordBefore (s : State) (q serial : Nat) : Bool :=
  s.launches.any fun e => !e.2.posted && decide (e.2.endedAt < serial) &&
    match e.2.end_ with
    | some (code, _) => s.doneQueue e.2 code == some q
    | none => false

/-- LAUNCH_COMPLETION_POST: on done_queue once it has room, in the order of completion; on the guest's completion
ring where there is none, or where it is no longer an enabled feed queue (R285); a launch that a reset ended posts
nothing there (R418). DEDUCED, unsafe: log 51. -/
def execLaunchCompletionPost (launch : Nat) (s : State) : Out :=
  match s.launches.find launch with
  | none => .next s
  | some l =>
    match l.end_ with
    | none => .next s
    | some (code, detail) =>
      if l.posted || !s.powered then .next s else
      let (w0, w1) := l.completion code detail
      match s.doneQueue l code with
      | some q =>
        if !(s.queue q).room 1 || s.recordBefore q l.endedAt then .next s
        else
          let body := leBytes 8 0 ++ leBytes 8 w0.toNat ++ leBytes 8 w1.toNat ++ leBytes 32 0
          let (s, _) := s.appendFeed q 3 0 l.guest body ⟨0, []⟩
          .next { s with launches := s.launches.del launch }
      | none =>
        if code = 3 then .next { s with launches := s.launches.del launch } else
        let s := s.postCq l.guest ⟨0, 0, recField l.record 50 2, w0, w1, some launch⟩
        .next { s with launches := s.launches.ins launch { l with posted := true } }

end Sys2Proof.Machine
end

