-- ==== Sys2Proof/Machine/Grants.lean ====
section
/-! DEFINITION. PWRACQ, the grants of waiting requests, and loans reclaimed and made whole (13 R323, R325, R327,
R330). -/
namespace Sys2Proof.Machine

/-! ### Requests that wait -/

/-- What a request that waits asks for: its partition, its core, and the extra that it needs there (R323, R330);
none where it asks for nothing now. -/
def State.asks (s : State) : PWho → Option (Nat × Nat × Nat)
  | .ctx key y =>
    let c := s.ctx (key / 4) (key % 4)
    match c.power.waits.find? fun e => e.1 == y with
    | some e => if c.bound && c.power.given.isNone && decide (c.power.g < e.2) then some (c.part, key / 4, s.extraFor (key / 4) (key % 4) e.2) else none
    | none => none
  | .image _ _ => none
  | .saved uid =>
    match s.saved.find uid with
    | none => none
    | some e => (s.roomCore e).map fun n =>
        (s.partOf e.img.guest, n, s.chargeAt n (max e.img.power.g (s.lmax n)) - s.chargeAt n (s.lmax n))

/-- A waiting request can be granted whole (R323). -/
def State.grantable (s : State) (w : PWho) : Bool :=
  match w with
  | .saved uid => match s.saved.find uid with | some e => (s.restoreCore e).isSome | none => false
  | .ctx _ _ | .image _ _ => match s.asks w with | some (p, _, n) => (s.plan p n).isSome | none => false

/-- No older request than this one can be granted: requests are served oldest first (R323).
DEDUCED, unsafe: log 53. -/
def State.firstServed (s : State) (w : PWho) : Bool :=
  (s.power.reqs.takeWhile (· != w)).all fun x => !s.grantable x

/-! ### Units that are not free yet (R325) -/

/-- Whether an instruction above the lowered level of a borrower still runs; a matrix instruction stands
between its blocks (R324). -/
def State.overrun (s : State) (p : Nat) : Bool :=
  s.power.loans.any fun l => l.lender == p && decide (l.left < l.units) &&
    Sq.order.any fun y => ((s.ctx (l.key / 4) (l.key % 4)).seq.get y).inflight.any fun q =>
      decide (q.gate ≠ .matrix) && decide ((s.ctx (l.key / 4) (l.key % 4)).power.a < q.cls)

/-- Units asked back from an instruction that has not finished may be granted to no one yet (R325). -/
def unitsFree (plan : Nat × List (Nat × Nat)) (p : Nat) (busy : Nat → Bool) : Bool :=
  !(plan.1 != 0 && busy p) && plan.2.all fun e => !busy e.1

/-- How an extra can be taken for a partition at once: its plan, where the units are free (R323, R325). -/
def State.planNow (s : State) (p extra : Nat) : Option (Nat × List (Nat × Nat)) :=
  (s.plan p extra).filter fun pl => unitsFree pl p s.overrun

/-! ### PWRACQ (R327) -/

/-- A PWRACQ of another sequencer of the context has its grant and has not retired: G is about to change. -/
def Ctx.grantPending (c : Ctx) (y : Sq) : Bool :=
  Sq.order.any fun z => z != y && (c.seq.get z).inflight.any fun p => p.effects.any fun
    | .power _ _ => true
    | _ => false

/-- PWRACQ. A grant that POWER_GRANT has made is taken here; G changes at retire. -/
def execPwracq (cm : Common) (d : Spec) (level : BitVec 4) (nowait : Bool) (s : State) : Out :=
  let n := level.toNat
  issue { opc := 0xD0, cm := cm, wf := (Instr.pwracq cm d level nowait).wellFormed, dst := some d,
          check := if s.me.powerMax < n then some (Trap.plain .powerOver) else none, reads := [.sr 6]
          hold := s.me.grantPending s.who.y }
    (fun s _ _ =>
      let c := s.me
      let core := s.who.core
      let key := core * 4 + s.who.slot
      let done (s : State) (v : Nat) (e : List Effect) : Result :=
        .ok { s := s, eff := e ++ Spec.write s.who.y d (BitVec.ofNat 64 v) }
      let ours : Bool := c.power.given == some s.who.y && c.power.waits.contains (s.who.y, n)
      if n ≤ c.power.g then done s c.power.g []
      else if ours then done s n [.power s.who.y n]
      else
        let extra := s.extraFor core s.who.slot n
        if s.share c.part - s.base c.part < extra then
          .trapLeaves (fun z => z.setMe (z.me.endRequest z.who.y)) (Trap.plain .powerOver)
        else if extra = 0 then done s n [.power s.who.y n]
        else if nowait then
          match (if s.power.reqs.any s.grantable then none else s.planNow c.part extra) with
          | some p => done (s.take key p) n [.power s.who.y n]
          | none => done s (c.power.g + 0x10) []
        else .enlist fun s => s.request n) s

/-! ### Grants (R323) -/

/-- POWER_GRANT (R323): the oldest waiting PWRACQ of a context that can be granted takes its units; the word
itself then issues and retires (R327). -/
def execPowerGrant (core slot : Nat) (s : State) : Out :=
  let key := core * 4 + slot
  let mine (w : PWho) : Bool := match w with
    | .ctx k _ => k == key
    | .image _ _ => false
    | .saved _ => false
  match s.power.reqs.find? fun w => mine w && s.grantable w with
  | some (.ctx k y) =>
    match s.asks (.ctx k y) with
    | none => .next s
    | some (p, _, extra) =>
      match s.planNow p extra with
      | none => .next s
      | some pl =>
        if s.firstServed (.ctx k y) = false ∨ s.clocksRun = false then .next s
        else
          let s := s.take key pl
          let c := s.ctx core slot
          let s := s.setCtx core slot { c with power := { c.power with given := some y } }
          .next { s with power := { s.power with reqs := s.power.reqs.filter (· != .ctx k y) } }
  | some (.image _ _) | some (.saved _) | none => .next s

/-! ### Loans (R325) -/

/-- The oldest waiting request of a partition whose own share could cover it, with what it lacks. -/
def State.lacking (s : State) (p : Nat) : Option Nat :=
  s.power.reqs.findSome? fun w =>
    match s.asks w with
    | some (q, _, extra) =>
      if q = p ∧ s.freeUnits p < extra ∧ extra ≤ s.freeUnits p + s.lent p then some (extra - s.freeUnits p) else none
    | none => none

/-- A request of a partition waits that its own share could cover: what is free or reclaimed there is for it (R325).
DEDUCED, unsafe: log 53. -/
def State.covers (s : State) (p : Nat) : Bool :=
  s.power.reqs.any fun w =>
    match s.asks w with
    | some (q, _, extra) => decide (q = p ∧ extra ≤ s.freeUnits p + s.lent p)
    | none => false

/-- Loans of a partition reduced by some units, the youngest first. -/
def reclaim (p n : Nat) (l : List Loan) : List Loan :=
  (l.reverse.foldl (fun (a : Nat × List Loan) x =>
    if x.lender = p then (a.1 - min a.1 x.left, { x with left := x.left - min a.1 x.left } :: a.2)
    else (a.1, x :: a.2)) (n, [])).2

/-- LOAN_RECLAIM (R325). -/
def execLoanReclaim (partition : Nat) (s : State) : Out :=
  match s.lacking partition with
  | none => .next s
  | some n =>
    let s := { s with power := { s.power with loans := reclaim partition n s.power.loans } }
    .next (((s.power.loans.filter fun l => l.lender == partition).map (·.key)).foldl State.adjust s)

/-- What a reduced loan gets of the free units of a partition: its lender's make it larger again, and others stand
in for it. Kept: the units not given yet, the loans, and by borrower the units that stand in. DEDUCED, unsafe: log 53. -/
def restoreLoan (q : Nat) (a : Nat × List Loan × List (Nat × Nat)) (l : Loan) : Nat × List Loan × List (Nat × Nat) :=
  let k := min a.1 (l.units - l.left)
  if l.lender = q then (a.1 - k, a.2.1 ++ [{ l with left := l.left + k }], a.2.2)
  else if k = 0 then (a.1, a.2.1 ++ [l], a.2.2)
  else (a.1 - k, a.2.1 ++ (if l.units = k then [] else [{ l with units := l.units - k }]), a.2.2 ++ [(l.key, k)])

/-- LOAN_RESTORE (R325): the free units of a partition restore the reduced loans, the oldest first: its own loans,
those of its own contexts, whose own units they then are, and others. It waits while a request waits that the
partition's share could cover. DEDUCED, unsafe: log 53. -/
def execLoanRestore (partition : Nat) (s : State) : Out :=
  if s.covers partition || s.overrun partition then .next s else
  let r := s.power.loans.foldl (restoreLoan partition) (s.freeUnits partition, [], [])
  let keys := s.power.loans.map (·.key)
  let s := { s with power := { s.power with loans := r.2.1 } }
  let s := r.2.2.foldl (fun s e =>
    if (s.ctx (e.1 / 4) (e.1 % 4)).part = partition then s.take e.1 (e.2, [])
    else s.take e.1 (0, [(partition, e.2)])) s
  .next (keys.foldl State.adjust s)

end Sys2Proof.Machine
end

