-- ==== Sys2Proof/Machine/Copy.lean ====
section
/-! DEFINITION. What the copy engine does by itself: the elements of a command (08 R185 to R187, R192), its
start (R180, R194), its completion (R190, R191), chains (R193) and time-outs (R187). -/
namespace Sys2Proof.Machine

/-! ### Element addresses (R185) -/

/-- The index of the outermost dimension of element `w`. -/
def Cmd.outerIndex (k : Cmd) (w : Nat) : Nat := w / k.dims.dropLast.foldl (fun a d => a * d.count) 1

/-- The offset of element `w` along one side, its outermost part replaced by an index where given. -/
def Cmd.offset (k : Cmd) (stride : Dim → Int) (idx : Option Int) (w : Nat) : Int :=
  let ix := walkIndices (k.dims.map (·.count)) w
  let all := (List.zip ix k.dims).foldl (fun (a : Int) p => a + (p.1 : Int) * stride p.2) 0
  match idx, k.dims.getLast? with
  | some j, some d => all - (k.outerIndex w : Int) * stride d + j * stride d
  | _, _ => all

/-- The index that the list gives for element `w`. -/
def Job.index (j : Job) (w : Nat) : Int := (j.idx.getD (j.cmd.outerIndex w) 0).toInt

/-- The base of an operand's slot: that of its claim, or of the slot that its claim would take now; zero without a ring. -/
def Ctx.slotBase (c : Ctx) (ring : Option Nat) (claim : Option (Nat × Nat)) (next : Ring → Nat) : Int :=
  match ring, claim with
  | some n, some (slot, _) => ((c.ring n).slot slot : Int)
  | some n, none => ((c.ring n).slot (next (c.ring n)) : Int)
  | none, _ => 0

/-- The base of a command's source slot. -/
def Ctx.srcBase (c : Ctx) (j : Job) : Int := c.slotBase j.cmd.sring j.sclaim Ring.nextCons

/-- The base of a command's destination slot. -/
def Ctx.dstBase (c : Ctx) (j : Job) : Int := c.slotBase j.cmd.dring j.dclaim Ring.tail

/-- Where an element lies before its slot's base: its exact address or offset. -/
def Job.srcOff (j : Job) (w : Nat) : Int :=
  (j.cmd.src.toNat : Int) + j.cmd.offset Dim.ss (if j.cmd.op = 2 then some (j.index w) else none) w

/-- As `srcOff`, on the destination side. -/
def Job.dstOff (j : Job) (w : Nat) : Int :=
  (j.cmd.dst.toNat : Int) + j.cmd.offset Dim.ds (if j.cmd.op = 3 then some (j.index w) else none) w

/-- A destination byte is also a source byte of the command (R186): elements are aligned to their size, so
some two addresses are equal. -/
def Job.overlaps (c : Ctx) (j : Job) : Bool :=
  let n := j.cmd.total
  j.cmd.op != 5 && j.cmd.sk == j.cmd.dk && (List.range n).any fun a => (List.range n).any fun b =>
    c.srcBase j + j.srcOff a == c.dstBase j + j.dstOff b

/-- Some bytes of device memory as a command reads them: a chunk that its own elements have written may give what stood
there before any of those writes (R186). DESIGN CHOICE, safe: log 32. -/
def Job.sees (j : Job) (m : Memory) (free pa n : Nat) : List Byte :=
  if j.hist.isEmpty then m.read pa n else
  (List.range n).map fun i =>
    let k := (pa + i) / 8
    match j.hist.get [] k with
    | [] => m.byte (pa + i)
    | l =>
      let vs := BitVec.ofNat 64 (m.num (k * 8) 8) :: l
      BitVec.ofNat 8 ((vs.getD (Config.freeNat (free + k) % vs.length) 0).toNat / 256 ^ ((pa + i) % 8))

/-- What a command's own write finds in device memory is kept, where the command reads device memory too (R186). -/
def Job.noteOld (j : Job) (m : Memory) (pa n : Nat) : Job :=
  if j.cmd.sk ≠ 0 ∨ j.cmd.op = 5 then j else
  { j with hist := ((List.range n).map fun i => (pa + i) / 8).eraseDups.foldl (fun t k =>
      t.upd [] k (BitVec.ofNat 64 (m.num (k * 8) 8) :: ·)) j.hist }

/-! ### Access to the five memories (R187, Table 8.4) -/

/-- What an element's access comes to: done, the end of the command with a kind, or a wait, each with the state that the
walk left (14 R364), or an address at which no memory is fitted. -/
inductive EOut (α : Type) where
  | ok (s : State) (a : α)
  | stop (s : State) (kind : Nat)
  | wait (s : State)
  | gone

/-- What follows an access. -/
def EOut.andThen {α β : Type} (x : EOut α) (f : State → α → EOut β) : EOut β :=
  match x with
  | .ok s a => f s a
  | .stop s k => .stop s k
  | .wait s => .wait s
  | .gone => .gone

/-- A staging address in the model's storage: partition, logical slice, way and byte.
DESIGN CHOICE, safe: log 66. -/
def stagingKey (part slice way off : Nat) : Nat := ((part * 32 + slice) * 16 + way) * 2 ^ 18 + off

/-- The storage of a staging offset of a guest (R188). DESIGN CHOICE, safe: log 66. -/
def State.stagingAt (s : State) (guest part slice off : Nat) : Option Nat :=
  if (s.part part).sliceCount ≤ slice then none
  else
    let m := ((s.guest guest).waysEff.get 0 slice).extractLsb' 16 16
    (nthBit m.toNat 16 (off / 2 ^ 18)).map fun w => stagingKey part slice w (off % 2 ^ 18)

/-- Device memory reached by an engine at a virtual address (R187): the physical address and the time of the
walk. DEDUCED, unsafe: log 33. -/
def State.engReach (s : State) (core : Nat) (guest : Nat) (pts : Nat) (a : Int) (acc : Access) : EOut (Nat × Nat) :=
  if a < 0 then .stop s 1
  else match s.translate ⟨guest, core, pts⟩ a.toNat acc with
    | (s, _, .fault x) => .stop s (if x.fault = 1 then 2 else 1)
    | (s, _, .lazy _) => .wait s
    | (s, t, .ok pa kind) => if kind ≠ 0 then .stop s 2 else if fitted pa then .ok s (pa, t) else .gone

/-- A scratchpad element lies in its slot, or in allocated granules (R187). -/
def Ctx.spadElem (c : Ctx) (ring : Option Nat) (off : Int) (base : Int) (n : Nat) : Bool :=
  decide (0 ≤ off) &&
    (match ring with
      | some r => decide (off + n ≤ ((c.ring r).size * 256 : Nat))
      | none => true) && decide (0 ≤ base + off) && c.allocatedRange (base + off).toNat n

/-- A host or peer address that an element may reach (R187, 22 R423, R427): its storage, or the kind with
which the command ends. DEDUCED, unsafe: log 33. -/
def State.outerReach (s : State) (kind guest part : Nat) (a : Int) (n : Nat) : EOut Nat :=
  if a < 0 then .stop s 2
  else if kind = 3 then
    if !s.outwinOk guest a.toNat n then .stop s 2 else if !s.links.hostUp then .stop s 7 else .ok s a.toNat
  else match s.peerAddr part a.toNat n with
    | none => .stop s 2
    | some x => if s.peerUp then .ok s x else .stop s 7

/-- The memory outside T of a kind, and its place. -/
def outerPlace (kind slice : Nat) : Place := if kind = 2 then .staging slice else if kind = 3 then .host else .peer

/-- The memory of a kind. -/
def State.outerMem (s : State) (kind : Nat) : Outer := if kind = 2 then s.staging else if kind = 3 then s.host else s.peer

/-- The memory of a kind replaced. -/
def State.setOuterMem (s : State) (kind : Nat) (o : Outer) : State :=
  if kind = 2 then { s with staging := o } else if kind = 3 then { s with host := o } else { s with peer := o }

/-- The storage address of a staging, host or peer element. -/
def State.outerKey (s : State) (c : Ctx) (kind : Nat) (a : Int) (n : Nat) : EOut Nat :=
  if kind = 2 then
    if a < 0 ∨ 2 ^ 37 ≤ a then .stop s 2
    else match s.stagingAt c.guest c.part (a.toNat / 2 ^ 32) (a.toNat % 2 ^ 32) with
      | some x => .ok s x
      | none => .stop s 2
  else s.outerReach kind c.guest c.part a n

/-- Element `w` read: its bytes and the time at which it was read. -/
def State.readElem (s : State) (core slot : Nat) (j : Job) (w : Nat) : EOut (List Byte × Nat) :=
  let c := s.ctx core slot
  let k := j.cmd
  let n := k.bytes
  let base := c.srcBase j
  let a := base + j.srcOff w
  if k.op = 5 then .ok s (leBytes n k.src.toNat, j.carry.pts)
  else if k.sk = 0 then
    (s.engReach core c.guest j.carry.pts a .read).andThen fun s r =>
      if s.dram.badIn r.1 n then .stop s 3
      else
        let (d, t) := (s.home c.part r.1).homeLoad r.2 (s.leaseLen c.guest r.1) r.1
        .ok ({ s with dram := d } : State).fresh (j.sees d.bytes s.free r.1 n, t)
  else if k.sk = 1 then
    if !c.spadElem k.sring (j.srcOff w) base n then .stop s 2
    else if c.spad.badIn a.toNat n then .stop s 3
    else .ok s.fresh (c.spad.load j.carry.know s.free a.toNat n, j.carry.pts)
  else
    (s.outerKey c k.sk a n).andThen fun s x =>
      .ok s.fresh ((s.outerMem k.sk).load j.carry.know (outerPlace k.sk (a.toNat / 2 ^ 32)) core slot s.free x n,
        j.carry.pts)

/-- The value that REDUCE stores over an old one (R184, R186). -/
def Job.combine (j : Job) (old : Nat) (bs : List Byte) : List Byte :=
  if j.cmd.op ≠ 4 then bs
  else match decAmo (BitVec.ofNat 6 j.cmd.red) with
    | some o => leBytes j.cmd.bytes (amoNew o j.fz (8 * j.cmd.bytes) old (leNat bs))
    | none => bs

/-- Element `w` written, at or after a time: the time of the write (R147, R148), and the command with what the write
found. -/
def State.writeElem (s : State) (core slot : Nat) (j : Job) (w : Nat) (bs : List Byte) (t : Nat) : EOut (Nat × Job) :=
  let c := s.ctx core slot
  let k := j.cmd
  let n := k.bytes
  let base := c.dstBase j
  let a := base + j.dstOff w
  if k.dk = 0 then
    (s.engReach core c.guest t a (if k.op = 4 then .atomic else .write)).andThen fun s r =>
      if s.locked r.1 then .wait s
      else if (k.op == 4 || decide (n < 8)) && s.dram.badIn r.1 n then .stop s 3
      else
        let (d, t) := (s.home c.part r.1).write r.2 r.1 (j.combine (s.dram.bytes.num r.1 n) bs) [] false
        .ok ({ s with dram := d } : State).noteCounters (t, j.noteOld s.dram.bytes r.1 n)
  else if k.dk = 1 then
    if !c.spadElem k.dring (j.dstOff w) base n then .stop s 2
    else match c.spad.badMerge a.toNat n with
      | some _ => .stop s 3
      | none => .ok (s.setCtx core slot { c with spad := c.spad.engineWrite j.uid a.toNat bs }) (j.carry.pts, j)
  else
    (s.outerKey c k.dk a n).andThen fun s x =>
      let o := s.outerMem k.dk
      .ok (s.setOuterMem k.dk (o.engineWrite j.uid x (j.combine (o.bytes.num x n) bs))) (j.carry.pts, j)

/-- Element `w` performed: read, then written. DESIGN CHOICE, safe: log 32. DEDUCED, safe: log 34. -/
def State.doElem (s : State) (core slot : Nat) (j : Job) (w : Nat) : EOut (Nat × Job) :=
  (s.readElem core slot j w).andThen fun s r => s.writeElem core slot j w r.1 r.2

/-! ### Running (R180, R194, R204) -/

/-- A command replaced in its queue. -/
def Ctx.setJob (c : Ctx) (q : Bool) (j : Job) : Ctx :=
  let e := c.eq q
  c.setEq q { e with jobs := e.jobs.map fun x => if x.uid = j.uid then j else x }

/-- What up to `n` elements come to; none where an address has no memory. DESIGN CHOICE, safe: log 32. -/
def State.moveElems (s : State) (core slot : Nat) (j : Job) : Nat → Option (State × Job)
  | 0 => some (s, j)
  | n + 1 =>
    if j.cmd.total ≤ j.progress then some (s, { j with st := .over })
    else match s.doElem core slot j j.progress with
      | .ok s (t, j) =>
        let j := { j with progress := j.progress + 1, partialDone := true, time := max j.time t }
        if j.cmd.total ≤ j.progress then some (s, { j with st := .over }) else s.moveElems core slot j n
      | .stop s k => some (s, { j with st := .over, kind := k })
      | .wait s => some (s, j)
      | .gone => none

/-- Commands of a context that have started. -/
def Ctx.started (c : Ctx) : Nat := ((c.q0.jobs ++ c.q1.jobs).filter (·.begun)).length

/-- Started commands of a core. -/
def State.coreStarted (s : State) (core : Nat) : Nat := (s.onCore core).foldl (fun a e => a + e.2.started) 0

/-- A claim of the source ring as RGET makes it (R194). -/
def claimSource (c : Ctx) (j : Job) : Option (Ctx × Job) :=
  match j.cmd.sring, j.sclaim with
  | some n, none =>
    let r := c.ring n
    if r.filled = 0 then none
    else
      let k := r.posted.headD ⟨0, []⟩
      let carry := j.carry.join k
      some (c.setRing n r.claimCons,
        { j with sclaim := some (r.nextCons, r.consClaims), carry := carry, time := max j.time carry.pts })
  | _, _ => some (c, j)

/-- A claim of the destination ring as RACQ makes it (R194). -/
def claimDest (c : Ctx) (j : Job) : Option (Ctx × Job) :=
  match j.cmd.dring, j.dclaim with
  | some n, none =>
    let r := c.ring n
    if r.free = 0 then none
    else some (c.setRing n r.claimFill, { j with dclaim := some (r.tail, r.fillClaims) })
  | _, _ => some (c, j)

/-- The index list, as the start of a command reads it (R185); none where it holds an uncorrectable word. -/
def State.readIndex (s : State) (c : Ctx) (j : Job) : Option (List Word) :=
  let k := j.cmd
  if k.op ≠ 2 ∧ k.op ≠ 3 then some []
  else if c.spad.badIn k.idxAddr (k.outer * k.idxBytes) then none
  else
    let bs := c.spad.load j.carry.know s.free k.idxAddr (k.outer * k.idxBytes)
    some ((List.range k.outer).map fun i => sext64 (8 * k.idxBytes) (fieldAt bs (i * k.idxBytes) k.idxBytes))

/-- A waiting command may claim and start: its CPUSH has retired (R209), it is the first of its queue that has not
started, fewer than 4 of the queue and 16 of the core's engine have, and what it waits for has completed (R180, 05 R109). -/
def State.mayStart (s : State) (core slot : Nat) (q : Bool) (j : Job) : Bool :=
  let c := s.ctx core slot
  let e := c.eq q
  ((e.jobs.find? (·.st == .waiting)).map (·.uid)) == some j.uid &&
    j.issued && decide ((e.jobs.filter (·.begun)).length < 4) && decide (s.coreStarted core < 16) &&
    j.waits.all fun u => !c.openUids.contains u

/-- A command's start, or as much of it as its rings allow. -/
def State.startJob (s : State) (core slot : Nat) (q : Bool) (j : Job) : State × Job :=
  let c := s.ctx core slot
  match claimSource c j with
  | none => (s, j)
  | some (c, j) =>
    match claimDest c j with
    | none => (s.setCtx core slot (c.setJob q j), j)
    | some (c, j) =>
      let j := match s.readIndex c j with
        | some l => { j with st := .running, begun := true, idx := l }
        | none => { j with st := .over, begun := true, kind := 3 }
      ((s.setCtx core slot (c.setJob q j)).fresh, j)

/-- The step of a command of one type (R184): it starts when it may, and moves up to `n` elements. -/
def runCommand (op core slot q seq n : Nat) (s : State) : Out :=
  let c := s.ctx core slot
  let qb := q == 1
  match (c.eq qb).jobs.find? fun j => j.seq == seq && j.cmd.op == op with
  | none => .next s
  | some j =>
    if !c.bound || !s.clocksRun || 1 < q then .next s else
    let (s, j) := if j.st == .waiting && s.mayStart core slot qb j then s.startJob core slot qb j else (s, j)
    if j.st ≠ .running then .next s
    else match s.moveElems core slot j n with
      | none => .fault .noDeviceMemory
      | some (s, j) =>
        let c := (s.ctx core slot).setJob qb j
        let c := if op = 2 then { c with gathers := c.gathers.put ⟨0, []⟩ j.uid ⟨j.time, [⟨j.uid, j.scope, true, none⟩]⟩ } else c
        .next (s.setCtx core slot c)

/-- COPY. -/
def execCopy (core slot q seq n : Nat) (s : State) : Out := runCommand 1 core slot q seq n s

/-- GATHER. -/
def execGather (core slot q seq n : Nat) (s : State) : Out := runCommand 2 core slot q seq n s

/-- SCATTER. -/
def execScatter (core slot q seq n : Nat) (s : State) : Out := runCommand 3 core slot q seq n s

/-- REDUCE. -/
def execReduce (core slot q seq n : Nat) (s : State) : Out := runCommand 4 core slot q seq n s

/-- FILL. -/
def execFill (core slot q seq n : Nat) (s : State) : Out := runCommand 5 core slot q seq n s

/-- A running command that reaches host or peer memory. -/
def Job.outside (j : Job) : Bool := j.st == .running && (decide (3 ≤ j.cmd.sk ∧ j.cmd.op ≠ 5) || decide (3 ≤ j.cmd.dk))

/-- ENGINE_TIMEOUT (R187): the next element of a command got no completion. DEDUCED, unsafe: log 93. -/
def execEngineTimeout (core slot q seq : Nat) (s : State) : Out :=
  let c := s.ctx core slot
  match (c.eq (q == 1)).jobs.find? fun j => j.seq == seq && j.outside with
  | none => .next s
  | some j =>
    if !c.bound then .next s
    else .next (s.setCtx core slot (c.setJob (q == 1) { j with st := .over, kind := 6 }))

/-! ### Completion (R190, R191) -/

/-- What a completion hands over to those who acquire it (07 R157). DEDUCED, safe: log 34. -/
def Job.done (j : Job) : Carry := ⟨j.time, [⟨j.uid, j.scope, true, none⟩]⟩

/-- The status word (Table 8.5). -/
def Job.status (c : Ctx) (core : Nat) (j : Job) : Word :=
  let again := !(j.cmd.op == 4 && j.partialDone) && !j.overlaps c
  BitVec.ofNat 64 (j.kind + bitNum again * 2 ^ 4 + bitNum j.partialDone * 2 ^ 5 + core % 256 * 2 ^ 8 +
    j.progress * 2 ^ 16 + j.seq % 2 ^ 16 * 2 ^ 48)

/-- The barrier object: the status word, then the phase, with what each phase word so far hands over to its reader (R190,
07 R158). DEDUCED, safe: log 46. -/
def Spad.barrier (m : Spad) (uid a : Nat) (status : Word) (k : Carry) : Spad :=
  let before := m.phase.get [] (a / 8)
  let m := m.engineWrite uid (a + 8) (leBytes 8 status.toNat)
  let m := m.engineWrite uid a (leBytes 8 (Nat.xor (m.bytes.num a 8) 1))
  { m with phase := m.phase.put [] (a / 8) ((uid, k) :: before) }

/-- Step 2: each side of the rings, once its turn has come; a turn that a sequencer's RPUT or RREL took is over, and there
may be nothing left to post or release (R104, R194). DEDUCED, safe: log 36. -/
def Ctx.giveSlots (c : Ctx) (j : Job) : Ctx × Job :=
  let (c, j) := match j.cmd.sring, j.sclaim with
    | some n, some (_, t) =>
      if (c.ring n).rels < t then (c, j)
      else (if (c.ring n).ncons = 0 then c else c.setRing n (c.ring n).release, { j with sclaim := none })
    | _, _ => (c, j)
  match j.cmd.dring, j.dclaim with
  | some n, some (_, t) =>
    if (c.ring n).posts < t then (c, j)
    else (if (c.ring n).nfill = 0 then c else c.setRing n ((c.ring n).post j.done), { j with dclaim := none })
  | _, _ => (c, j)

/-- Step 3: the events, the record, and the parking of a chain whose entry failed, also of one that had used up its credit
(R190, R193). -/
def Ctx.finishJob (c : Ctx) (q : Bool) (j : Job) (status : Word) : Ctx :=
  let e := c.eq q
  let r : List Record := if j.cmd.norec then [] else [⟨status, j.uid, j.done, j.cmd.places⟩]
  let fail := j.chained && j.kind != 0 && (e.st == 1 || (e.st == 2 && e.park == 1))
  let e := { e with
    jobs := e.jobs.filter fun x => x.uid != j.uid
    records := e.records ++ r
    st := if fail then 2 else e.st
    park := if fail then 4 else e.park }
  { c.setEq q e with
    events := c.events ||| j.cmd.sig
    evEng := (List.range 16).foldl (fun t n =>
      if j.cmd.sig.getLsbD n then t.upd ⟨0, []⟩ n (·.join j.done) else t) c.evEng
    doneCarry := c.doneCarry.put ⟨0, []⟩ j.uid j.done
    allDone := c.allDone.join j.done }

/-- A command of a queue whose elements are over. -/
def Ctx.ending (c : Ctx) (q : Bool) (seq : Nat) : Option Job :=
  (c.eq q).jobs.find? fun j => j.seq == seq && (j.st == .over || j.st == .ending)

/-- A step of a command's completion in its context: the barrier object first, whose status word the record has too
(R191); the slots as their turns come; then, at once, the events and the record (R190). -/
def Ctx.completeJob (c : Ctx) (core : Nat) (q : Bool) (j : Job) : Ctx :=
  let status := j.word.getD (j.status c core)
  let c := if j.st == .over then
      match j.cmd.bar with
      | some a => { c with spad := c.spad.barrier j.uid a status j.done }
      | none => c
    else c
  let (c, j) := c.giveSlots { j with st := .ending, word := some status }
  if j.sclaim.isNone && j.dclaim.isNone then c.finishJob q j status else c.setJob q j

/-- COMMAND_COMPLETE (R190): a command of a bound context completes, or one of a saved context that ran there, whose image
then takes the events, the record and the slots (R190, 05 R115). -/
def execCommandComplete (core slot q seq : Nat) (s : State) : Out :=
  let c := s.ctx core slot
  let qb := q == 1
  if c.bound then
    match c.ending qb seq with
    | none => .next s
    | some j => .next (s.setCtx core slot (c.completeJob core qb j))
  else
    match s.saved.find? fun e => e.2.core == core && e.2.slot == slot && (e.2.img.ending qb seq).isSome with
    | none => .next s
    | some (u, e) =>
      match e.img.ending qb seq with
      | none => .next s
      | some j => .next { s with saved := s.saved.ins u { e with img := e.img.completeJob core qb j } }

/-! ### Chains (R193) -/

/-- What reading a chain entry comes to. -/
inductive EntryOut where
  | ok (s : State) (bs : List Byte)
  | bad (s : State)
  | wait (s : State)
  | gone

/-- Bytes of a chain entry, in pieces of 8, as an engine read that sees what the last CCHAIN or CKICK
released. DESIGN CHOICE, unsafe: log 35. -/
def State.readChain (s : State) (core : Nat) (c : Ctx) (e : EngQueue) (a : Nat) : Nat → List Byte → EntryOut
  | 0, acc => .ok s acc
  | n + 1, acc =>
    if e.inSpad then
      if !c.allocatedRange a 8 || c.spad.badIn a 8 then .bad s
      else s.fresh.readChain core c e (a + 8) n (acc ++ c.spad.load e.carry.know s.free a 8)
    else match s.engReach core c.guest e.carry.pts a .read with
      | .ok s r =>
        if s.dram.badIn r.1 8 then .bad s
        else
          let (d, _) := (s.home c.part r.1).homeLoad r.2 (s.leaseLen c.guest r.1) r.1
          ({ s with dram := d } : State).readChain core c e (a + 8) n (acc ++ d.bytes.read r.1 8)
      | .stop s _ => .bad s
      | .wait s => .wait s
      | .gone => .gone

/-- A link entry passes its checks: src is a legal entry address of kind 0 or 1, and all else is zero.
DESIGN CHOICE, unsafe: log 35. -/
def linkOk (bs : List Byte) : Bool :=
  let w : Word := BitVec.ofNat 64 (fieldAt bs 0 8)
  let k := (w.extractLsb' 24 4).toNat
  let a := fieldAt bs 8 8
  decide (w &&& 0xFFFFFFFFF0FFFF00 = 0 ∧ k ≤ 1 ∧ a % 128 = 0 ∧ a < 2 ^ (if k = 1 then 22 else 57)) &&
    (bs.drop 16).all (· == 0)

/-- A refused entry: only its completion, and the chain parks (R193). Its record has one place and the next sequence
number, which it does not use up. DESIGN CHOICE, unsafe: log 35. -/
def Ctx.refuseEntry (c : Ctx) (core : Nat) (q : Bool) (uid reason : Nat) : Ctx :=
  let e := c.eq q
  let status : Word := BitVec.ofNat 64 (5 + 2 ^ 4 + core % 256 * 2 ^ 8 + c.nextSeq % 2 ^ 16 * 2 ^ 48)
  c.setEq q { e with
    records := e.records ++ [⟨status, uid, ⟨0, []⟩, 1⟩], credit := e.credit - 1, st := 2, park := reason }

/-- One fetched entry that has all its bytes (R193). -/
def State.takeEntry (s : State) (core slot : Nat) (q : Bool) (bs : List Byte) : State :=
  let c := s.ctx core slot
  let e := c.eq q
  let refuse (reason : Nat) : State :=
    { s.setCtx core slot (c.refuseEntry core q s.nextUid reason) with nextUid := s.nextUid + 1 }
  let spend (e : EngQueue) : EngQueue :=
    let n := e.credit - 1
    { e with credit := n, st := if n = 0 then 2 else e.st, park := if n = 0 then 1 else e.park }
  if fieldAt bs 0 1 = 7 then
    if linkOk bs then
      s.setCtx core slot (c.setEq q { spend e with
        ptr := BitVec.ofNat 64 (fieldAt bs 8 8), inSpad := fieldAt bs 3 1 % 16 == 1 })
    else refuse 3
  else
    let k := parseCmd bs
    if !c.boxesOk k || !(c.cmdFails (s.part c.part).sliceCount bs).isEmpty || c.stale k.scope then refuse 3
    else match c.waitsOf k.wait with
      | none => refuse 2
      | some l =>
        let c := c.setEq q { spend e with ptr := e.ptr + BitVec.ofNat 64 (128 * k.places) }
        (s.setCtx core slot c).enqueue core slot q k l e.carry true

/-- CHAIN_FETCH (R193): one entry fetched while the chain runs, has credit, and its queue has room.
DESIGN CHOICE, unsafe: log 35. -/
def execChainFetch (core slot q : Nat) (s : State) : Out :=
  let c := s.ctx core slot
  let qb := q == 1
  let e := c.eq qb
  if !c.bound || !s.clocksRun || 1 < q || e.st ≠ 1 || e.credit = 0 || 16 ≤ e.occupied then .next s
  else
    let refuse (s : State) : Out :=
      .next { s.setCtx core slot ((s.ctx core slot).refuseEntry core qb s.nextUid 3) with nextUid := s.nextUid + 1 }
    match s.readChain core c e e.ptr.toNat 16 [] with
    | .bad s => refuse s
    | .wait s => .next s
    | .gone => .fault .noDeviceMemory
    | .ok s1 bs =>
      if fieldAt bs 0 1 ≠ 7 ∧ 8 < dimsOf (BitVec.ofNat 64 (fieldAt bs 0 8)) then
        if 14 < e.occupied then .next s
        else match s1.readChain core c e (e.ptr.toNat + 128) 16 bs with
          | .bad s => refuse s
          | .wait s => .next s
          | .gone => .fault .noDeviceMemory
          | .ok s bs => .next (s.takeEntry core slot qb bs)
      else .next (s1.takeEntry core slot qb bs)

end Sys2Proof.Machine
end

