-- ==== Sys2Proof/Machine/MatrixRun.lean ====
section
/-! DEFINITION. The matrix engine at work: blocks and accumulation (11 R256 to R266, R269, R275), stops and
completion (R267, R268, R278, R279), and the refill of generators (06 R136). -/
namespace Sys2Proof.Machine

/-! ### Lines that a generator reads -/

/-- Acquisitions under which a generator reads: the reader's, and the gather commands of the context, whose
lines acquire what formed them (07 R157). -/
def Ctx.lineKnow (c : Ctx) (k : Know) : Know := c.gathers.foldl (fun a e => Know.union a e.2.know) k

/-- What popping a line acquires: of each gather command, its writes to the chunks whose value it gave the line, and
nothing else (07 R157). -/
def Ctx.lineCarry (c : Ctx) (cfg : GenCfg) (know : Know) (free k : Nat) : Carry :=
  if c.gathers.isEmpty then ⟨0, []⟩ else
  let by_ : List (Nat × Nat) := (cfg.chunksOf k).filterMap fun i => (c.spad.chunk know free i).1.map fun u => (u, i)
  ⟨0, c.gathers.flatMap fun g =>
    let l := (by_.filter fun e => e.1 == g.1).map (·.2)
    if l.isEmpty then [] else g.2.know.map fun a => { a with part := some l }⟩

/-- GENERATOR_REFILL (R136): a read generator reads its next line; a line with an uncorrectable word is left to
the instruction that pops it (R140). -/
def execGeneratorRefill (core slot g : Nat) (s : State) : Out :=
  let c := s.ctx core slot
  let x := c.gen g
  match x.cfg with
  | none => .next s
  | some cfg =>
    let k := x.pos + x.buf.length
    if !c.bound || cfg.write || 4 ≤ x.buf.length || (!cfg.wrap && decide (cfg.lines ≤ k)) then .next s
    else
      let k := k % max 1 cfg.lines
      if (cfg.badLine c.spad k).isSome then .next s
      else
        let know := c.lineKnow c.seq.x.know
        let l : GLine := ⟨lineOfBytes (cfg.readLine c.spad know s.free k), c.lineCarry cfg know s.free k⟩
        .next (s.fresh.setCtx core slot (c.setGen g { x with buf := x.buf ++ [l] }))

/-- Record `k` of a walk, as the array takes it: a buffered line, or the scratchpad as it stands (R267).
DEDUCED, unsafe: log 45. -/
def Ctx.matRecord (c : Ctx) (know : Know) (free g k : Nat) : LineBits :=
  let x := c.gen g
  match x.cfg with
  | none => 0
  | some cfg =>
    match (if x.pos ≤ k then x.buf[k - x.pos]? else none) with
    | some l => l.bits
    | none => lineOfBytes (cfg.readLine c.spad (c.lineKnow know) free (k % max 1 cfg.lines))

/-- The address of an uncorrectable word in record `k` of a walk. -/
def Ctx.matBad (c : Ctx) (g k : Nat) : Option Nat :=
  match (c.gen g).cfg with
  | none => none
  | some cfg => cfg.badLine c.spad (k % max 1 cfg.lines)

/-! ### Codes and blocks (R256 to R260, R269) -/

/-- One operand of a run: its records by their place in the walk, the scale record that the array holds from the even
block of a pair (R267), and its form. -/
structure Operand where
  line : Nat → LineBits
  held : Option LineBits
  scales : Bool
  sparse : Bool
  ns : Nat
  d : Nat

/-- The first record of pair `g`. -/
def Operand.base (o : Operand) (g : Nat) : Nat := g * pairRecords o.scales o.sparse o.ns o.d

/-- The digit of K value `k` of row `r` in a plane record (R258). -/
def planeDigit (l : LineBits) (r k : Nat) : Nat := l.toNat / 2 ^ (16 * r + 2 * k) % 4

/-- A code from the planes that start at a record. -/
def Operand.planes (o : Operand) (first r k : Nat) : Nat :=
  (List.range o.d).foldl (fun a t => a + planeDigit (o.line (first + k / 8 * o.d + t)) r (k % 8) * 4 ^ t) 0

/-- The code of row `r` at K value `k` of pair `g` (R256, R269). -/
def Operand.code (o : Operand) (g r k : Nat) : Int :=
  let first := o.base g + bitNum o.scales
  let v : Nat :=
    if o.sparse then
      let mask := (o.line (first + r / 32)).toNat / 2 ^ (64 * (r % 32)) % 2 ^ 64
      let e := countBits mask k
      if mask.testBit k && decide (e < o.ns) then o.planes (first + 4) r e else 0
    else o.planes first r k
  intVal (2 * o.d) true v

/-- The scale record of the pair of a block: the one that the array took with the even block, where it still holds it. -/
def Operand.scaleRecord (o : Operand) (blk : Nat) : LineBits :=
  match o.held with
  | some l => if blk % 2 = 1 then l else o.line (o.base (blk / 2))
  | none => o.line (o.base (blk / 2))

/-- The scale of row `r` in a block (R259). -/
def Operand.scale (o : Operand) (blk r : Nat) : Nat :=
  if o.scales then (o.scaleRecord blk).toNat / 2 ^ (8 * (r + 128 * (blk % 2))) % 256 else 133

/-- The scaled product of a block (R264); none for NaN. -/
def blockTerm (a b : Operand) (i j blk : Nat) : Option (Bool × Nat × Int) :=
  let ea := a.scale blk i
  let eb := b.scale blk j
  if ea = 0xFF ∨ eb = 0xFF then none
  else
    let dot := (List.range 32).foldl (fun (s : Int) k =>
      let k := 32 * (blk % 2) + k
      s + a.code (blk / 2) i k * b.code (blk / 2) j k) 0
    some (decide (dot < 0), dot.natAbs,
      ((ea : Int) - 127) + ((eb : Int) - 127) - (2 * a.d - 2) - (2 * b.d - 2))

/-- One addition to an accumulator (R264 to R266): the exact term rounded, then the sum rounded. -/
def addTerm (fz : Bool) (acc : Nat × FFlags) (t : Option (Bool × Nat × Int)) : Nat × FFlags :=
  let f := Fmt.fp32
  let (s, fl) : FV × FFlags := match t with
    | none => (.nan false, {})
    | some (n, m, e) =>
      let (c, fl) := f.round 0 false fz n m e
      (f.value fz c, fl)
  let (c, fl') := f.add 0 fz (f.value fz acc.1) s
  (c, acc.2.or (fl.or fl'))

/-- The exact sum of two terms (R265). -/
def sumTerms (x y : Option (Bool × Nat × Int)) : Option (Bool × Nat × Int) :=
  match x, y with
  | some (n1, m1, e1), some (n2, m2, e2) => some (exactAdd false n1 m1 e1 n2 m2 e2)
  | _, _ => none

/-- An accumulator after the blocks of one unit. -/
def unitCell (nbv : Nat) (fz : Bool) (a b : Operand) (i j : Nat) (blks : List Nat) (acc : Nat) : Nat × FFlags :=
  let ts := blks.map (blockTerm a b i j)
  match ts with
  | [x, y] => if nbv = 1 then addTerm fz (acc, {}) (sumTerms x y) else addTerm fz (addTerm fz (acc, {}) x) y
  | l => l.foldl (addTerm fz) (acc, {})

/-! ### One unit of a run -/

/-- The blocks of the next unit: a pair under NBV 1 and for a sparse B, else one block (R265, R278). -/
def MatRun.unit (r : MatRun) (nbv : Nat) : List Nat :=
  let left := shBlocks r.shape - r.blocks
  (List.range (min left (if nbv = 1 || shSparse r.shape then 2 else 1))).map (r.blocks + ·)

/-- The touched tiles before the first write: FP32, with nothing written where they were not (R263).
DEDUCED, safe: log 43. -/
def Ctx.prepareAcc (c : Ctx) (r : MatRun) : Ctx :=
  if r.blocks ≠ 0 then c else
  (touched r.acc r.shape).foldl (fun c t =>
    if (c.tile t).tag = 1 then c else c.setTile t ((c.tile t).clear.setTag 1)) c

/-- The cells of a row of one tile that lie in the corner. -/
def rowMask (n : Nat) : LineBits := BitVec.ofNat 2048 (2 ^ (32 * n) - 1)

/-- The context after one unit, given its operands. DEDUCED, safe: log 43. -/
def Ctx.matUnit (c : Ctx) (r : MatRun) (a b : Operand) : Ctx × MatRun :=
  let blks := r.unit c.nbv
  let zero := r.init && r.blocks == 0
  let c := c.prepareAcc r
  let (c, fl) := (List.range (shM r.shape)).foldl (fun (x : Ctx × FFlags) i =>
    (List.range ((shN r.shape + 63) / 64)).foldl (fun (x : Ctx × FFlags) tb =>
      let n := min 64 (shN r.shape - 64 * tb)
      let tn := r.acc + 2 * (i / 64) + tb
      let t := x.1.tile tn
      let cells := (List.range n).map fun j =>
        unitCell c.nbv r.fz a b i (64 * tb + j) blks (if zero then 0 else (t.cell (i % 64) j).toNat)
      let v : LineBits := BitVec.ofNat 2048 (packCells (cells.map (·.1)))
      (x.1.setTile tn (t.writeLine .row (i % 64) v (rowMask n)), cells.foldl (fun f e => f.or e.2) x.2)) x) (c, {})
  let kept (o : Operand) (k : Nat) (t : Tbl LineBits) : Tbl LineBits :=
    if o.scales && blks.length == 1 && r.blocks % 2 == 0 then t.ins k (o.scaleRecord r.blocks) else t.del k
  (c, { r with blocks := r.blocks + blks.length, flags := r.flags ||| fl.bits, scales := kept b 1 (kept a 0 r.scales) })
where
  /-- Cells of 32 bits, lowest first. -/
  packCells : List Nat → Nat
    | [] => 0
    | v :: t => v + 2 ^ 32 * packCells t

/-- The matrix instruction of X in flight. -/
def Ctx.matPending (c : Ctx) : Option Pending := c.seq.x.inflight.find? fun p => p.gate == .matrix

/-- Acquisitions under which the run's records are read. -/
def Ctx.matKnow (c : Ctx) : Know := match c.matPending with | some p => p.carry.know | none => []

/-- The context reads both operands of a run through one generator. -/
def Ctx.oneGen (c : Ctx) (r : MatRun) : Bool :=
  r.ga == r.gb && (r.opc != 0xB3 || (match c.matrix.binding with | some b => b.role == 0 | none => true))

/-- The record that comes to an operand's place in a walk. Where one generator gives both operands, the spec does not say
in which order their records are popped, and each place takes one of the lines, which is a free value.
DESIGN CHOICE, safe: log 103. -/
def Ctx.recordPlace (c : Ctx) (free : Nat) (r : MatRun) (a : Bool) (k : Nat) : Nat :=
  if c.oneGen r then
    Config.freeNat (free + 2 * k + bitNum a) % (shRecordsA r.shape + shRecordsB r.shape)
  else k

/-- Operand A of a run, read by a context. DEDUCED, unsafe: log 45. -/
def Ctx.operandA (c : Ctx) (free : Nat) (r : MatRun) : Operand :=
  { line := fun k => c.matRecord c.matKnow free r.ga (r.apos + c.recordPlace free r true k)
    held := r.scales.find 0
    scales := !r.shape.getLsbD 30, sparse := false, ns := 0, d := shDa r.shape }

/-- Operand B of a run, read by a context. -/
def Ctx.operandB (c : Ctx) (free : Nat) (r : MatRun) : Operand :=
  { line := fun k => c.matRecord c.matKnow free r.gb (r.bpos + c.recordPlace free r false k)
    held := r.scales.find 1
    scales := !r.shape.getLsbD 31, sparse := shSparse r.shape, ns := shNs r.shape, d := shDb r.shape }

/-- The records of the next unit lie below those of the pairs that it touches. -/
def pairSpan (first last pair : Nat) : List Nat := (List.range ((last / 2 + 1 - first / 2) * pair)).map (first / 2 * pair + ·)

/-- An uncorrectable word that the next unit would read (R279): in a record of an operand that the context
reads itself (in any of both operands' records, where one generator gives both), or in an accumulator. -/
def Ctx.unitBad (c : Ctx) (r : MatRun) (readsA readsB : Bool) : Option Trap :=
  if c.spad.bad.isEmpty && c.tiles.all (fun t => t.2.bad.isEmpty) then none else
  let blks := r.unit c.nbv
  let last := min (shBlocks r.shape - 1) (blks.foldl max 0)
  let look (g pos n total : Nat) : Option Trap :=
    ((pairSpan r.blocks last n).filter (· < total)).findSome? fun k =>
      (c.matBad g (pos + k)).map fun a => Trap.at .eccUncorr (BitVec.ofNat 64 a)
  let inA := if !readsA then none
    else if c.oneGen r then
      (List.range (shRecordsA r.shape + shRecordsB r.shape)).findSome? fun k =>
        (c.matBad r.ga (r.apos + k)).map fun a => Trap.at .eccUncorr (BitVec.ofNat 64 a)
    else look r.ga r.apos (shPairA r.shape) (shRecordsA r.shape)
  let inB := if readsB && !c.oneGen r then look r.gb r.bpos (shPairB r.shape) (shRecordsB r.shape) else none
  let inAcc := if r.init && r.blocks == 0 then none else
    (touched r.acc r.shape).findSome? fun t =>
      if (c.tile t).tag = 0 then none else
      ((c.tile t).bad.find? fun e =>
        let k := t - r.acc
        decide (k / 2 * 64 + e.1 / 64 < shM r.shape ∧ k % 2 * 64 + e.1 % 64 < shN r.shape)).map fun e =>
          eccTile t (e.1 / 64)
  match inA with
  | some t => some t
  | none => match inB with
    | some t => some t
    | none => inAcc

/-! ### Stops and completion -/

/-- The status word of a matrix instruction (R268). -/
def MatRun.status (r : MatRun) (core kind : Nat) (written : Bool) : Word :=
  BitVec.ofNat 64 (kind + bitNum (kind != 4) * 2 ^ 4 + bitNum written * 2 ^ 5 + (0x40 + core) % 256 * 2 ^ 8 +
    progressOf r.opc r.blocks r.lines * 2 ^ 16 + r.pc.toNat / 8 % 2 ^ 16 * 2 ^ 48)

/-- The barrier object of a matrix instruction (R268). -/
def Ctx.matBarrier (c : Ctx) (core : Nat) (r : MatRun) (kind : Nat) (written : Bool) : Ctx :=
  match r.bar with
  | none => c
  | some a =>
    let k : Carry := ⟨0, [⟨r.uid, ⟨1#64 <<< core, 0, false, false, none⟩, true, none⟩]⟩
    { c with spad := c.spad.barrier r.uid a (r.status core kind written) k }

/-- An error stops a run (R279): the barrier object first, then the fatal trap of X, whose later words are undone with the
instruction (R278, R28). DEDUCED, unsafe: log 41. -/
def Ctx.matFail (c : Ctx) (core : Nat) (r : MatRun) (kind : Nat) (t : Trap) : Ctx :=
  let c := c.matBarrier core r kind (r.blocks != 0)
  let c := { c with flags := c.flags ||| r.flags, matrix := { c.matrix with run := none, lastKind := kind } }
  if c.matPending.isNone then c
  else (c.undoMatrix c.seq.x.inflight.length).takeTrap .x { t with after := true }

/-- A generator after a run has popped its records. -/
def Ctx.consume (c : Ctx) (g start n : Nat) : Ctx :=
  let x := c.gen g
  match x.cfg with
  | none => c
  | some cfg =>
    let e := start + n
    c.setGen g { x with pos := if cfg.wrap then e % max 1 cfg.lines else e, buf := x.buf.drop (e - x.pos) }

/-- The completion and retire of a matrix instruction, the oldest of X in flight (R268). -/
def Ctx.matRetire (c : Ctx) (core : Nat) (r : MatRun) (readsA readsB : Bool) (p : Pending) : Ctx :=
  let c := c.matBarrier core r 0 true
  let c := if readsA then c.consume r.ga r.apos (shRecordsA r.shape) else c
  let c := if readsB then c.consume r.gb (r.bpos + if c.oneGen r then shRecordsA r.shape else 0) (shRecordsB r.shape) else c
  let m := { c.matrix with run := none, resume := none, lastKind := 0 }
  { c with flags := c.flags ||| r.flags, matrix := m }.retire .x p

/-- Up to `n` units of a run outside a quad. -/
def Ctx.matUnits (free : Nat) : Nat → Ctx → MatRun → Ctx × MatRun × Option Trap
  | 0, c, r => (c, r, none)
  | n + 1, c, r =>
    if shBlocks r.shape ≤ r.blocks then (c, r, none)
    else match c.unitBad r true true with
      | some t => (c, r, some t)
      | none =>
        let (c, r) := c.matUnit r (c.operandA free r) (c.operandB free r)
        matUnits (free + 1) n c r

/-- The members of a joint operation, each with its run. -/
def State.jointRuns (s : State) (core slot : Nat) : List (Nat × Nat × MatRun) :=
  (s.quad core slot).filterMap fun m =>
    match (s.ctx m.1 m.2).matrix.run with
    | some r => if r.opc = 0xB3 ∧ r.started = true then some (m.1, m.2, r) else none
    | none => none

/-- The role of a context in its binding. -/
def Ctx.role (c : Ctx) : Nat := match c.matrix.binding with | some b => b.role | none => 0

/-- An uncorrectable word that a member of a joint operation would read in the next unit. -/
def State.jointBad (s : State) (m : Nat × Nat × MatRun) : Option Trap :=
  let c := s.ctx m.1 m.2.1
  c.unitBad m.2.2 (c.role % 2 == 0) (c.role / 2 == 0)

/-- One unit of a joint operation on all four members (R275). -/
def State.jointUnit (s : State) (ms : List (Nat × Nat × MatRun)) : State :=
  let byRole (k : Nat) : Option (Ctx × MatRun) :=
    (ms.find? fun m => (s.ctx m.1 m.2.1).role == k).map fun m => (s.ctx m.1 m.2.1, m.2.2)
  let s' := ms.foldl (fun (z : State) m =>
    let c := s.ctx m.1 m.2.1
    match byRole (c.role / 2 * 2), byRole (c.role % 2) with
    | some (ca, ra), some (cb, rb) =>
      let (c, r) := c.matUnit m.2.2 (ca.operandA s.free ra) (cb.operandB s.free rb)
      z.setCtx m.1 m.2.1 { c with matrix := { c.matrix with run := some r } }
    | _, _ => z) s
  s'.fresh

/-- Up to `n` units of a joint operation. -/
def State.jointUnits : Nat → Nat → Nat → State → State
  | 0, _, _, s => s
  | n + 1, core, slot, s =>
    let ms := s.jointRuns core slot
    if ms.length ≠ 4 ∨ (ms.any fun m => decide (shBlocks m.2.2.shape ≤ m.2.2.blocks)) = true then s
    else match ms.find? fun m => (s.jointBad m).isSome with
      | some m =>
        let c := s.ctx m.1 m.2.1
        match s.jointBad m with
        | some t => s.setCtx m.1 m.2.1 (c.matFail m.1 m.2.2 3 t)
        | none => s
      | none => jointUnits n core slot (s.jointUnit ms)

/-- A matrix instruction of the context gets no block, since its class exceeds A (13 R324). -/
def Ctx.powerHolds (c : Ctx) : Bool :=
  c.seq.x.inflight.any fun p => decide (p.gate = .matrix) && decide (c.power.a < p.cls)

/-- MATRIX_COMPLETE (R268): a matrix instruction takes up to `n` units of blocks, all members of a joint
operation together; a second residue mismatch, which the outside brings about, stops it (R279); with no
block left and nothing older of X in flight, it completes and retires. DESIGN CHOICE, safe: log 44. -/
def execMatrixComplete (core slot n : Nat) (residue : Bool) (s : State) : Out :=
  let c := s.ctx core slot
  match c.matrix.run with
  | none => .next s
  | some r =>
    if !c.bound || !s.clocksRun || !r.started then .next s
    else
      let multiply : Bool := decide (0xB1 ≤ r.opc ∧ r.opc ≤ 0xB3)
      let n := if (s.quad core slot ++ [(core, slot)]).any fun m =>
          (r.opc == 0xB3 || m == (core, slot)) && (s.ctx m.1 m.2).powerHolds then 0 else n
      let s := if !multiply then s
        else if r.opc = 0xB3 then s.jointUnits n core slot
        else
          let (c, r, bad) := Ctx.matUnits s.free n c r
          let c : Ctx := match bad with
            | some t => c.matFail core r 3 t
            | none => { c with matrix := { c.matrix with run := some r } }
          { s with free := s.free + n }.setCtx core slot c
      let c := s.ctx core slot
      match c.matrix.run with
      | none => .next s
      | some r =>
        if residue && multiply && decide (r.blocks < shBlocks r.shape) then
          .next (s.setCtx core slot (c.matFail core r 4 { Trap.plain .engineErr with fatal := true }))
        else if multiply && decide (r.blocks < shBlocks r.shape) then .next s
        else match c.seq.x.inflight with
          | p :: _ =>
            if p.gate ≠ .matrix then .next s
            else
              let readsA := multiply && (r.opc != 0xB3 || c.role % 2 == 0)
              let readsB := multiply && (r.opc != 0xB3 || c.role / 2 == 0)
              .next (s.setCtx core slot (c.matRetire core r readsA readsB p))
          | [] => .next s

/-- JOINT_OPERATION_START (R275): all four members have issued their MMAC. The start is their check point: where the
shapes differ, each traps SHAPE; then a member whose tags or barrier address fail traps, and the others wait on
(R268). From the start on, X issues later words. DEDUCED, unsafe: log 41. -/
def execJointOperationStart (core slot : Nat) (s : State) : Out :=
  let ms := s.quad core slot
  let runs := ms.filterMap fun m =>
    (s.ctx m.1 m.2).matrix.run.filter fun r => r.opc == 0xB3 && !r.started
  let joints : List Nat := ms.map fun m => ((s.ctx m.1 m.2).matrix.binding.map (·.joints)).getD 0
  if ms.length ≠ 4 ∨ runs.length ≠ 4 ∨ (joints.all fun j => j == joints.headD 0) = false then .next s
  else
    let shapes := runs.map fun r => r.shape.extractLsb' 0 37
    let failed : State := ms.foldl (fun s m =>
      let c := s.ctx m.1 m.2
      match c.matrix.run.bind c.runTrap with
      | some t => s.setCtx m.1 m.2 (c.dropMmac t)
      | none => s) s
    let fails := ms.any fun m => ((s.ctx m.1 m.2).matrix.run.bind (s.ctx m.1 m.2).runTrap).isSome
    if shapes.all fun w => w == shapes.headD 0 then
      if fails then .next failed else
      .next (ms.foldl (fun s m =>
        let c := s.ctx m.1 m.2
        let run := c.matrix.run.map fun r => { r with started := true }
        let free (p : Pending) : Pending :=
          if p.gate = .matrix then { p with uses := p.uses.filter (· != .all) } else p
        let x := { c.seq.x with inflight := c.seq.x.inflight.map free }
        s.setCtx m.1 m.2 { c.setSeq .x x with matrix := { c.matrix with run := run } }) s)
    else
      .next (ms.foldl (fun s m => s.setCtx m.1 m.2 ((s.ctx m.1 m.2).dropMmac (Trap.plain .shape))) s)

/-! ### Stopping at a block boundary (R276, R278) -/

/-- A running multiply stops at its present block boundary: the resume record is made, and the word is undone with every
later word of X (R278, R28). DEDUCED, unsafe: log 41. -/
def Ctx.stopMatrix (c : Ctx) : Ctx :=
  match c.matrix.run, c.matPending with
  | some r, some _ =>
    if 0xB1 ≤ r.opc ∧ r.opc ≤ 0xB3 ∧ r.blocks < shBlocks r.shape then
      let rec_ : Option Resume := some ⟨r.pc, r.opc, r.shape, r.blocks, r.apos, r.bpos, r.acc, r.ga, r.gb⟩
      let b := c.matrix.binding.map fun b => if r.opc = 0xB3 then { b with joints := b.joints - 1 } else b
      let m := { c.matrix with run := none, resume := rec_, binding := b }
      { c with flags := c.flags ||| r.flags, matrix := m }.undoMatrix c.seq.x.inflight.length
    else c
  | _, _ => c

end Sys2Proof.Machine
end

