-- ==== Sys2Proof/Machine/System.lean ====
section
/-! DEFINITION. System instructions (14 R347 to R354); YIELD is in Machine/Preempt.lean. -/
namespace Sys2Proof.Machine

/-- A trap with the code of TRAP, BRK or HCALL. -/
def Trap.coded (c : Cause) (a : Word) (code : BitVec 16) : Trap := { Trap.at c a with code := code }

/-- TRAP (R348): taken after issue, with TRAP.PC at the next word. DEDUCED, unsafe: log 88. -/
def execTrap (cm : Common) (a : Spec) (code : BitVec 16) (s : State) : Out :=
  issue { opc := 0xE0, cm := cm, wf := (Instr.trap cm a code).wellFormed, srcs := [a] }
    (fun _ w _ => .trapNext (Trap.coded .softTrap (w.getD 0 0) code)) s

/-- A BRK of the executing context goes to the debugger (23 Table 23.5). -/
def State.breaksOut (s : State) : Bool :=
  s.trust.debug == 2 || (s.trust.debug == 1 && s.trust.unlocked.getLsbD s.me.part)

/-- BRK (R349): taken before issue; routed to the debugger, it halts the context at the BRK. -/
def execBrk (cm : Common) (code : BitVec 16) (s : State) : Out :=
  let r : Req := { opc := 0xE1, cm := cm, wf := (Instr.brk cm code).wellFormed, brk := some code }
  match r.preTrap s.me s.who.y with
  | some t =>
    if t.cause = .brk ∧ s.breaksOut = true then
      let c : Ctx := s.me.recordTrap s.who.y t
      .next (s.setMe { c with halted := true })
    else .next (s.takeTrap t)
  | none => .next s

/-- HCALL (R350): the context stops as for a pre-emption, with the HCALL issued. -/
def execHcall (cm : Common) (d : BitVec 5) (a : Spec) (code : BitVec 16) (s : State) : Out :=
  issue { opc := 0xE2, cm := cm, wf := (Instr.hcall cm d a code).wellFormed, srcs := [a] }
    (fun s w _ => .stop (.hcall code (w.getD 0 0) d.toNat) { s := s }) s

/-- TRET (R351): once every earlier instruction of C has retired. -/
def execTret (cm : Common) (s : State) : Out :=
  issue { opc := 0xE3, cm := cm, wf := (Instr.tret cm).wellFormed, priv := !s.me.handler,
          hold := !s.sq.inflight.isEmpty }
    (fun s _ _ =>
      let c := s.me.returnFromTrap
      .ok { s := s.setMe c, flow := .goto c.seq.c.pc }) s

/-- BUDGET (R352): the old value is read, and the new one set, at retire. -/
def execBudget (cm : Common) (d a : Spec) (n : BitVec 28) (s : State) : Out :=
  issue { opc := 0xE4, cm := cm, wf := (Instr.budget cm d a n).wellFormed, srcs := [a], dst := some d }
    (fun s w _ => .ok { s := s, eff := [.budget (min ((w.getD 0 0).toNat + n.toNat) (2 ^ 48 - 1)) d] }) s

/-- DISCARD (R353). -/
def execDiscard (cm : Common) (a d : Spec) (kind : BitVec 2) (s : State) : Out :=
  issue { opc := 0xE5, cm := cm, wf := (Instr.discard cm a d kind).wellFormed, srcs := [a, d] }
    (fun s w _ =>
      let t := (w.getD 0 0).toNat
      let n := (w.getD 1 0).toNat
      if kind = 0 ∧ n ≠ 0 ∧ s.me.tilesN < t + n then .trap (Trap.plain .tileRange)
      else if kind = 1 ∧ n ≠ 0 ∧ s.me.allocatedRange t n = false then .trap (Trap.plain .spadRange)
      else if kind = 1 ∧ (t % 512 ≠ 0 ∨ n % 512 ≠ 0) then .trap (Trap.plain .align)
      else .ok { s := s, eff := [.discard kind.toNat t n] }) s

/-- IFENCE (R354): after every earlier store of its sequencer; the code ring empties at issue. -/
def execIfence (cm : Common) (s : State) : Out :=
  issue { opc := 0xE6, cm := cm, wf := (Instr.ifence cm).wellFormed, hold := s.storesOut }
    (fun s _ _ => .ok { s := s.setSq { s.sq with ring := [] } }) s

end Sys2Proof.Machine
end

