-- ==== Sys2Proof/Machine/Preempt.lean ====
section
/-! DEFINITION. Retires (02 R27), how a context stops, is saved, restored, or ends by a fault (14 R339 to R345,
R355 to R360), its event records and firmware's answers (15 R389, R390). -/
namespace Sys2Proof.Machine

/-! ### Retires and the watchdog -/

/-- What a retire waits for beside its turn (05 R94, 07 R175, 13 R328). -/
def Pending.mayRetire (p : Pending) (c : Ctx) : Bool :=
  match p.gate with
  | .open_ => true
  | .marks l => l.all fun e => decide (e.2.2 ≤ (c.chan e.1 e.2.1).done)
  | .engine us => us.all fun u => !c.openUids.contains u
  | .matrix => false
  | .lower n => Sq.order.all fun y => (c.seq.get y).inflight.all fun q => decide (q.cls ≤ n)

/-- A retire after which the units of a core are settled (13 R327, R328). -/
def Pending.settles (p : Pending) : Bool :=
  (match p.gate with | .lower _ => true | _ => false) ||
    p.effects.any fun e => match e with | .power _ _ => true | _ => false

/-- A retire after which the effective levels of a core follow its units: that of a PWRREL (13 R325, R328). -/
def Pending.lowers (p : Pending) : Bool := match p.gate with | .lower _ => true | _ => false

/-- The effective levels of the contexts of a core follow their units. -/
def State.adjustCore (s : State) (core : Nat) : State :=
  (s.onCore core).foldl (fun s e => s.adjust (core * 4 + e.1)) s

/-- INSTRUCTION_RETIRE (R27): the oldest issued instruction of a sequencer retires, in the order C, L, X, S within a core
cycle (04 R67). -/
def execInstructionRetire (core slot : Nat) (y : Sq) (s : State) : Out :=
  let c := s.ctx core slot
  match (c.seq.get y).inflight with
  | [] => .next s
  | p :: _ =>
    let n := (s.core core).cycle
    if !c.bound || !s.clocksRun || !c.mayAct y n || !p.mayRetire c then .next s
    else
      let s := s.setCtx core slot ((c.retire y p).acts y n)
      let s := if p.settles then s.settle core (core * 4 + slot) else s
      .next (if p.lowers then s.adjustCore core else s)

/-- WAIT_TIMEOUT (05 R110): the coupling wait of a head word has exceeded its limit. -/
def execWaitTimeout (core slot : Nat) (y : Sq) (s : State) : Out :=
  let c := s.ctx core slot
  let q := c.seq.get y
  match q.waiting with
  | none => .next s
  | some w =>
    let n := (s.core core).cycle
    if !c.issuesIn y n || !s.clocksRun || decide (q.waited ≤ watchLimit c q) then .next s
    else
      let t := (s.asWho ⟨core, slot, y⟩).takeTrap { Trap.plain .waitTimeout with detail := w.kind * 2 ^ 4 + w.num }
      .next (t.setMe (t.me.acts y n))

/-- BUDGET_EXPIRY (14 R352): the BUDGET trap that is due, outside handler mode. -/
def execBudgetExpiry (core slot : Nat) (s : State) : Out :=
  let c := s.ctx core slot
  if !c.running || !c.budgetHeld || c.handler || !s.clocksRun then .next s
  else .next (s.setCtx core slot ({ c with budgetHeld := false }.takeTrap .c (Trap.plain .budget)))

/-! ### Event records (15 R389) -/

/-- The event record of a context that has stopped. DEDUCED, unsafe: log 23, 40. -/
def Ctx.event_ (c : Ctx) (kind core slot ticket : Nat) (addr info : Word) : EvRec :=
  ⟨kind, c.guest, core, slot, ticket, addr, info, c.pcs, c.trapCause⟩

/-- A record for the scheduler core that a partition names. -/
def State.postEvent (s : State) (part : Nat) (r : EvRec) : State :=
  let n := ((s.part part).w0.extractLsb' 20 2).toNat
  let f := s.fwCore n
  s.setFw n { f with evWait := f.evWait ++ [r] }

/-- Bytes 0–7 of an event record. -/
def EvRec.head (r : EvRec) : Nat := r.kind + r.guest * 2 ^ 8 + r.core * 2 ^ 16 + r.slot * 2 ^ 22 + r.ticket * 2 ^ 32

/-- The 64 bytes of an event record. -/
def EvRec.bytes (r : EvRec) : List Byte :=
  leBytes 8 r.head ++ leBytes 8 r.addr.toNat ++ leBytes 8 r.info.toNat ++ leBytes 8 r.pcs.c.toNat ++
    leBytes 8 r.pcs.l.toNat ++ leBytes 8 r.pcs.x.toNat ++ leBytes 8 r.pcs.s.toNat ++ leBytes 8 (r.cause % 256)

/-- EVENT_RECORD_POST (R389): the oldest record that waits, while the ring holds fewer than 63. An LR reservation of the
SRAM that it writes to ends. -/
def execEventRecordPost (fw : Nat) (s : State) : Out :=
  let f := s.fwCore fw
  match f.evWait with
  | [] => .next s
  | r :: rest =>
    if (f.evTail + 64 - f.evHead) % 64 = 63 then .next s
    else .next (s.setFw fw { f with
      sram := f.sram.write (0xFE000 + 64 * f.evTail) r.bytes, evTail := (f.evTail + 1) % 64, evWait := rest
      reservation := f.reservation.bind fun r => if 2 ^ 20 ≤ r.1 then some r else none })

/-- A ticket that no unanswered event has. DESIGN CHOICE, safe: log 38. -/
def State.newTicket (s : State) : State × Nat :=
  let used := s.saved.filterMap (·.2.ticket)
  let k := Config.freeNat s.free
  (s.fresh, (firstFrom (fun n => !used.contains (n % 2 ^ 16)) k (2 ^ 16)).getD k % 2 ^ 16)

/-! ### Fatal stops (14 R345, 12 R297) -/

/-- What a fatal stop of a context does outside its slot: its tasks, its launch, the fault record and the
completion of kind 4. -/
def State.failed (s : State) (c : Ctx) (core slot : Nat) : State :=
  let r := c.event_ 0 core slot 0 c.trapAddr c.trapInfo
  let cause : Launch → Launch := fun l => { l with fault := match l.fault with | some k => some k | none => some c.trapCause }
  let s := (s.returnTasks c.tasks).leaveLaunch c.launch cause
  (s.postEvent c.part r).postCq c.guest ⟨4, 0, 0, BitVec.ofNat 64 r.head, r.addr, none⟩

/-! ### Stops (R339, R357, 11 R276) -/

/-- The contexts that stop with one: the members of its quad, or itself. -/
def State.stopsWith (s : State) (core slot : Nat) : List (Nat × Nat) :=
  match (s.ctx core slot).matrix.binding with
  | some b => if 1 ≤ b.phase then (core, slot) :: (s.quad core slot).filter (· != (core, slot)) else [(core, slot)]
  | none => [(core, slot)]

/-- A context asked to stop in a cycle of its core; its matrix instruction stops at the present block boundary. A trap that
has come, or that comes in the same cycle, goes first, and the request then stops the context in the state that the trap's
entry leaves (R341). DEDUCED, unsafe: log 41. -/
def Ctx.askStop (c : Ctx) (why : StopWhy) (cycle : Nat) : Ctx :=
  if !c.bound then c else
  match c.stop with
  | none => { c.stopMatrix with stop := some (.preempt why), late := some (why, cycle) }
  | some (.trap _ _) => if c.late.isSome then c else { c with late := some (why, cycle) }
  | some (.preempt _) | some (.hcall _ _ _) => c

/-- Some contexts asked to stop, each in the present cycle of its core. -/
def State.askAll (s : State) (ms : List (Nat × Nat)) (why : StopWhy) : State :=
  ms.foldl (fun s m => s.setCtx m.1 m.2 ((s.ctx m.1 m.2).askStop why (s.core m.1).cycle)) s

/-- A pre-emption requested (R357): a bound quad stops as one. -/
def State.preempt (s : State) (core slot : Nat) (why : StopWhy) : State := s.askAll (s.stopsWith core slot) why

/-- A context that a pre-emption request can still reach: one that does not stop yet, or that stops for a trap (R341). -/
def Ctx.stoppable (c : Ctx) : Bool :=
  match c.stop with
  | none | some (.trap _ _) => true
  | some (.preempt _) | some (.hcall _ _ _) => false

/-- A context on a core that moves to another partition (15 R400). -/
def State.movingCore (s : State) (core : Nat) : Bool :=
  s.move15.busy && s.move15.word.extractLsb' 0 2 == 0 &&
    (s.move15.word.extractLsb' 16 32).getLsbD (pairOf core)

/-- Whether a pre-emption for a reason is due (R357, 15 R394, R395, R400, 13 R338). -/
def State.stopDue (s : State) (core : Nat) (c : Ctx) : StopWhy → Bool
  | .window => !s.admitted c.guest
  | .tileTime => s.exhausted c.guest
  | .move => s.movingCore core
  | .power => (s.part c.part).frozen
  | .firmware => true
  | .yield => false

/-- PREEMPT_REQUEST: the blocks already granted to a matrix instruction finish, then the context stops. -/
def execPreemptRequest (core slot : Nat) (why : StopWhy) (blocks : Nat) (s : State) : Out :=
  let c := s.ctx core slot
  if !c.bound || !c.stoppable || !s.stopDue core c why then .next s
  else match execMatrixComplete core slot blocks false s with
    | .next s => .next (s.preempt core slot why)
    | .fault f => .fault f
    | .refused r => .refused r

/-! ### Saves (R358, R359, 05 R115) -/

/-- The image of a context at its stop point: code rings and generator buffers are fetched again, and what a
save writes is clean from then on; DISCARD marks stand for what it recorded as discarded.
DESIGN CHOICE, safe: log 37. -/
def Ctx.image (c : Ctx) : Ctx :=
  let strip (q : Seqr) : Seqr := { q with ring := [], waiting := none, stalled := false, memWait := false }
  let clean := (List.range 8192).filterMap fun l => if c.allocated (512 * l) then some (l, true) else none
  let tiles := (List.range c.tilesN).foldl (fun (t : Tbl Tile) n => t.upd Tile.empty n fun x => { x with dirty := false }) c.tiles
  let b := c.matrix.binding.filter fun b => decide (1 ≤ b.phase)
  { c with
    seq := ⟨strip c.seq.c, strip c.seq.l, strip c.seq.x, strip c.seq.s⟩
    gens := c.gens.mapAll default fun _ g => { g with buf := [] }
    tiles := tiles
    spad := { c.spad with clean := clean }
    matrix := { c.matrix with binding := b }
    stop := none
    late := none
    acted := none
    tasks := { c.tasks with feedWait := none }
    power := { c.power with a := c.power.g, own := 0, given := none } }

/-- A context is saved and its slot freed; its waiting requests keep their places, and one whose grant had been made and
not taken goes first, since its place was before all that wait (13 R323, R327, R330). -/
def State.save (s : State) (core slot : Nat) (ticket hcall : Option Nat) (behind : Option (Bool × Nat × Nat)) :
    State :=
  let key := core * 4 + slot
  let uid := s.nextUid
  let e : Saved := ⟨(s.ctx core slot).image, core, slot, ticket, none, hcall, uid, behind⟩
  let keep (w : PWho) : PWho := match w with
    | .ctx k y => if k = key then .image uid y else .ctx k y
    | .image u y => .image u y
    | .saved u => .saved u
  let first : List PWho := match (s.ctx core slot).power.given with
    | some y => [.image uid y]
    | none => []
  let s := { s with
    saved := s.saved.ins uid e, nextUid := uid + 1
    power := { s.power with reqs := first ++ s.power.reqs.map keep } }
  ((s.freeGrant core slot).setCtx core slot Ctx.empty).coreBuckets core

/-- The other members of a context's quad are asked to stop with it. -/
def State.stopOthers (s : State) (core slot : Nat) : State :=
  s.askAll ((s.stopsWith core slot).filter (· != (core, slot))) .firmware

/-- Work that waits for a context slot of a core and could run there once one slot were free (R355): the first
to be bound (15 R394). -/
def State.waiter (s : State) (core slot : Nat) : Option (Bool × Nat × Nat) :=
  let v := s.setCtx core slot Ctx.empty
  let ls := s.launches.filterMap fun e =>
    match s.nextFor e.2 core with
    | some i => if s.mayRun e.2.guest && v.fits core e.2.desc.ask && !v.keptOff core e.1 i e.2 then
        some (e.2.prio, e.2.since, (true, e.1, i)) else none
    | none => none
  let vs := s.saved.filterMap fun e =>
    if e.2.ticket.isNone && s.mayRun e.2.img.guest && (v.restoreCores e.2.img).contains core && v.fits core e.2.img.ask then
      some (s.savedPrio e.2, e.2.since, (false, e.1, 0)) else none
  ((ls ++ vs).find? fun a => (ls ++ vs).all fun b => a == b || goesFirst a.1 a.2.1 b.1 b.2.1).map (·.2.2)

/-- CONTEXT_SAVE (R358): at its stop point a context that was pre-empted, or stopped by an HCALL, is saved.
DEDUCED, unsafe: log 40. -/
def execContextSave (core slot : Nat) (s : State) : Out :=
  let c := s.ctx core slot
  let stop (f : State → Out) : Out :=
    if !c.bound then .next s else
    let s := s.stopOthers core slot
    let c := s.ctx core slot
    let s := s.setCtx core slot c.stopMatrix
    if c.stopMatrix.quiet then f (s.setCtx core slot c.stopMatrix.recordPcs) else .next s
  match c.stop with
  | some (.preempt .yield) => stop fun s => .next (s.save core slot none none (s.waiter core slot))
  | some (.preempt _) => stop fun s => .next (s.save core slot none none none)
  | some (.hcall code arg d) => stop fun s =>
      let (s, t) := s.newTicket
      let c := s.ctx core slot
      let info : Word := (c.trapInfo &&& ~~~0x0000FFFF00000000#64) ||| (code.setWidth 64 <<< 32)
      let c := { c with trapInfo := info }
      .next (((s.setCtx core slot c).save core slot (some t) (some d) none).postEvent c.part (c.event_ 2 core slot t arg info))
  | some (.trap _ _) | none => .next s

/-! ### Traps delivered (R342 to R345) -/

/-- TRAP_ENTRY: a stopped context whose issued instructions have retired gets its cause delivered. A resumable
cause also stops a running matrix instruction, as a pre-emption does. -/
def execTrapEntry (core slot : Nat) (s : State) : Out :=
  let c := s.ctx core slot
  match c.stop with
  | some (.trap y t) =>
    if !c.bound || !s.clocksRun then .next s
    else match c.delivery t with
      | .handler => if c.quiet then .next (s.setCtx core slot (c.recordTrap y t).enterHandler) else .next s
      | .fatal =>
        if c.quiet then
          let r := c.recordTrap y t
          .next (((s.setCtx core slot r).failed r core slot).vacate core slot)
        else .next s
      | .resumable =>
        let s := s.stopOthers core slot
        let c := (s.ctx core slot).stopMatrix
        let s := s.setCtx core slot c
        if c.quiet then
          let r := c.recordTrap y t
          let (s, k) := (s.setCtx core slot r).newTicket
          .next ((s.save core slot (some k) none none).postEvent r.part (r.event_ 1 core slot k r.trapAddr r.trapInfo))
        else .next s
  | some (.preempt _) | some (.hcall _ _ _) | none => .next s

/-! ### YIELD (R355) -/

/-- YIELD: it stops its own context where other work waits for a slot of the core. -/
def execYield (cm : Common) (s : State) : Out :=
  issue { opc := 0xE7, cm := cm, wf := (Instr.yield cm).wellFormed }
    (fun s _ _ =>
      match s.waiter s.who.core s.who.slot with
      | some _ => .stop (.preempt .yield) { s := s }
      | none => .ok { s := s }) s

/-! ### Restores (R360, 12 R289, 13 R330) -/

/-- A DISCARD mark on a line between two scratchpad addresses. -/
def Spad.marked (m : Spad) (lo hi : Nat) : Bool := m.mark.any fun e => decide (lo / 512 ≤ e.1) && decide (e.1 ≤ hi / 512)

/-- The region that a generator walks was declared with DISCARD. -/
def Ctx.genMarked (c : Ctx) (g : Nat) : Bool :=
  match (c.gen g).cfg with
  | none => false
  | some k =>
    let b := walkBounds (k.base : Int) k.bytes (List.zip k.counts k.strides)
    c.spad.marked b.1.toNat b.2.toNat

/-- What was recorded as discarded comes back UNTYPED and unwritten (R360); a resume record over it is dropped (11
R278). -/
def Ctx.dropMarked (c : Ctx) : Ctx :=
  if (c.tiles.all fun e => !e.2.mark) && c.spad.mark.isEmpty then c else
  let gone (a : Nat) : Bool := c.spad.mark.get false (a / 512)
  let lost (r : Resume) : Bool := (touched r.acc r.shape).any (fun t => (c.tile t).mark) || c.genMarked r.ga || c.genMarked r.gb
  { c with
    discarded := true
    tiles := c.tiles.mapAll Tile.empty fun _ t => if t.mark then { Tile.empty with dirty := t.dirty } else t
    spad := { c.spad with
      bytes := c.spad.bytes.filter fun e => !gone e.1
      written := c.spad.written.filter fun e => !gone (512 * e.1)
      bad := c.spad.bad.filter fun e => !gone (8 * e.1)
      old := c.spad.old.filter fun e => !gone (8 * e.1)
      phase := c.spad.phase.filter fun e => !gone (8 * e.1)
      mark := [] }
    matrix := { c.matrix with resume := c.matrix.resume.filter fun r => !lost r } }

/-- Scope entries that name a core or logical slice no longer in the partition are stale (07 R166). -/
def Ctx.markStale (c : Ctx) (p : PartSt) : Ctx :=
  let out (m : Members) : Bool := m.cores &&& ~~~p.cores != 0 || m.slices.toNat / 2 ^ p.sliceCount != 0
  { c with scopes := c.scopes.mapAll Scope.empty fun n e => if 4 ≤ n && out e.m then { e with stale := true } else e }

/-- A saved context's image as it runs again, with its binding's word. -/
def Saved.context (e : Saved) (s : State) (word : Option Word) : Ctx :=
  let p := s.partOf e.img.guest
  let c := e.img.dropMarked.markStale (s.part p)
  let c := match e.result with
    | some (d, v) => c.setSeq .c (c.seq.c.setReg d v)
    | none => c
  let b := match word with
    | some w => c.matrix.binding.map fun b => { b with word := w }
    | none => c.matrix.binding
  { c with part := p, matrix := { c.matrix with binding := b } }

/-- The commands of a restored context whose scope entry is fixed follow the part as it is then (07 R164); those of other
entries keep what they captured (R165). DEDUCED, unsafe: log 62. -/
def State.recapture (s : State) (core slot : Nat) : State :=
  let c := s.ctx core slot
  let job (j : Job) : Job := if j.cmd.scope < 4 then { j with scope := s.scopeMembers core slot j.cmd.scope } else j
  s.setCtx core slot { c with
    q0 := { c.q0 with jobs := c.q0.jobs.map job }
    q1 := { c.q1 with jobs := c.q1.jobs.map job } }

/-- A saved context placed on a core with its grant, in one step; units asked back from a borrower are not free until what
runs there above its lowered level has finished (13 R325, R330). -/
def State.place (s : State) (uid : Nat) (e : Saved) (core : Nat) (word : Option Word) : Option State :=
  match s.freeSlot core,
    (s.restorePlan e.img core).filter fun pl => unitsFree pl (s.partOf e.img.guest) s.overrun with
  | some slot, some plan =>
    let key := core * 4 + slot
    let back (w : PWho) : PWho := match w with
      | .image u y => if u = uid then .ctx key y else .image u y
      | .ctx k y => .ctx k y
      | .saved u => .saved u
    let s := (s.setCtx core slot (e.context s word)).recapture core slot
    let s := { s with
      saved := s.saved.del uid
      power := { s.power with reqs := (s.power.reqs.filter (fun w => w != PWho.saved uid)).map back } }
    some ((s.take key plan).coreBuckets core)
  | _, _ => none

/-- The request of a saved context for its grant joins those that wait, once (13 R330). -/
def State.askFor (s : State) (uid : Nat) : State :=
  if s.power.reqs.contains (.saved uid) then s
  else { s with power := { s.power with reqs := s.power.reqs ++ [.saved uid] } }

/-- The saved members of a quad, by role (11 R276). -/
def State.savedQuad (s : State) (e : Saved) : List (Nat × Saved) :=
  match e.img.matrix.binding with
  | none => []
  | some b =>
    if b.broken then [] else
    (List.range 4).filterMap fun r => s.saved.find? fun x =>
      x.2.img.guest == e.img.guest && x.2.ticket.isNone &&
        match x.2.img.matrix.binding with
        | some k => decide (k.word = b.word ∧ k.role = r) && !k.broken
        | none => false

/-- The cores of a cluster on which a quad's member could be placed. DESIGN CHOICE, safe: log 42. -/
def State.quadCores (s : State) (e : Saved) (cl : Nat) : List Nat :=
  ((s.dies (s.partOf e.img.guest) e.img.heat).flatten).filter fun n =>
    clusterOf n == cl && s.fits n e.img.ask && !s.keepsOff n e && !s.ahead n (s.savedPrio e) e.since

/-- Some of a list, in a free order. -/
def freePicks : Nat → Nat → List Nat → List Nat
  | 0, _, _ => []
  | n + 1, free, l =>
    match l[Config.freeNat free % max 1 l.length]? with
    | some x => x :: freePicks n (free + 1) (l.filter (· != x))
    | none => []

/-- The binding word of a quad on other cores, its key kept. -/
def quadWord (w : Word) (cores : List Nat) : Word :=
  (w &&& 0xFFFFFFFF00000000#64) ||| BitVec.ofNat 64
    (cores.getD 0 0 + cores.getD 1 0 * 2 ^ 8 + cores.getD 2 0 * 2 ^ 16 + cores.getD 3 0 * 2 ^ 24)

/-- A quad placed on four cores of one cluster, as one (R276): which cluster with room, and which of its cores
takes which role, is free. DESIGN CHOICE, safe: log 42. -/
def State.placeQuad (s : State) (e : Saved) : Option State :=
  let ms := s.savedQuad e
  let cls := (List.range 8).filter fun k => decide (4 ≤ (s.quadCores e k).length)
  if ms.length ≠ 4 ∨ s.mayRun e.img.guest = false ∨ s.clocksRun = false then none
  else match cls[Config.freeNat s.free % max 1 cls.length]? with
    | none => none
    | some k =>
      let cores := freePicks 4 (s.free + 1) (s.quadCores e k)
      let w := (e.img.matrix.binding.map fun b => quadWord b.word cores)
      (List.zip ms cores).foldl (fun (a : Option State) m =>
        match a with
        | some s => s.place m.1.1 m.1.2 m.2 w
        | none => none) (some { s with free := s.free + 5 })

/-- CONTEXT_RESTORE (R360): a saved context that has its answer is placed on the core of R289, once its grant can
be made there and no older request comes first. -/
def execContextRestore (saved : Nat) (s : State) : Out :=
  match s.saved.find saved with
  | none => .next s
  | some e =>
    let bound := match e.img.matrix.binding with | some b => !b.broken | none => false
    if e.ticket.isSome then .next s
    else if bound then
      match s.placeQuad e with
      | some s => .next s
      | none => .next s
    else match s.restoreCore e with
      | some core =>
        if s.ahead core (s.savedPrio e) e.since then .next s
        else if s.restorePlan e.img core ≠ some (0, []) ∧ s.firstServed (.saved saved) = false then .next (s.askFor saved)
        else match s.place saved e core none with
          | some s => .next s
          | none => .next s
      | none => .next (if (s.roomCore e).isSome then s.askFor saved else s)

/-! ### Firmware's answers (15 R390) -/

/-- The saved context whose event has a ticket. DEDUCED, unsafe: log 39. -/
def State.ticketed (s : State) (ticket : Nat) : Option (Nat × Saved) := s.saved.find? fun e => e.2.ticket == some ticket

/-- FW_ANSWER_RESUME: the context may be restored. DEDUCED, unsafe: log 39. -/
def execFwAnswerResume (ticket : Nat) (s : State) : Out :=
  match s.ticketed ticket with
  | none => .next s
  | some (u, e) => .next { s with saved := s.saved.ins u { e with ticket := none } }

/-- The saved members of a quad that one of them has left: their binding is broken (11 R274). -/
def State.breakSaved (s : State) (e : Saved) : State :=
  match e.img.matrix.binding with
  | none => s
  | some b =>
    let part (x : Saved) : Saved :=
      match x.img.matrix.binding with
      | some k => if x.img.guest = e.img.guest ∧ k.word = b.word then
          { x with img := { x.img with matrix := { x.img.matrix with binding := some { k with broken := true } } } } else x
      | none => x
    { s with saved := s.saved.map fun x => (x.1, part x.2) }

/-- FW_ANSWER_DISCARD: as a fatal cause. -/
def execFwAnswerDiscard (ticket : Nat) (s : State) : Out :=
  match s.ticketed ticket with
  | none => .next s
  | some (u, e) =>
    let mine (w : PWho) : Bool := match w with
      | .image k _ => k == u
      | .saved k => k == u
      | .ctx _ _ => false
    let s := { s with
      saved := s.saved.del u, power := { s.power with reqs := s.power.reqs.filter fun w => !mine w } }
    .next ((s.breakSaved e).failed e.img e.core e.slot)

/-- FW_ANSWER_RESULT: the context may be restored, and FW.RESULT goes to the HCALL's destination. -/
def execFwAnswerResult (ticket : Nat) (s : State) : Out :=
  match s.ticketed ticket with
  | none => .next s
  | some (u, e) =>
    .next { s with saved := s.saved.ins u { e with ticket := none, result := e.hcall.map fun d => (d, s.fwResult) } }

end Sys2Proof.Machine
end

