-- ==== Sys2Proof/Machine/Contracts.lean ====
section
/-! DEFINITION. Contracts, frames and windows, tile time, Bazaar's queue configuration and way masks (15 R391 to
R398). -/
namespace Sys2Proof.Machine

/-! ### Contracts (R391) -/

/-- The fields of word 0 of GUEST[g] that firmware writes, and the partition field. -/
def w0Mask : Word := 0xFFFF07FFFFFFFFFF

/-- The partition field, which Vesper writes. -/
def partMask : Word := 0x0000380000000000

/-- A zero weight is stored as 1. -/
def fixWeight (w : Word) : Word := if w.extractLsb' 32 8 = 0 then w ||| (1#64 <<< 32) else w

/-- The power share of a word 1. -/
def shareOf (w : Word) : Nat := (w.extractLsb' 32 9).toNat

/-- A power share is refused where the shares of its partition, or all shares, would exceed 416. -/
def State.shareFits (s : State) (g n : Nat) : Bool :=
  let sum (f : Nat → Bool) : Nat := s.guests.foldl (fun a e => if e.1 ≠ g && f e.1 then a + shareOf e.2.w1 else a) n
  decide (sum (fun _ => true) ≤ 416) && decide (sum (fun k => s.partOf k == s.partOf g) ≤ 416)

/-- Whether a writer is firmware. -/
def byFirmware : Writer → Bool
  | .host _ => false
  | .sched _ => true
  | .vesper => true

/-- CONTRACT_WRITE: roots and weight take effect at once, the rest at the next frame start. -/
def execContractWrite (by_ : Writer) (guest off size : Nat) (v : Word) (s : State) : Out :=
  if !byFirmware by_ || 200 ≤ guest || 64 ≤ off then .next s else
  let g := s.guest guest
  let old := if off < 8 then g.w0 else if off < 16 then g.w1 else if off < 24 then g.s1 else g.s2
  match regMerge old off size v with
  | none => .next (s.accessFault by_ false (0x11000000 + 64 * guest + off) size)
  | some w =>
    if off < 8 then
      let mask := if by_ = .vesper then w0Mask ||| partMask else w0Mask
      let w := fixWeight (under mask g.w0 w)
      .next (s.setGuest guest { g with w0 := w, e0 := under (0xFF#64 <<< 32) g.e0 w })
    else if off < 16 then
      let w := under 0x000001FFFFFFFFFF g.w1 w
      let w := if s.shareFits guest (shareOf w) then w else under (0x1FF#64 <<< 32) w g.w1
      .next (s.setGuest guest { g with w1 := w })
    else if off < 24 then .next (s.setGuest guest { g with s1 := w &&& 0x0000FFFFFFFFF001 })
    else if off < 32 then .next (s.setGuest guest { g with s2 := w &&& 0x0000FFFFFFFFF001 })
    else .next s

/-! ### Frames and windows (R393, R394) -/

/-- Length of a window as written, in units of 10 µs. -/
def PartSt.lenOf (p : PartSt) (w : Nat) : Nat := ((p.lens.get 0 w).extractLsb' 0 14).toNat

/-- The configuration as written, where it may be taken: the window lengths in µs. -/
def PartSt.config (p : PartSt) : Option (List Nat) :=
  let frame := (p.w0.extractLsb' 0 14).toNat
  let ls := (List.range ((p.w0.extractLsb' 14 4).toNat + 1)).map p.lenOf
  if ls.foldl (· + ·) 0 = frame ∧ ls.all (· != 0) = true ∧ 100 ≤ frame ∧ frame ≤ 10000 then some (ls.map (10 * ·)) else none

/-- A guest at a frame start: its contract takes effect, and its tile time starts again (R391, R395). -/
def Guest.frameStart (g : Guest) : Guest := { g with e0 := g.w0, e1 := g.w1, charge := 0, told := false }

/-- The partition that a guest's contract names, which takes effect at a frame start (R391). -/
def Guest.partNext (g : Guest) : Nat := (g.w0.extractLsb' 43 3).toNat

/-- FRAME_START (R393): the waiting configuration is taken, and window 0 begins at a time. -/
def State.frameStart (s : State) (p at_ : Nat) : State :=
  let x := s.part p
  let run := x.next.getD x.run
  let s := s.setPart p { x with
    run := run, next := none, frames := x.frames + 1, window := 0, edge := at_ + run.headD 0 }
  { s with guests := s.guests.mapAll Guest.empty fun _ g => if g.part = p ∨ g.partNext = p then g.frameStart else g }

/-- PARTITION_CONFIG_WRITE: the registers take what is written; a configuration is taken, or refused with err.
DEDUCED, unsafe: log 57. -/
def execPartitionConfigWrite (part off : Nat) (access : RegAccess) (v : Word) (s : State) : Out :=
  let by_ := access.who
  let size := access.size
  if byFirmware by_ = false ∨ 8 ≤ part ∨ 64 ≤ off then .next s
  else if regHalves off size = none then .next (s.accessFault by_ false (0x11020000 + 64 * part + off) size)
  else if 48 ≤ off then .next s else
  let x := s.part part
  if 40 ≤ off then .next (s.setPart part { x with floor := (regMerge x.floor off size v).getD x.floor &&& 0xFFFF })
  else
    let wordOf (k : Nat) : Word := BitVec.ofNat 64
      ((List.range 4).foldl (fun a i => a + (x.lens.get 0 (4 * k + i)).toNat * 2 ^ (16 * i)) 0)
    let new : Option PartSt :=
      if off < 8 then
        (regMerge x.w0 off size v).map fun w => { x with w0 := under 0x000000000077FFFF x.w0 w }
      else
        let k := off / 8 - 1
        (regMerge (wordOf k) off size v).map fun w =>
          { x with lens := (List.range 4).foldl (fun t i => Tbl.put 0 t (4 * k + i) (w.extractLsb' (16 * i) 14 |>.setWidth 16)) x.lens }
    match new with
    | none => .next s
    | some y =>
      match y.config with
      | some run =>
        let y := { y with w0 := y.w0 &&& ~~~(1#64 <<< 19) }
        if x.enabled then .next (s.setPart part { y with next := if y.enabled then some run else none, run := if y.enabled then y.run else run })
        else
          let s := s.setPart part { y with run := run, next := none }
          .next (if y.enabled then s.frameStart part s.time else s)
      | none =>
        -- refused: err is set; frames do not begin on it, and the configuration before it stays
        let en := y.w0.getLsbD 18 && x.enabled
        let w := (y.w0 ||| (1#64 <<< 19)) &&& ~~~(1#64 <<< 18)
        .next (s.setPart part { y with w0 := if en then w ||| (1#64 <<< 18) else w })

/-- WINDOW_BOUNDARY (R394): the next window, or the next frame, begins, and contexts of guests not admitted in it
are asked to stop. -/
def execWindowBoundary (part : Nat) (s : State) : Out :=
  let x := s.part part
  if 8 ≤ part ∨ x.enabled = false ∨ s.time < x.edge then .next s else
  let s := if x.window + 1 < x.run.length then
      s.setPart part { x with window := x.window + 1, edge := x.edge + x.run.getD (x.window + 1) 0 }
    else s.frameStart part x.edge
  .next (s.ctxs.foldl (fun s e =>
    if e.2.part = part ∧ s.admitted e.2.guest = false then s.preempt (e.1 / 4) (e.1 % 4) .window else s) s)

/-- TILE_TIME_EXHAUSTED (R395). -/
def execTileTimeExhausted (guest : Nat) (s : State) : Out :=
  let g := s.guest guest
  if s.exhausted guest = false ∨ g.told = true then .next s else
  let s := s.setGuest guest { g with told := true }
  let s := s.ctxs.foldl (fun s e => if e.2.guest = guest then s.preempt (e.1 / 4) (e.1 % 4) .tileTime else s) s
  .next (s.postCq guest ⟨3, 0, 0, BitVec.ofNat 64 g.charge, 0, none⟩)

/-! ### Queues (R397) -/

/-- BZ.QCFG of a queue (Table 15.12). -/
def BQueue.word (q : BQueue) : Word :=
  BitVec.ofNat 64 (q.capM1 % 2 ^ 16 + q.kind % 4 * 2 ^ 16 + q.owner % 2 ^ 8 * 2 ^ 18 + q.ageing % 2 ^ 10 * 2 ^ 26 +
    bitNum q.enable * 2 ^ 36)

/-- QUEUE_CONFIG_WRITE: while the queue is enabled and holds records, only the ageing changes; a reserved kind
leaves the kind. DEDUCED, unsafe: log 57. -/
def execQueueConfigWrite (queue off : Nat) (access : RegAccess) (v : Word) (s : State) : Out :=
  let by_ := access.who
  let size := access.size
  if byFirmware by_ = false ∨ 4096 ≤ queue ∨ 8 ≤ off then .next s else
  let q := s.queue queue
  match regMerge q.word off size v with
  | none => .next (s.accessFault by_ false (0x11030000 + 8 * queue + off) size)
  | some w =>
    let f (lo n : Nat) : Nat := (w.extractLsb' lo n).toNat
    let q1 := { q with ageing := min 1000 (max 10 (f 26 10)) }
    if q.enable && !q.recs.isEmpty then .next (s.setQueue queue q1)
    else .next (s.setQueue queue { q1 with
      capM1 := f 0 16, kind := if f 16 2 = 3 then q.kind else f 16 2, owner := f 18 8, enable := w.getLsbD 36 })

/-! ### Ways (R392, R398) -/

/-- The physical slice that is a logical slice of a partition. -/
def PartSt.physical (p : PartSt) (l : Nat) : Option Nat := nthBit p.slices.toNat 32 l

/-- A word of WAYS[g] is taken: its masks do not overlap, and no guest of another partition holds a way it
names. -/
def State.waysOk (s : State) (g l : Nat) (w : BitVec 32) : Bool :=
  let both := w.extractLsb' 0 16 ||| w.extractLsb' 16 16
  let mine := (s.part (s.partOf g)).physical l
  w.extractLsb' 0 16 &&& w.extractLsb' 16 16 == 0 && s.guests.all fun e =>
    e.2.part == s.partOf g || (List.range 32).all fun k =>
      let x := e.2.ways.get 0 k
      (s.part e.2.part).physical k != mine || mine.isNone || (x.extractLsb' 0 16 ||| x.extractLsb' 16 16) &&& both == 0

/-- Staging bytes of a way of a logical slice dropped: the way reads zero. -/
def Outer.zeroWay (o : Outer) (part slice way : Nat) : Outer :=
  let lo := stagingKey part slice way 0
  let out (a : Nat) : Bool := decide (a < lo) || decide (lo + 2 ^ 18 ≤ a)
  { bytes := o.bytes.filter fun e => out e.1
    rel := o.rel.filter fun e => out e.1
    old := o.old.filter fun e => out (8 * e.1) }

/-- Lines of a physical slice written back and dropped: one that is read again takes as both times the slice's eviction
mark, the largest end of a lease that it has evicted (R398). -/
def Dram.evict (d : Dram) (slice : Nat) (gone : Nat → Bool) : Dram :=
  let out := d.lines.filter fun e => gone e.1
  if out.isEmpty then d else
  { d with
    lines := d.lines.filter fun e => !gone e.1
    marks := d.marks.put 0 slice (out.foldl (fun a e => max a e.2.rts) (max d.mark (d.marks.get 0 slice))) }

/-- The cache ways that a guest loses on some slices are written back (R398): of the lines that a slice holds, those of
the guest in the removed ways leave it; which these are the spec leaves to the slice, so each is a free choice.
DESIGN CHOICE, safe: log 66. -/
def State.evictWays (s : State) (g : Nat) : State :=
  let x := s.guest g
  let p := s.part x.part
  (List.range 32).foldl (fun s l =>
    match p.physical l with
    | some k =>
      let lost := (x.waysEff.get 0 l).extractLsb' 0 16 &&& ~~~((x.ways.get 0 l).extractLsb' 0 16)
      if lost = 0 then s else
      let d := s.dram.evict k fun n =>
        homeSlice p (128 * n) == l && s.inRanges g (128 * n) 128 && Config.freeBit (s.free + n)
      { s with dram := d }
    | none => s) s

/-- A guest's ways take effect (R398): lines of cache ways that it loses are written back, and ways that leave or join its
staging masks read zero. -/
def State.applyWays (s : State) (g : Nat) : State :=
  let s := (s.evictWays g).fresh
  let x := s.guest g
  let p := s.partOf g
  let staging (t : Tbl (BitVec 32)) (l k : Nat) : Bool := (t.get 0 l).getLsbD (16 + k)
  let o := (List.range 32).foldl (fun (o : Outer) l =>
    (List.range 16).foldl (fun (o : Outer) k =>
      if staging x.waysEff l k != staging x.ways l k then o.zeroWay p l k else o) o) s.staging
  { s.setGuest g { x with waysEff := x.ways } with staging := o }

/-- WAY_CHG (R398): the five steps, for one guest. -/
def execWayChg (guest : Nat) (s : State) : Out := .next (if 200 ≤ guest then s else s.applyWays guest)

end Sys2Proof.Machine
end

