-- ==== Sys2Proof/Machine/Convert.lean ====
section
/-! DEFINITION. Conversion instructions (09). -/
namespace Sys2Proof.Machine

/-- The request of a conversion. -/
def convReq (i : Instr) (opc : Nat) (cm : Common) (d : TileLine) (srcs : List TileLine) (p : BitVec 3) : Req :=
  { opc := opc, cm := cm, wf := i.wellFormed, cls := 4, tiles := (d :: srcs).map (·.tile.toNat)
    reads := lineLocs (d :: srcs) p, writes := [.tile d.tile.toNat] }

/-- The rounding mode read at issue (R67). -/
def State.rmNow (s : State) : Nat := s.me.rm.toNat

/-- A result of converted elements: `n` of them are written from element `t0` of d on (R222). -/
def State.convDone (s : State) (d : TileLine) (p : BitVec 3) (tag t0 n : Nat) (f : Nat → Nat × FFlags) : Result :=
  let gov (j : Nat) : Bool := governed (s.me.pred p.toNat) tag (t0 + j)
  let (cs, fl) := convAll n gov f
  let v := lineOfElems tag fun m => if t0 ≤ m ∧ m < t0 + n then cs.getD (m - t0) 0 else 0
  let mask := elemMask tag fun m => decide (t0 ≤ m ∧ m < t0 + n) && gov (m - t0)
  s.lineDone d tag v mask fl []

/-! ### CVT (R224) -/

/-- CVT. -/
def execCvt (cm : Common) (d a : TileLine) (tag : BitVec 5) (part : BitVec 3) (sat : Bool) (p : BitVec 3)
    (s : State) : Out :=
  issue (convReq (.cvt cm d a tag part sat p) 0x78 cm d [a] p) (fun s _ _ =>
    let st := s.tileTag a
    let sf := if st = 0 then tag.toNat else st
    let df := tag.toNat
    let ns := elems sf
    let nd := elems df
    let parts := if ns < nd then nd / ns else ns / nd
    if 11 ≤ st ∨ parts ≤ part.toNat then .trap (Trap.plain .fmtMismatch)
    else match s.tileEcc a with
      | some t => .trap t
      | none =>
        let l := s.tileLine a
        let c := s.me
        let n := min ns nd
        let s0 := if nd ≥ ns then 0 else part.toNat * nd
        let t0 := if nd ≥ ns then part.toNat * ns else 0
        s.convDone d p df t0 n fun j => convElem sf df s.rmNow sat c.fzOn (elem sf l (s0 + j))) s

/-! ### CVTR (R225) -/

/-- The stochastic rounding of R217 for a finite, non-zero magnitude, with its flags as R225 judges them. -/
def Fmt.stochastic (f : Fmt) (fz neg : Bool) (m : Nat) (e : Int) (u32 : Nat) : Nat × FFlags :=
  let s := if neg then f.signBit else 0
  let u := max (e + (bitLen m : Int) - 1 - f.mb) (f.emin - f.mb)
  let q0 := roundAt 1 false m e u
  let sh := (u - e).toNat
  let r := if u ≤ e then 0 else m % 2 ^ sh
  let q := if r = 0 then q0 else if u32 * 2 ^ sh < r * 2 ^ 32 then q0 + 1 else q0
  let nx := r != 0
  if f.overflows q u then (s + f.maxCode, { of := true, nx := true })
  else
    let tiny := u == f.emin - f.mb && decide (q < 2 ^ f.mb)
    if tiny && fz && f.flushes then (s, { uf := true, nx := true })
    else (s + ((u + f.mb + f.bias).toNat * 2 ^ f.mb + q - 2 ^ f.mb), { uf := tiny && nx, nx := nx })

/-- One element of CVTR. -/
def cvtrElem (f : Fmt) (fz : Bool) (c u32 : Nat) : Nat × FFlags :=
  match Fmt.fp32.value fz c with
  | .nan sig => (f.nan, { nv := sig })
  | .inf n => f.pack 0 true fz (.inf n)
  | .fin n m e => if m = 0 then (if n then f.signBit else 0, {}) else f.stochastic fz n m e u32

/-- CVTR: the index register of d chooses the line and, above it, the part. -/
def execCvtr (cm : Common) (d a b : TileLine) (p : BitVec 3) (s : State) : Out :=
  issue (convReq (.cvtr cm d a b p) 0x79 cm d [a, b] p) (fun s _ _ =>
    let dt := s.tileTag d
    match tagFmt dt with
    | none => .trap (Trap.plain .fmtMismatch)
    | some f =>
      if dt = 1 ∨ 1 < s.tileTag a then .trap (Trap.plain .fmtMismatch)
      else match s.eccOf [a, b] with
        | some t => .trap t
        | none =>
          let part := (s.sq.reg d.idx.toNat).toNat / 64 % (elems dt / 64)
          let la := s.tileLine a
          let lb := s.tileLine b
          let fz := s.me.fzOn
          s.convDone d p dt (part * 64) 64 fun j => cvtrElem f fz (elem 1 la j) (elem 1 lb j)) s

/-! ### QMX and DQMX (R226, R227) -/

/-- Precision bits of a QMX code. -/
def mxiBits (prec : Nat) : Nat :=
  if prec = 0 then 4 else if prec = 1 then 6 else if prec = 2 then 8 else if prec = 3 then 12 else 16

/-- RoundInt of R226: x × 2^(P-2) × 2^(127-E) rounded by a mode. -/
def mxiRound (rm bits e : Nat) (neg : Bool) (m : Nat) (x : Int) : Int × Bool :=
  roundInt rm neg m (x + ((bits : Int) - 2) + (127 - (e : Int)))

/-- One block of R226: the scale, the codes, and the flags. -/
def mxiBlock (rm bits : Nat) (fit : Bool) (xs : List FV) : Nat × List Nat × FFlags :=
  let top : Int := 2 ^ (bits - 1) - 1
  if xs.any fun x => match x with | .fin _ _ _ => false | .nan _ => true | .inf _ => true then
    (0xFF, xs.map fun _ => 0, { nv := true })
  else
    let lg (x : FV) : Int := match x with
      | .fin _ m e => if m = 0 then -1000 else e + (bitLen m : Int) - 1
      | .nan _ | .inf _ => -1000
    let mx := xs.foldl (fun a x => max a (lg x)) (-1000)
    let e0 : Nat := if mx = -1000 then 0 else (max 0 (mx + 127)).toNat
    let rnd (e : Nat) (x : FV) : Int × Bool := match x with
      | .fin n m ex => mxiRound rm bits e n m ex
      | .nan _ | .inf _ => (0, false)
    let e := if fit && decide (e0 < 254) && xs.any fun x => decide (top < ((rnd e0 x).1.natAbs : Int)) then e0 + 1 else e0
    let out := xs.map fun x =>
      let (i, ix) := rnd e x
      if top < i then (top, true) else if i < -top then (-top, true) else (i, ix)
    (e, out.map fun o => (o.1 + 2 ^ bits).toNat % 2 ^ bits, { nx := out.any (·.2) })

/-- QMX: reads and writes its scale register. -/
def execQmx (cm : Common) (d a : TileLine) (sc : BitVec 5) (prec : BitVec 3) (part : BitVec 2) (fit : Bool)
    (s : State) : Out :=
  issue { convReq (.qmx cm d a sc prec part fit) 0x7A cm d [a] 0 with srcs := [.s sc], dst := some (.s sc) }
    (fun s w _ =>
      let st := s.tileTag a
      let sf := if st = 0 then 1 else st
      let bits := mxiBits prec.toNat
      let dt := 12 + prec.toNat
      let ns := elems sf
      match (if st ≤ 3 ∧ part.toNat < elems dt / ns then tagFmt sf else none) with
      | none => .trap (Trap.plain .fmtMismatch)
      | some f =>
        match s.tileEcc a with
        | some t => .trap t
        | none =>
          let l := s.tileLine a
          let fz := s.me.fzOn
          let blocks := (List.range (ns / 32)).map fun b =>
            mxiBlock s.rmNow bits fit ((List.range 32).map fun j => f.value fz (elem sf l (32 * b + j)))
          let codes := blocks.flatMap (·.2.1)
          let fl := blocks.foldl (fun a b => a.or b.2.2) {}
          let g0 := part.toNat * (ns / 32)
          let word := (List.range (ns / 32)).foldl (fun (v : Word) b =>
            let sh := 8 * (g0 + b)
            (v &&& ~~~(0xFF#64 <<< sh)) ||| (BitVec.ofNat 64 ((blocks.getD b (0, [], {})).1) <<< sh)) (w.getD 0 0)
          let t0 := part.toNat * ns
          let v := lineOfElems dt fun m => if t0 ≤ m ∧ m < t0 + ns then store121 dt (codes.getD (m - t0) 0) else 0
          let mask := elemMask dt fun m => decide (t0 ≤ m ∧ m < t0 + ns)
          s.lineDone d dt v mask fl (Spec.write s.who.y (.s sc) word)) s

/-- The value of an MXI code under a scale (R213). -/
def mxiValue (bits e c : Nat) : FV :=
  if e = 0xFF then .nan false
  else
    let i := intVal bits true (c % 2 ^ bits)
    .fin (decide (i < 0)) i.natAbs ((e : Int) - 127 - ((bits : Int) - 2))

/-- DQMX: a NaN sets no flag. -/
def execDqmx (cm : Common) (d a : TileLine) (sc : Spec) (fmt part : BitVec 2) (p : BitVec 3) (s : State) : Out :=
  issue { convReq (.dqmx cm d a sc fmt part p) 0x7B cm d [a] p with srcs := [sc] }
    (fun s w _ =>
      let st := s.tileTag a
      let sf := if st = 0 then 14 else st
      let df := 1 + fmt.toNat
      match (if isMxi sf ∧ part.toNat < elems sf / elems df then tagFmt df else none) with
      | none => .trap (Trap.plain .fmtMismatch)
      | some f =>
        match s.tileEcc a with
        | some t => .trap t
        | none =>
          let l := s.tileLine a
          let fz := s.me.fzOn
          let sw := (w.getD 0 0).toNat
          s.convDone d p df 0 (elems df) fun j =>
            let k := part.toNat * elems df + j
            toFmt f s.rmNow false fz (mxiValue (codeBits sf) (sw / 2 ^ (8 * (k / 32)) % 256) (elem sf l k))) s

/-! ### PACK and UNPACK (R228, R229) -/

/-- The sources that PACK takes for a tag of d, the first being that of UNTYPED sources (Table 9.8). -/
def packSources (tag : Nat) : List Nat :=
  if tag = 2 ∨ tag = 3 then [1] else if tag = 4 ∨ tag = 5 then [2, 3] else if tag = 7 then [6]
  else if tag = 8 ∨ tag = 9 then [7] else if tag = 10 then [8] else []

/-- PACK. -/
def execPack (cm : Common) (d a b : TileLine) (p : BitVec 3) (s : State) : Out :=
  issue (convReq (.pack cm d a b p) 0x7C cm d [a, b] p) (fun s _ _ =>
    let dt := s.tileTag d
    let ta := s.tileTag a
    let tb := s.tileTag b
    let l := packSources dt
    let sf := if ta ≠ 0 then ta else if tb ≠ 0 then tb else l.headD 0
    if !l.contains sf || (ta ≠ 0 && tb ≠ 0 && ta ≠ tb) then .trap (Trap.plain .fmtMismatch)
    else match s.eccOf [a, b] with
      | some t => .trap t
      | none =>
        let la := s.tileLine a
        let lb := s.tileLine b
        let ns := elems sf
        let fz := s.me.fzOn
        s.convDone d p dt 0 (2 * ns) fun j =>
          convElem sf dt s.rmNow true fz (if j < ns then elem sf la j else elem sf lb (j - ns))) s

/-- The destinations that UNPACK takes for a tag of a (Table 9.9); UNTYPED takes any of the table. -/
def unpackDests (tag : Nat) : List Nat :=
  if tag = 2 ∨ tag = 3 then [1] else if tag = 4 ∨ tag = 5 then [2, 3] else if tag = 7 then [6]
  else if tag = 8 ∨ tag = 9 then [7] else if tag = 10 then [8] else if tag = 0 then [1, 2, 3, 6, 7, 8] else []

/-- UNPACK. -/
def execUnpack (cm : Common) (d a : TileLine) (tag : BitVec 5) (hi : Bool) (p : BitVec 3) (s : State) : Out :=
  issue (convReq (.unpack cm d a tag hi p) 0x7D cm d [a] p) (fun s _ _ =>
    let sf := s.tileTag a
    let df := tag.toNat
    if !(unpackDests sf).contains df then .trap (Trap.plain .fmtMismatch)
    else match s.tileEcc a with
      | some t => .trap t
      | none =>
        let l := s.tileLine a
        let fz := s.me.fzOn
        let nd := elems df
        s.convDone d p df 0 nd fun j =>
          if sf = 0 then (0, {}) else convElem sf df s.rmNow false fz (elem sf l (bitNum hi * nd + j))) s

/-! ### ZTAG and ZTAGR (R230, R231) -/

/-- An earlier instruction of the sequencer that uses a tile has not retired (R230). -/
def Seqr.usesTile (q : Seqr) (t : Nat) : Bool :=
  q.inflight.any fun p => p.uses.contains (.tile t) || p.reads.contains (.tile t)

/-- ZTAG: a write of every line of the tile, behind every earlier use of it. -/
def execZtag (cm : Common) (tile : BitVec 6) (tag : BitVec 5) (s : State) : Out :=
  issue { opc := 0x7E, cm := cm, wf := (Instr.ztag cm tile tag).wellFormed, tiles := [tile.toNat]
          writes := [.tile tile.toNat], hold := s.sq.usesTile tile.toNat }
    (fun s _ _ => .ok { s := s, eff := [.tag tile.toNat tag.toNat] }) s

/-- An earlier instruction of the sequencer that names a tile has not retired. -/
def State.tilesOut (s : State) : Bool :=
  s.sq.inflight.any fun p => decide (0x52 ≤ p.opc ∧ p.opc ≤ 0x53) || decide (0x57 ≤ p.opc ∧ p.opc ≤ 0x58) ||
    decide (0x78 ≤ p.opc ∧ p.opc ≤ 0xAA) || decide (0xB1 ≤ p.opc ∧ p.opc ≤ 0xB6) || p.opc == 0xE5

/-- ZTAGR: writes the old tag at retire, and sets the new one. -/
def execZtagr (cm : Common) (d a b : Spec) (s : State) : Out :=
  issue { opc := 0x7F, cm := cm, wf := (Instr.ztagr cm d a b).wellFormed, srcs := [a, b], dst := some d
          hold := s.tilesOut }
    (fun s w _ =>
      let t := (w.getD 0 0).toNat
      let g := (w.getD 1 0).toNat
      if s.me.tilesN ≤ t then .trap (Trap.plain .tileRange)
      else if 16 < g then .trap (Trap.plain .fmtMismatch)
      else .ok { s := s, eff := [.oldTag d t, .tag t g] }) s

end Sys2Proof.Machine
end

