-- ==== Sys2Proof/Machine/Coupling.lean ====
section
/-! DEFINITION. Coupling instructions: queues, tokens, events and rings (05). -/
namespace Sys2Proof.Machine

/-! ### Channels (R94, R95) -/

/-- The kinds that a QDISC names. -/
def discKinds (kinds : BitVec 3) : List ChanKind :=
  (if kinds.getLsbD 0 then [.data] else []) ++ (if kinds.getLsbD 1 then [.tok] else []) ++
    (if kinds.getLsbD 2 then [.bo] else [])

/-- The channels that a QDISC of sequencer `z` acts on. -/
def discChans (z : Sq) (srcs : BitVec 4) (kinds : BitVec 3) : List (ChanKind × Nat) :=
  (Sq.order.filter fun y => srcs.getLsbD y.num).flatMap fun y =>
    (discKinds kinds).map fun k => (k, chanIx y z)

/-- QDISC (R94): it retires once every slot reserved at its issue has been written or released, and discards no entry of
a slot reserved later. -/
def execQdisc (cm : Common) (srcs : BitVec 4) (kinds : BitVec 3) (s : State) : Out :=
  issue { opc := 0x40, cm := cm, wf := (Instr.qdisc cm srcs kinds).wellFormed, self := ownBit srcs s.who.y }
    (fun s _ _ =>
      let chs := discChans s.who.y srcs kinds
      let marks := chs.map fun e => (e.1, e.2, (s.me.chan e.1 e.2).done + (s.me.chan e.1 e.2).rsv)
      .ok { s := s, eff := marks.map fun e => .discardChan e.1 e.2.1 e.2.2, gate := .marks marks }) s

/-- The word of Table 5.3. -/
def qstatWord (c : Ctx) (ch : Nat) : Word :=
  let f (k : ChanKind) (a b d : Nat) : Nat :=
    let x := c.chan k ch
    x.avail.length * 2 ^ a + x.rsv * 2 ^ b + x.held * 2 ^ d
  BitVec.ofNat 64 (f .data 0 4 8 + f .tok 12 17 22 + f .bo 27 32 37)

/-- QSTAT (R95): the snapshot is that of the start of the cycle of issue. -/
def execQstat (cm : Common) (d : Spec) (ch : BitVec 4) (s : State) : Out :=
  let v := qstatWord s.me ch.toNat
  issue { opc := 0x41, cm := cm, wf := (Instr.qstat cm d ch).wellFormed, dst := some d }
    (fun s _ _ => .ok { s := s, eff := Spec.write s.who.y d v }) s

/-! ### Events (R97, R98) -/

/-- The mask of EVSET and EVCLR (R97): bits [15:1] of the field and of the scalar. -/
def eventMask (a : Word) (mask : BitVec 15) : BitVec 16 :=
  ((mask.setWidth 16) <<< 1) ||| (a.setWidth 16 &&& 0xFFFE#16)

/-- EVSET (R97). -/
def execEvset (cm : Common) (a : Spec) (mask : BitVec 15) (s : State) : Out :=
  issue { opc := 0x42, cm := cm, wf := (Instr.evset cm a mask).wellFormed, srcs := [a] }
    (fun s w _ => .ok { s := s, eff := [.event (eventMask (w.getD 0 0) mask) true] }) s

/-- EVCLR (R97). -/
def execEvclr (cm : Common) (a : Spec) (mask : BitVec 15) (s : State) : Out :=
  issue { opc := 0x43, cm := cm, wf := (Instr.evclr cm a mask).wellFormed, srcs := [a] }
    (fun s w _ => .ok { s := s, eff := [.event (eventMask (w.getD 0 0) mask) false] }) s

/-- The listed events of an EVWAITM. -/
def listedEvents (mask : BitVec 15) : List Nat := (List.range 16).filter fun n => decide (1 ≤ n) && mask.getLsbD (n - 1)

/-- The unmet condition of an EVWAITM (R98); with `any` it is the lowest listed event.
DESIGN CHOICE, unsafe: log 97. -/
def evWait (c : Ctx) (mask : BitVec 15) (any : Bool) : Option Wait :=
  let l := listedEvents mask
  if any then (if l.any c.event then none else some ⟨1, l.headD 0⟩)
  else (l.find? fun n => !c.event n).map fun n => ⟨1, n⟩

/-- EVWAITM (R98): it receives what the listed events that are set hand over (07 R145, R157). -/
def execEvwaitm (cm : Common) (d : Spec) (mask : BitVec 15) (any : Bool) (s : State) : Out :=
  issue { opc := 0x44, cm := cm, wf := (Instr.evwaitm cm d mask any).wellFormed, dst := some d,
          wait := evWait s.me mask any }
    (fun s _ _ =>
      let c := s.me
      let q := ((listedEvents mask).filter c.event).foldl (fun q n => q.receive (c.eventCarry n)) s.sq
      .ok { s := s.setSq q, eff := Spec.write s.who.y d ((c.events &&& 0xFFFE#16).setWidth 64) }) s

/-! ### Branch outcomes (R99, R100) -/

/-- BOPUSH (R99). -/
def execBopush (cm : Common) (dest : Sq) (k : BitVec 3) (neg : Bool) (s : State) : Out :=
  let ch := chanIx s.who.y dest
  issue { opc := 0x45, cm := cm, wf := (Instr.bopush cm dest k neg).wellFormed, self := dest == s.who.y,
          reads := kLocOf k, bo := some ch,
          wait := if 16 ≤ (s.me.chan .bo ch).occupancy then some ⟨4, dest.num⟩ else none }
    (fun s _ _ => .ok { s := s, eff := [.push .bo ch (BitVec.ofNat 64 (bitNum (s.sq.cond k.toNat != neg)))] }) s
where
  /-- The interlock of a condition; k0 is never written. -/
  kLocOf (k : BitVec 3) : List Loc := if k = 0 then [] else [.k k.toNat]

/-- BRQ (R100). -/
def execBrq (cm : Common) (bn : BitVec 3) (src : Sq) (neg : Bool) (s : State) : Out :=
  let ch := chanIx src s.who.y
  issue { opc := 0x46, cm := cm, wf := (Instr.brq cm bn src neg).wellFormed, self := src == s.who.y,
          check := if (s.sq.breg bn.toNat).prepared || s.sq.pending (.b bn.toNat) then none
                   else some (Trap.plain .badTarget),
          reads := [.b bn.toNat], boSrc := some ch,
          wait := if (s.me.chan .bo ch).avail.isEmpty then some ⟨4, src.num⟩ else none }
    (fun s w _ =>
      let f : Flow := if ((w.getD 0 0).getLsbD 0) != neg then .jump (s.sq.breg bn.toNat).target else .seq
      .ok { s := s, flow := f }) s

/-! ### Rings (R101 to R105) -/

/-- The interlock of a ring between instructions of one sequencer: RINIT, RPUT and RREL act on it at
their retire. DEDUCED, safe: log 27. -/
def ringLoc (n : BitVec 4) : Loc := .sr (0x1000 + n.toNat)

/-- A ring that no instruction may use: at or above the kernel's count, or never set (R103, R104). -/
def Ctx.ringBad (c : Ctx) (n : Nat) : Bool := decide (c.ringsN ≤ n) || !(c.ring n).valid

/-- The specification of RINIT passes Table 5.5. -/
def ringSpecOk (w : Word) : Bool :=
  let size := (w.extractLsb' 32 9).toNat
  let count := (w.extractLsb' 48 7).toNat
  decide (w.extractLsb' 0 8 = 0 ∧ w.extractLsb' 22 10 = 0 ∧ w.extractLsb' 41 7 = 0 ∧ w.extractLsb' 55 9 = 0 ∧
    1 ≤ size ∧ size ≤ 256 ∧ 1 ≤ count ∧ count ≤ 64)

/-- RINIT (R102). Where RING_FAULT and SPAD_RANGE both apply it reports RING_FAULT. DESIGN CHOICE, unsafe: log 97. -/
def execRinit (cm : Common) (rg : BitVec 4) (a : Spec) (s : State) : Out :=
  issue { opc := 0x47, cm := cm, wf := (Instr.rinit cm rg a).wellFormed, srcs := [a], writes := [ringLoc rg] }
    (fun s w _ =>
      let v := w.getD 0 0
      let c := s.me
      let n := rg.toNat
      let base := (v.extractLsb' 0 22).toNat
      let size := (v.extractLsb' 32 9).toNat
      let count := (v.extractLsb' 48 7).toNat
      if decide (c.ringsN ≤ n) || !ringSpecOk v || (c.ring n).nfill != 0 || (c.ring n).ncons != 0 then
        .trap (Trap.plain .ringFault)
      else if !c.allocatedRange base (count * size * 256) then .trap (Trap.plain .spadRange)
      else .ok { s := s, eff := [.ringInit n base size count] }) s

/-- The wait of RACQ and RGET for a slot (R103). -/
def ringWait (c : Ctx) (n : Nat) (have_ : Ring → Nat) : Option Wait :=
  if c.ringBad n then none else if have_ (c.ring n) = 0 then some ⟨5, n⟩ else none

/-- RACQ (R103): the claim is made at issue. -/
def execRacq (cm : Common) (d : Spec) (rg : BitVec 4) (s : State) : Out :=
  issue { opc := 0x48, cm := cm, wf := (Instr.racq cm d rg).wellFormed, dst := some d, reads := [ringLoc rg],
          wait := ringWait s.me rg.toNat Ring.free }
    (fun s _ _ =>
      let c := s.me
      let r := c.ring rg.toNat
      if c.ringBad rg.toNat then .trap (Trap.plain .ringFault)
      else .ok { s := s.setMe (c.setRing rg.toNat r.claimFill)
                 eff := Spec.write s.who.y d (BitVec.ofNat 64 (r.slot r.tail)) }) s

/-- RPUT (R104). The slots that RPUTs in flight will fill are spoken for, so that R101 holds. -/
def execRput (cm : Common) (rg : BitVec 4) (s : State) : Out :=
  issue { opc := 0x49, cm := cm, wf := (Instr.rput cm rg).wellFormed, writes := [ringLoc rg] }
    (fun s _ _ =>
      if s.me.ringBad rg.toNat || decide ((s.me.ring rg.toNat).nfill ≤ s.me.ringActs rg.toNat true) then .trap (Trap.plain .ringFault)
      else .ok { s := s, eff := [.ringPut rg.toNat] }) s

/-- RGET (R103): it receives what the slot's post hands over (07 R145). -/
def execRget (cm : Common) (d : Spec) (rg : BitVec 4) (s : State) : Out :=
  issue { opc := 0x4A, cm := cm, wf := (Instr.rget cm d rg).wellFormed, dst := some d, reads := [ringLoc rg],
          wait := ringWait s.me rg.toNat Ring.filled }
    (fun s _ _ =>
      let c := s.me
      let r := c.ring rg.toNat
      if c.ringBad rg.toNat then .trap (Trap.plain .ringFault)
      else
        let s := s.setMe (c.setRing rg.toNat r.claimCons)
        .ok { s := s.setSq (s.sq.receive (r.posted.headD ⟨0, []⟩))
              eff := Spec.write s.who.y d (BitVec.ofNat 64 (r.slot r.nextCons)) }) s

/-- RREL (R104). The slots that RRELs in flight will release are spoken for. -/
def execRrel (cm : Common) (rg : BitVec 4) (s : State) : Out :=
  issue { opc := 0x4B, cm := cm, wf := (Instr.rrel cm rg).wellFormed, writes := [ringLoc rg] }
    (fun s _ _ =>
      if s.me.ringBad rg.toNat || decide ((s.me.ring rg.toNat).ncons ≤ s.me.ringActs rg.toNat false) then .trap (Trap.plain .ringFault)
      else .ok { s := s, eff := [.ringRel rg.toNat] }) s

/-- The word of Table 5.6. -/
def rstatWord (r : Ring) : Word :=
  if !r.valid then 0 else
  BitVec.ofNat 64 (r.head + r.tail * 2 ^ 8 + r.nfill * 2 ^ 16 + r.filled * 2 ^ 24 + r.ncons * 2 ^ 32 +
    r.free * 2 ^ 40 + r.count * 2 ^ 48 + 2 ^ 63)

/-- RSTAT (R105). -/
def execRstat (cm : Common) (d : Spec) (rg : BitVec 4) (s : State) : Out :=
  issue { opc := 0x4C, cm := cm, wf := (Instr.rstat cm d rg).wellFormed, dst := some d, reads := [ringLoc rg] }
    (fun s _ _ =>
      if s.me.ringsN ≤ rg.toNat then .trap (Trap.plain .ringFault)
      else .ok { s := s, eff := Spec.write s.who.y d (rstatWord (s.me.ring rg.toNat)) }) s

/-! ### The watchdog (R111) -/

/-- WDOG: it reads the wait of the instruction before it and sets the limit of the next. -/
def execWdog (cm : Common) (d : Spec) (n : BitVec 24) (s : State) : Out :=
  issue { opc := 0x4D, cm := cm, wf := (Instr.wdog cm d n).wellFormed, dst := some d }
    (fun s _ _ =>
      let q := s.sq
      .ok { s := s.setSq { q with oneShot := if n = 0 then none else some (n.toNat * 1024) }
            eff := Spec.write s.who.y d (BitVec.ofNat 64 q.lastWait) }) s

end Sys2Proof.Machine
end

