-- ==== Sys2Proof/Machine/Streams.lean ====
section
/-! DEFINITION. Writes for a guest, and stream contexts (22 R429, R430). -/
namespace Sys2Proof.Machine

/-! ### Writing for a guest -/

/-- Bytes split at multiples of a size: an address and the bytes up to the next multiple. -/
def pieces (n a : Nat) (bs : List Byte) : List (Nat × List Byte) :=
  let first := n - a % n
  ((a, bs.take first) ::
    ((List.range ((bs.length - first + n - 1) / n)).map fun i =>
      (a + first + n * i, (bs.drop (first + n * i)).take n))).filter fun e => !e.2.isEmpty

/-- What writing a guest's memory comes to: the program time after it, and whether some piece faulted. -/
inductive GuestWrite where
  | ok (s : State) (pts : Nat) (bad : Bool)
  | wait
  | gone

/-- One write of T at a physical address of a partition, within a line. -/
def State.writeT (s : State) (part pts pa : Nat) (bs : List Byte) : State × Nat :=
  let (d, t) := (s.home part pa).write pts pa bs [] false
  (({ s with dram := d } : State).noteCounters, t)

/-- Pieces of lines written at virtual addresses of a guest, each as a write of T; a piece that faults, or that
reaches no device memory, is dropped, and one to a locked page waits (14 R369). -/
def State.writePieces (s : State) (guest pts : Nat) (bad : Bool) : List (Nat × List Byte) → GuestWrite
  | [] => .ok s pts bad
  | (va, bs) :: r =>
    match s.translate (bazaarWalker guest pts) va .write with
    | (_, _, .lazy _) => .wait
    | (s, t, .fault _) => s.writePieces guest t true r
    | (s, t, .ok pa kind) =>
      if kind ≠ 0 then s.writePieces guest t true r
      else if !fitted pa then .gone
      else if s.locked pa then .wait
      else
        let (s, t) := s.writeT (s.partOf guest) t pa bs
        s.writePieces guest t bad r

/-! ### Registers (Table 22.4) -/

namespace Stream

def enabled (x : Stream) : Bool := x.w0.getLsbD 0
def display (x : Stream) : Bool := x.w0.getLsbD 1
def port (x : Stream) : Nat := (x.w0.extractLsb' 2 5).toNat
def guest (x : Stream) : Nat := (x.w0.extractLsb' 9 8).toNat
def outQ (x : Stream) : Nat := (x.w0.extractLsb' 17 12).toNat
def inQ (x : Stream) : Nat := (x.w0.extractLsb' 29 12).toNat
def period (x : Stream) : Nat := (x.w1.extractLsb' 0 32).toNat
def deadline (x : Stream) : Nat := (x.w1.extractLsb' 32 32).toNat
def base (x : Stream) : Nat := (x.w2.extractLsb' 0 57).toNat
def size (x : Stream) : Nat := (x.w3.extractLsb' 0 32).toNat
def count (x : Stream) : Nat := (x.w3.extractLsb' 32 6).toNat

/-- The slot of a frame. -/
def slotOf (x : Stream) (f : Nat) : Nat := x.base + f % max 1 x.count * x.size

/-- A deadline missed; the count saturates. -/
def miss (x : Stream) : Stream := { x with misses := min (x.misses + 1) (2 ^ 32 - 1) }

/-- A period of the stream is over at a time. -/
def periodOver (x : Stream) (time : Nat) : Bool := x.period != 0 && decide (x.start + x.period ≤ time)

/-- A frame ended. -/
def ended (x : Stream) : Stream := { x with frames := (x.frames + 1) % 2 ^ 32 }

end Stream

/-- The period of a stream has had its event. DEDUCED, unsafe: log 74. -/
def State.served (s : State) (n : Nat) : Bool := s.ticks.get 0 (64 + n) == (s.stream n).start + 1

/-- The event of a stream's period has taken place. -/
def State.serve (s : State) (n : Nat) : State := { s with ticks := s.ticks.put 0 (64 + n) ((s.stream n).start + 1) }

/-- A queue that a stream of a guest may use. -/
def State.feedFor (s : State) (q g : Nat) : Bool := (s.queue q).enable && (s.queue q).kind == 0 && (s.queue q).owner == g

/-- The record of a stream has nowhere to go yet. -/
def State.streamWaits (s : State) (n : Nat) : Bool :=
  let x := s.stream n
  s.feedFor x.outQ x.guest && !(s.queue x.outQ).room 1

/-- A record of kind 2 on a stream's out_q (R430); none where the queue is not a feed queue of its guest.
DEDUCED, unsafe: log 74. -/
def State.frameRecord (s : State) (n frame buf status : Nat) (k : Carry) : State :=
  let x := s.stream n
  let body := leBytes 8 0 ++ leBytes 8 frame ++ leBytes 8 buf ++ leBytes 8 s.time ++ leBytes 1 status ++ leBytes 23 0
  if s.feedFor x.outQ x.guest then (s.appendFeed x.outQ 2 0 n body k).1 else s

/-- A stream of a kind that runs. -/
def State.streaming (s : State) (n : Nat) (display : Bool) : Bool :=
  let x := s.stream n
  decide (n < 96) && x.enabled && x.display == display && s.powered

/-! ### Cameras (R430) -/

/-- CAMERA_FRAME: a frame's bytes are written to its slot and its record is appended. One frame of a period is
taken, before the period's end. -/
def execCameraFrame (stream : Nat) (bytes : List Byte) (s : State) : Out :=
  let x := s.stream stream
  if !s.streaming stream false || s.served stream || x.periodOver s.time || s.streamWaits stream then .next s else
  let at_ := x.slotOf x.frames
  match s.stirred.writePieces x.guest 0 false (pieces 128 at_ (bytes.take x.size)) with
  | .wait => .next s
  | .gone => .fault .noDeviceMemory
  | .ok s pts _ =>
    let late := decide (x.start + x.deadline < s.time)
    let s := s.frameRecord stream x.frames at_ (bitNum late) ⟨pts, []⟩
    let s := s.serve stream
    .next (s.setStream stream (if late then x.ended.miss else x.ended))

/-- CAMERA_PERIOD_END: the next period starts; one without a frame gets its record of status 2. -/
def execCameraPeriodEnd (stream : Nat) (s : State) : Out :=
  let x := s.stream stream
  if !s.streaming stream false || !x.periodOver s.time then .next s
  else if s.served stream then .next (s.stirred.setStream stream { x with start := x.start + x.period })
  else if s.streamWaits stream then .next s
  else
    let s := s.stirred.frameRecord stream x.frames (x.slotOf x.frames) 2 ⟨0, []⟩
    .next (s.setStream stream { x.miss with start := x.start + x.period })

/-! ### Displays (R430) -/

/-- The start that a display's next event serves: its present period's, once, then the next one's. -/
def State.displayStart (s : State) (n : Nat) : Option Nat :=
  let x := s.stream n
  if !s.served n then some x.start
  else if x.periodOver s.time then some (x.start + x.period)
  else none

/-- DISPLAY_PERIOD_START: the pipe pops every posted frame, scans the newest, and names the buffer that it has
released, a free value where it has released none. -/
def execDisplayPeriodStart (stream : Nat) (s : State) : Out :=
  let x := s.stream stream
  match s.displayStart stream with
  | none => .next s
  | some start =>
    if !s.streaming stream true || s.streamWaits stream then .next s else
    let s := s.stirred
    let q := s.queue x.inQ
    let recs := if s.feedFor x.inQ x.guest then q.recs else []
    let s := if recs.isEmpty then s else s.setQueue x.inQ { q with recs := [] }
    let none_ := (Config.freeWord s.free).toNat
    let x := { x with start := start }
    match recs.getLast? with
    | some r =>
      let buf := BitVec.ofNat 64 (recField r.bytes 16 8)
      let out := match x.last with | some b => b.toNat | none => none_
      let s := (s.fresh.frameRecord stream x.frames out 0 r.carry).setStream stream { x.ended with last := some buf }
      .next (s.serve stream)
    | none =>
      let s := (s.fresh.frameRecord stream x.frames none_ 3 ⟨0, []⟩).setStream stream x.ended.miss
      .next (s.serve stream)

end Sys2Proof.Machine
end

