-- ==== Sys2Proof/Machine/Daybreak.lean ====
section
/-! DEFINITION. Daybreak: key-on boot (23 R433 to R435), lazy pages (R438 to R440), and the removal of supply (13
R338). -/
namespace Sys2Proof.Machine

/-! ### Digests -/

/-- The 64 bytes of a digest. -/
def digestBytes (d : BitVec 512) : List Byte := leBytes 64 d.toNat

/-- A digest in memory. -/
def Memory.digest (m : Memory) (a : Nat) : BitVec 512 := BitVec.ofNat 512 (m.num a 64)

/-- MEASn extended with a digest. -/
def Trust.extend (t : Trust) (n : Nat) (d : BitVec 512) : Trust :=
  { t with meas := t.meas.put 0 n (Config.sha512 (digestBytes (t.meas.get 0 n) ++ digestBytes d)) }

/-! ### The manifest (Table 23.1) -/

/-- An image entry. -/
structure Entry23 where
  kind : Nat
  target : Nat
  meas : Nat
  off : Nat
  length : Nat
  load : Nat
  digest : BitVec 512

/-- Entry `e` of the manifest at a flash offset. -/
def entryAt (f : Memory) (base e : Nat) : Entry23 :=
  let a := base + 2048 + 128 * e
  ⟨f.num a 1, f.num (a + 1) 1, f.num (a + 2) 1, f.num (a + 8) 4, f.num (a + 12) 4, f.num (a + 16) 8, f.digest (a + 64)⟩

/-- The entries of a manifest. -/
def entriesAt (f : Memory) (base : Nat) : List Entry23 := (List.range (f.num (base + 6) 2)).map (entryAt f base)

/-- The signed length. -/
def bodyLen (f : Memory) (base : Nat) : Nat := f.num (base + 16) 4

/-- The public keys that a manifest embeds. -/
def edKeyAt (f : Memory) (base : Nat) : List Byte := f.read (base + 24) 32
def mldsaKeyAt (f : Memory) (base : Nat) : List Byte := f.read (base + 56) 1952

/-- Both signatures of a body of some length at an offset verify, under the keys of the manifest at `base`. -/
def signedBy (f : Memory) (base : Nat) (body ed mldsa : List Byte) : Bool :=
  Config.edVerify (edKeyAt f base) ed body && Config.mldsaVerify (mldsaKeyAt f base) mldsa body

/-! ### The policy section (Table 23.1a, R435) -/

/-- Record `r` of the policy section at a flash offset. -/
def policyAt (f : Memory) (at_ r : Nat) : Policy :=
  let a := at_ + 8 + 32 * r
  ⟨f.num a 1, f.num (a + 1) 1 % 8, f.num (a + 1) 1 / 16 % 8, f.num (a + 8) 8, f.num (a + 16) 8⟩

/-- The records of a policy section. -/
def policiesAt (f : Memory) (at_ : Nat) : List Policy := (List.range (f.num (at_ + 6) 2)).map (policyAt f at_)

/-- Bytes of device memory fitted on this part, or on its peer. -/
def memorySize (big : Bool) : Nat := if big then 2 ^ 37 else 2 ^ 36

/-- A range of 2 MiB units within some bytes of memory. -/
def rangeOk (r : Policy) (limit : Nat) : Bool :=
  r.base % 2 ^ 21 == 0 && r.size != 0 && r.size % 2 ^ 21 == 0 && decide (r.base + r.size ≤ limit)

/-- The rules for one record. -/
def recordOk (f : Memory) (at_ n : Nat) : Bool :=
  let a := at_ + 8 + 32 * n
  let r := policyAt f at_ n
  f.num (a + 1) 7 / 2 ^ 3 % 2 == 0 && f.num (a + 1) 7 / 2 ^ 7 == 0 && f.num (a + 24) 8 == 0 &&
    match r.type with
    | 0 => r.dest == 0 && rangeOk r (memorySize Config.fitted128)
    | 1 => r.part == 0 && r.dest == 0 && rangeOk r (memorySize Config.fitted128)
    | 2 => r.dest == 0 && rangeOk r (memorySize Config.peerFitted128)
    | 3 => r.base == 0 && decide (r.size < 2 ^ 16)
    | _ => false

/-- Partition ranges of different partitions do not overlap. -/
def disjoint (l : List Policy) : Bool :=
  let ps := l.filter (·.type == 0)
  ps.all fun a => ps.all fun b => a.part == b.part || decide (a.base + a.size ≤ b.base) || decide (b.base + b.size ≤ a.base)

/-- The policy section keeps the rules of R435. -/
def policyOk (f : Memory) (base : Nat) : Bool :=
  let off := f.num (base + 20) 4
  let at_ := base + off
  let n := f.num (at_ + 6) 2
  off % 8 == 0 && decide (off + 8 + 32 * n ≤ bodyLen f base) && f.num at_ 4 == 0x504C4359 && f.num (at_ + 4) 2 == 1 &&
    decide (n ≤ 256) && ((List.range n).all fun r => recordOk f at_ r) && disjoint (policiesAt f at_)

/-- The image entries keep the rules of R435. DEDUCED, unsafe: log 71. -/
def entriesOk (l : List Entry23) : Bool :=
  (l.filter (·.kind == 1)).length == 1 &&
    (List.range 4).all fun c => decide ((l.filter fun e => e.kind == 0 && e.target == c).length ≤ 1)

/-- Step 2 of R433: the manifest at a flash offset is accepted. DEDUCED, unsafe: log 71. A field that the
tables reserve, and a kind of 5 or above, may hold anything: DESIGN CHOICE, unsafe: log 107. -/
def Trust.accepts (t : Trust) (base : Nat) : Bool :=
  let f := t.flash
  let n := bodyLen f base
  f.num base 4 == 0x51564D46 && f.num (base + 4) 2 == 1 && decide (1 ≤ f.num (base + 6) 2 ∧ f.num (base + 6) 2 ≤ 64) &&
    n % 8 == 0 && Config.sha512 (edKeyAt f base) == Config.edFuse && Config.sha512 (mldsaKeyAt f base) == Config.mldsaFuse &&
    signedBy f base (f.read base n) (f.read (base + n) 64) (f.read (base + n + 64) 3309) &&
    decide (t.floor ≤ f.num (base + 8) 4) && policyOk f base && entriesOk (entriesAt f base)

/-! ### Key-on boot (R433) -/

/-- An image in flash. -/
def Entry23.image (e : Entry23) (f : Memory) : List Byte := f.read e.off e.length

/-- Step 3: entries are compared and measured in ascending order, up to the first eager one that fails. A lazy entry
is measured by its root. -/
def Trust.measure (t : Trust) : Nat → List Entry23 → Trust × Option Nat
  | _, [] => (t, none)
  | n, e :: r =>
    let note (t : Trust) : Trust := if 2 ≤ e.meas ∧ e.meas ≤ 13 then t.extend e.meas e.digest else t
    if e.kind ≠ 4 ∧ Config.sha512 (e.image t.flash) ≠ e.digest then (t, some n)
    else (note t).measure (n + 1) r

/-- The partition whose locked ranges hold a physical address; 8, which is none, where there is none. -/
def State.partOfPa (s : State) (pa : Nat) : Nat :=
  match s.ranges.find? fun r => decide (r.2.1 ≤ pa) && decide (pa < r.2.1 + r.2.2) with
  | some r => r.1
  | none => 8

/-- Bytes written to device memory of a partition from an address, line by line, each a write of T. -/
def State.writeLines (s : State) (part pts : Nat) (l : List (Nat × List Byte)) : State × Nat :=
  l.foldl (fun a e => a.1.writeT part a.2 e.1 e.2) (s, pts)

/-- The base of an eager kernel image names fitted memory (01 R15). -/
def Entry23.fits (e : Entry23) : Bool := e.kind != 3 || (fitted e.load && fitted (e.load + (e.length - 1)))

/-- Step 5: an image is loaded: Vesper's and the scheduler cores' at address 0, an eager kernel image at its base.
DESIGN CHOICE, unsafe: log 95. -/
def State.loadImage (s : State) (e : Entry23) : State :=
  let bs := e.image s.trust.flash
  match e.kind with
  | 0 =>
    let c := { FwCore.empty with sram := (s.fwCore e.target).sram.write 0 bs, released := true }
    if e.target < 4 then s.setFw e.target c else s
  | 1 =>
    let c := { FwCore.empty with sram := s.vesper.core.sram.write 0 bs, released := true }
    { s with vesper := { s.vesper with core := c, ready := true } }
  | 3 => (s.writeLines (s.partOfPa e.load) 0 (pieces 128 e.load bs)).1
  | _ => s

/-- What the partitions own once the part has booted, which the spec does not give. -/
def State.dealOut (s : State) : State :=
  let owned (n : Nat) (f : Nat → Nat) (p : Nat) : Nat := (List.range n).foldl (fun a k => if f k = p then a + 2 ^ k else a) 0
  (List.range 8).foldl (fun s p => s.setPart p { s.part p with
    pairs := BitVec.ofNat 32 (owned 32 Config.pairOwner p)
    chans := BitVec.ofNat 16 (owned 16 Config.channelOwner p)
    slices := BitVec.ofNat 32 (owned 32 Config.sliceOwner p) }) s

/-- Steps 4 to 6, for an accepted manifest whose eager entries have passed. DESIGN CHOICE, unsafe: log 95. -/
def State.release (s : State) (base : Nat) : State :=
  let f := s.trust.flash
  let ps := policiesAt f (base + f.num (base + 20) 4)
  let sec := f.num (base + 8) 4
  let t := { s.trust with
    booted := true, manifest := some base, policy := ps
    floor := if f.num (base + 12) 4 % 2 = 1 then max s.trust.floor sec else s.trust.floor }
  let locked : List (Nat × Nat × Nat) := (ps.filter (·.type == 0)).map fun (r : Policy) => (r.part, r.base, r.size)
  let s := { s with trust := t, ranges := locked }
  (entriesAt f base).foldl (fun s e => s.loadImage e) s.dealOut

/-- KEY_ON_BOOT (R433). A failure leaves every scheduler core in reset, and names the copy (0 A, 1 B) and the entry (64
where no copy was accepted). -/
def execKeyOnBoot (s : State) : Out :=
  if s.trust.booted || s.trust.failed.isSome then .next s else
  let t := { s.trust with meas := [], keys := true, debug := 0, unlocked := 0 }
  let t := t.extend 0 Config.romDigest
  let s := { s with power := { s.power with state := .active } }
  match [0, 0x01000000].find? t.accepts with
  | none => .next { s with trust := { t with failed := some (1, 64) } }
  | some base =>
    let t := t.extend 1 (Config.sha512 (t.flash.read base (bodyLen t.flash base)))
    match t.measure 0 (entriesAt t.flash base) with
    | (t, some e) => .next { s with trust := { t with failed := some (bitNum (base != 0), e) } }
    | (t, none) =>
      if (entriesAt t.flash base).all Entry23.fits then .next (({ s with trust := t } : State).release base)
      else .fault .noDeviceMemory

/-- SUPPLY_REMOVAL: the part is in OFF; flash and fuses stay (13 R338), and what belongs to the host and the peer. -/
def execSupplyRemoval (s : State) : Out :=
  .next { State.reset with
    moves := s.moves, free := s.free, host := s.host, peer := s.peer, irqs := s.irqs
    power := { State.reset.power with state := .off }
    trust := { State.reset.trust with flash := s.trust.flash, floor := s.trust.floor } }

/-! ### Lazy pages (R438 to R440) -/

/-- Pages of a lazy image. -/
def Entry23.pages (e : Entry23) : Nat := (e.length + 4095) / 4096

/-- The least height of a tree over some pages; 32^13 exceeds every length. -/
def treeHeight (p : Nat) : Nat := ((List.range 13).find? fun h => decide (p ≤ 32 ^ h)).getD 13

/-- The digests of the children of a node, as the flash holds them; one beyond the image is 64 zero bytes. -/
def Entry23.children (e : Entry23) (f : Memory) (height group : Nat) : List (BitVec 512) :=
  let count := (e.pages + 32 ^ height - 1) / 32 ^ height
  (List.range 32).map fun i =>
    let k := group * 32 + i
    if count ≤ k then 0 else f.digest (Config.nodeOffset e.off e.length height k)

/-- The path of a digest at a height up to the root. -/
def Entry23.path (e : Entry23) (f : Memory) (d : BitVec 512) (idx height : Nat) : Nat → Bool
  | 0 => d == e.digest
  | n + 1 =>
    let cs := e.children f height (idx / 32)
    cs.getD (idx % 32) 0 == d && e.path f (Config.sha512 (cs.flatMap digestBytes)) (idx / 32) (height + 1) n

/-- The bytes of a page of a lazy image, and their check. -/
def Entry23.page (e : Entry23) (f : Memory) (i : Nat) : List Byte := f.read (e.off + 4096 * i) 4096
def Entry23.pageOk (e : Entry23) (f : Memory) (i : Nat) : Bool :=
  e.path f (Config.sha512 (e.page f i)) i 0 (treeHeight e.pages)

/-- The kind 4 entry whose load range holds an address, with its index. -/
def Trust.lazyEntry (t : Trust) (pa : Nat) : Option (Nat × Entry23) :=
  match t.manifest with
  | none => none
  | some base => ((entriesAt t.flash base).zipIdx.find? fun e =>
      e.1.kind == 4 && decide (e.1.load ≤ pa) && decide (pa < e.1.load + 4096 * e.1.pages)).map fun e => (e.2, e.1)

/-- The physical address and word of a stage-2 leaf of level 0, from level `n - 1` down. -/
def leafOf (m : Memory) (ia : Nat) : Nat → Nat → Option (Nat × Word)
  | 0, _ => none
  | n + 1, table =>
    let a := table + ia / 2 ^ (12 + 9 * n) % 512 * 8
    let e := BitVec.ofNat 64 (m.num a 8)
    if (entryFault true n 3 e).isSome then none
    else if e.getLsbD 1 then (if n = 0 then some (a, e) else none)
    else leafOf m ia n (entryAddr e)

/-- The leaves that one load serves: one, or the 16 of a 64 KiB mapping. DEDUCED, unsafe: log 70. -/
def lazyLeaves (m : Memory) (a : Nat) (e : Word) : List (Nat × Word) :=
  if e.getLsbD 6 then (List.range 16).map fun i =>
    (a / 128 * 128 + 8 * i, BitVec.ofNat 64 (m.num (a / 128 * 128 + 8 * i) 8)) else [(a, e)]

/-- A page's lines, where its check passes; else the entry and page that failed. -/
def Trust.pageLines (t : Trust) (e : Word) : (List (Nat × List Byte)) ⊕ (Nat × Nat) :=
  let pa := entryAddr e
  match t.lazyEntry pa with
  | none => .inr (64, pa / 4096)
  | some (n, x) =>
    let i := (pa - x.load) / 4096
    if x.pageOk t.flash i then .inl (pieces 128 pa (x.page t.flash i)) else .inr (n, i)

/-- The lines of several pages, or the first failure. -/
def Trust.allLines (t : Trust) : List Word → (List (Nat × List Byte)) ⊕ (Nat × Nat)
  | [] => .inl []
  | e :: r =>
    match t.pageLines e, t.allLines r with
    | .inl a, .inl b => .inl (a ++ b)
    | .inr x, _ => .inr x
    | .inl _, .inr x => .inr x

/-- LAZY_PAGE_LOAD (R439): the pages of a lazy leaf are checked, written, and then mapped, in that order in T. A failed
check is recorded, and its pages are never mapped (14 R370). DEDUCED, unsafe: log 70. -/
def execLazyPageLoad (guest ia : Nat) (s : State) : Out :=
  let r := (s.guest guest).s2
  if !r.getLsbD 0 || s.resets.contains guest || !s.powered || s.xlat.lazyBad.contains (guest, ia / 4096) then .next s
  else match leafOf s.dram.bytes (ia % 2 ^ 48) 4 (entryAddr r) with
    | none => .next s
    | some (a, e) =>
      if !e.getLsbD 7 then .next s else
      let ls := lazyLeaves s.dram.bytes a e
      match s.trust.allLines (ls.map (·.2)) with
      | .inl lines =>
        if lines.any fun l => !fitted l.1 then .fault .noDeviceMemory else
        let (s, t) := s.writeLines (s.partOf guest) 0 lines
        let clear (l : Nat × Word) : Nat × List Byte := (l.1, leBytes 8 (l.2 &&& ~~~0x80#64).toNat)
        .next (s.writeLines (s.partOf guest) t (ls.map clear)).1
      | .inr (n, p) =>
        let first := ia / 4096 - (if e.getLsbD 6 then ia / 4096 % 16 else 0)
        let bad := (List.range ls.length).map fun i => (guest, first + i)
        .next { s with
          xlat := { s.xlat with lazyBad := bad ++ s.xlat.lazyBad }
          trust := s.trust.extend 14 (Config.failDigest n p) }

end Sys2Proof.Machine
end

