-- ==== Sys2Proof/Machine/Elementary.lean ====
section
/-! DEFINITION. The transcendental functions of 10 R242 on exact magnitudes. An irrational result is
given by digits truncated far below any rounding boundary, with a sticky unit below them. -/
namespace Sys2Proof.Machine

/-- The place of the top bit of a magnitude. -/
def topExp (m : Nat) (e : Int) : Int := e + (bitLen m : Int) - 1

/-- A value just below or just above `2 ^ k`, nearer than any rounding boundary. -/
def nearPow (k : Int) (above : Bool) : Nat × Int := sticky (if above then 2 ^ 64 else 2 ^ 64 - 1) (k - 64) true

/-- 1/x. -/
def recipOf (m : Nat) (e : Int) : Nat × Int :=
  let k := bitLen m + 64
  sticky (2 ^ k / m) (-e - k) (2 ^ k % m != 0)

/-- A magnitude with an even exponent. -/
def evenExp (m : Nat) (e : Int) : Nat × Int := if e % 2 = 0 then (m, e) else (2 * m, e - 1)

/-- √x. -/
def sqrtOf (m : Nat) (e : Int) : Nat × Int :=
  let (m, e) := evenExp m e
  let v := m * 2 ^ 128
  let q := isqrt (bitLen v / 2 + 1) v
  sticky q (e / 2 - 64) (q * q != v)

/-- 1/√x. -/
def rsqrtOf (m : Nat) (e : Int) : Nat × Int :=
  let (m, e) := evenExp m e
  let k := bitLen m + 64
  let q := isqrt (k + 1) (2 ^ (2 * k) / m)
  sticky q (-(e / 2) - k) (q * q * m != 2 ^ (2 * k))

/-- Fraction digits of the fixed-point numbers below. -/
def fixBits : Nat := 160

/-- ln 2, truncated. -/
def ln2Fix : Nat := 1013035739299659071135698605846798551586536899366

/-- log2 e, truncated. -/
def log2eFix : Nat := 2108501164428393954197770173035669514763056903505

/-- The terms `z ^ k / k!` from `term` on. -/
def expSeries (z : Nat) : Nat → Nat → Nat → Nat
  | 0, _, _ => 0
  | n + 1, k, term => term + expSeries z n (k + 1) (term * z / 2 ^ fixBits / (k + 1))

/-- 2 ^ y of a fixed-point y, as a fixed-point number. -/
def pow2Fix (y : Nat) : Nat :=
  let f := y % 2 ^ fixBits
  expSeries (f * ln2Fix / 2 ^ fixBits) 48 0 (2 ^ fixBits) * 2 ^ (y / 2 ^ fixBits)

/-- A magnitude as a fixed-point number. -/
def toFix (m : Nat) (e : Int) : Nat :=
  if 0 ≤ e + fixBits then m * 2 ^ (e + fixBits).toNat else m / 2 ^ (-(e + fixBits)).toNat

/-- 2 ^ x. -/
def exp2Of (neg : Bool) (m : Nat) (e : Int) : Nat × Int :=
  if 12 ≤ topExp m e then (if neg then sticky 1 (-5000) true else (1, 5000))
  else if topExp m e < -66 then nearPow 0 (!neg)
  else
    let x : Int := if neg then -(toFix m e : Int) else toFix m e
    let i := x / 2 ^ fixBits
    let f := (x % 2 ^ fixBits).toNat
    if f = 0 then (1, i) else sticky (pow2Fix f) (i - fixBits) true

/-- Bits of log2 of a mantissa in [1, 2), with 320 fraction bits, by repeated squaring. -/
def log2Bits : Nat → Nat → Nat → Nat
  | 0, _, acc => acc
  | n + 1, x, acc =>
    let y := x * x / 2 ^ 320
    if 2 ^ 321 ≤ y then log2Bits n (y / 2) (2 * acc + 1) else log2Bits n y (2 * acc)

/-- log2 x: sign and magnitude. -/
def log2Of (m : Nat) (e : Int) : Bool × Nat × Int :=
  let k := topExp m e
  if m = 2 ^ (bitLen m - 1) then (decide (k < 0), k.natAbs, 0)
  else
    let f := log2Bits 128 (m * 2 ^ (321 - bitLen m)) 0
    if 0 ≤ k then
      let (a, b) := sticky (k.toNat * 2 ^ 128 + f) (-128) true
      (false, a, b)
    else
      let (a, b) := sticky (k.natAbs * 2 ^ 128 - f - 1) (-128) true
      (true, a, b)

/-- e ^ x of a magnitude, as a fixed-point number. -/
def expFix (m : Nat) (e : Int) : Nat := pow2Fix (toFix m e * log2eFix / 2 ^ fixBits)

/-- tanh of a magnitude that is not zero. -/
def tanhOf (m : Nat) (e : Int) : Nat × Int :=
  if topExp m e < -14 then sticky (m * 2 ^ 64 - 1) (e - 64) true
  else if 4 ≤ topExp m e then nearPow 0 false
  else
    let x := expFix m (e + 1)
    sticky ((x - 2 ^ fixBits) * 2 ^ 128 / (x + 2 ^ fixBits)) (-128) true

/-- 1 / (1 + e^-x) for an x that is not zero. -/
def sigmOf (neg : Bool) (m : Nat) (e : Int) : Nat × Int :=
  if topExp m e < -40 then nearPow (-1) (!neg)
  else if neg then
    if 7 ≤ topExp m e then sticky 1 (-5000) true
    else sticky (2 ^ (fixBits + 320) / (expFix m e + 2 ^ fixBits)) (-320) true
  else if 6 ≤ topExp m e then nearPow 0 false
  else
    let x := expFix m e
    sticky (x * 2 ^ 128 / (x + 2 ^ fixBits)) (-128) true

/-- The functions of Table 10.4. -/
inductive Elementary where
  | rcp | rsq | sqrt | exp2 | log2 | tanh | sigm
  deriving DecidableEq, Repr, Inhabited

/-- What a value gives (Table 10.4), and whether dz or nv is set. DEDUCED, unsafe: log 14. -/
def Elementary.eval (fn : Elementary) (v : FV) : FV × FFlags :=
  let mk (n : Bool) (r : Nat × Int) : FV × FFlags := (.fin n r.1 r.2, {})
  let bad : FV × FFlags := (.nan false, { nv := true })
  match v with
  | .nan sig => (.nan false, { nv := sig })
  | .inf n =>
    match fn with
    | .rcp => (.fin n 0 0, {})
    | .rsq => if n then bad else (.fin false 0 0, {})
    | .sqrt | .log2 => if n then bad else (.inf false, {})
    | .exp2 => if n then (.fin false 0 0, {}) else (.inf false, {})
    | .tanh => (.fin n 1 0, {})
    | .sigm => if n then (.fin false 0 0, {}) else (.fin false 1 0, {})
  | .fin n m e =>
    if m = 0 then
      match fn with
      | .rcp | .rsq => (.inf n, { dz := true })
      | .sqrt | .tanh => (.fin n 0 0, {})
      | .exp2 => (.fin false 1 0, {})
      | .log2 => (.inf true, { dz := true })
      | .sigm => (.fin false 1 (-1), {})
    else
      match fn with
      | .rcp => mk n (recipOf m e)
      | .rsq => if n then bad else mk false (rsqrtOf m e)
      | .sqrt => if n then bad else mk false (sqrtOf m e)
      | .exp2 => mk false (exp2Of n m e)
      | .log2 => if n then bad else
          let r := log2Of m e
          mk r.1 r.2
      | .tanh => mk n (tanhOf m e)
      | .sigm => mk false (sigmOf n m e)

/-- A function of a code (R242): rounded once. DEDUCED, unsafe: log 14. -/
def Elementary.code (fn : Elementary) (f : Fmt) (rm : Nat) (fz : Bool) (c : Nat) : Nat × FFlags :=
  let (v, fl) := fn.eval (f.value fz c)
  let (r, fl') := f.pack rm false fz v
  (r, fl.or fl')

end Sys2Proof.Machine
end

