-- ==== Sys2Proof/Machine/Groups.lean ====
section
/-! DEFINITION. Sample groups (12 R307 to R316): FORK, the group instructions, the timeout and the completion
with its normalisation. -/
namespace Sys2Proof.Machine

/-! ### Descriptors -/

/-- Siblings of a descriptor: at most the 64 that it has room for, whatever a program wrote there (R307). -/
def Dram.groupK (d : Dram) (pa : Nat) : Nat := min 64 (d.bytes.num pa 1 % 128)

/-- A sibling that some operation has not resolved is pending. -/
def Dram.pending (d : Dram) (pa i : Nat) : Bool := d.sibling pa i % 4 == 0

/-- The bytes of the status with some bits set. -/
def Dram.withStatus (d : Dram) (pa mask : Nat) : Nat × List Byte := (2, leBytes 2 (d.bytes.num (pa + 2) 2 ||| mask))

/-- The LATE bit (Table 12.10). -/
def lateBit : Nat := 2 ^ 9

/-- One access of T by the home of a descriptor for the executing sequencer, with its release at sc2. -/
def State.groupAccess (s : State) (pa : Nat) (ws : List (Nat × List Byte)) : State :=
  let (s, t) := s.groupPut s.me.part s.sq.pts pa ws (s.sq.know.release (s.myScope 2))
  s.setSq { s.sq with pts := t }

/-- The checks of the group instructions (R309): the translation, then a descriptor of the guest that is open
or done, then the index, where there is one; `all` admits -1 (R310). DEDUCED, unsafe: log 48. -/
def groupReach (s : State) (load : Bool) (a : Word) (idx : Option Word) (all : Bool) (k : State → Nat → Result) :
    Result :=
  (s.reachXlat load (if load then .read else .write) a.toNat 1).run fun s pa kind =>
    let d := s.dram
    let outside := match idx with
      | none => false
      | some i => !(decide (0 ≤ i.toInt ∧ i.toInt < d.groupK pa) || (all && decide (i.toInt = -1)))
    if kind ≠ 0 ∨ a.toNat % 1024 ≠ 0 then .trap (Trap.plain .groupFault)
    else if d.badIn pa 1024 then .trap (Trap.plain .eccUncorr)
    else if !(d.groupBit pa 0 || d.groupBit pa 1) || d.bytes.num (pa + 32) 1 != s.me.guest || outside then
      .trap (Trap.plain .groupFault)
    else if !load && s.locked pa then .wait
    else k s pa

/-! ### FORK (R308) -/

/-- An FP32 code that is a NaN or infinite. -/
def fp32Special (v : Nat) : Bool := v / 2 ^ 23 % 256 == 255

/-- The fields of a fork block fail their checks (R308). -/
def forkBad (w gva : Nat) : Bool :=
  let eps := w / 2 ^ 32
  w % 128 == 0 || decide (64 < w % 128) || w / 2 ^ 7 % 2 != 0 || w / 2 ^ 10 % 2 ^ 22 != 0 ||
    (decide (2 ^ 31 ≤ eps) && eps != 2 ^ 31) || fp32Special eps || gva % 1024 != 0

/-- What contexts hold of siblings of a descriptor is gone. -/
def State.dropSiblings (s : State) (pa : Nat) : State :=
  let drop (c : Ctx) : Ctx :=
    { c with tasks := { c.tasks with siblings := c.tasks.siblings.filter fun h => h.1 != pa } }
  { s with
    ctxs := s.ctxs.mapAll Ctx.empty fun _ c => drop c
    saved := s.saved.map fun e => (e.1, { e.2 with img := drop e.2.img }) }

/-- The descriptor that FORK writes (Table 12.9): the fields of the block, status open, the guest, and zero
elsewhere; -0 as eps is written as +0. -/
def groupBytes (w timeout guest : Nat) : List Byte :=
  leBytes 8 (w % 2 ^ 32 + 2 ^ 16 + (if w / 2 ^ 32 = 2 ^ 31 then 0 else w / 2 ^ 32 * 2 ^ 32)) ++ leBytes 16 0 ++
    leBytes 8 timeout ++ leBytes 992 guest

/-- The k continuation records appended, in ascending order (R308). -/
def State.forkAppend (s : State) (q pa : Nat) (body : List Byte) (k : Carry) (n : Nat) : State :=
  (List.range n).foldl (fun s i => (s.appendFeed q 1 i s.me.guest body k (pa + 1)).1) s

/-- FORK (R308). -/
def execFork (cm : Common) (d : Spec) (f : BitVec 4) (a : Spec) (s : State) : Out :=
  issue { opc := 0xC7, cm := cm, wf := (Instr.fork cm d f a).wellFormed, srcs := [a], dst := some d }
    (fun s w _ =>
      match s.handleQueue f.toNat [0] with
      | none => .trap (Trap.plain .feedFault)
      | some q =>
        match s.readRecord (w.getD 0 0) 128 64 with
        | .error t => .trap t
        | .ok bs =>
          let v := recField bs 72 8
          let gva := recField bs 64 8
          if forkBad v gva then .trap (Trap.plain .groupFault)
          else (s.reachXlat false .write gva 1).run fun s pa kind =>
              if kind ≠ 0 ∨ s.dram.groupBit pa 0 = true then .trap (Trap.plain .groupFault)
              else if !(s.queue q).room (v % 128) then .waitOn roomWait
              else if s.locked pa then .wait
              else
                let first := (s.queue q).seq
                let clean : Dram := { s.dram with
                  rel := s.dram.rel.filter fun e => !(decide (pa ≤ e.1) && decide (e.1 < pa + 1024))
                  bad := s.dram.bad.filter fun e => !(decide (pa / 8 ≤ e.1) && decide (e.1 < pa / 8 + 128)) }
                let k := s.carry2
                let s := ({ s with dram := clean } : State).dropSiblings pa
                let (s, t) := s.groupPut s.me.part s.sq.pts pa [(0, groupBytes v (recField bs 80 4) s.me.guest)] []
                let s := { s with groups := s.groups.ins pa 0 }
                let s := s.setSq { s.sq with pts := t }
                .ok { s := (s.forkAppend q pa (leBytes 8 gva ++ (bs.drop 16).take 48) ⟨t, k.know⟩ (v % 128)).fresh
                      eff := Spec.write s.who.y d (BitVec.ofNat 64 first) }) s

/-! ### GARRIVE, GCANCEL, GWAIT, GSTAT (R309 to R312) -/

/-- GARRIVE (R309). -/
def execGarrive (cm : Common) (a idx rew : Spec) (s : State) : Out :=
  issue { opc := 0xC8, cm := cm, wf := (Instr.garrive cm a idx rew).wellFormed, srcs := [a, rew, idx] }
    (fun s w _ =>
      let ix := w.getD 2 0
      groupReach s false (w.getD 0 0) (some ix) false fun s pa =>
        let d := s.dram
        let i := ix.toNat
        let r := (w.getD 1 0).toNat % 2 ^ 32
        let ws : List (Nat × List Byte) :=
          if d.groupBit pa 1 || !d.pending pa i then [d.withStatus pa lateBit]
          else [(128 + 4 * i, leBytes 4 r), (640 + 4 * i, leBytes 4 (1 + if fp32Special r then 4 else 0)),
                (8, leBytes 8 (d.bytes.num (pa + 8) 8 ||| 2 ^ i))]
        .ok { s := s.groupAccess pa ws }) s

/-- The youngest record of a sibling's continuation taken out of its queue (R310). -/
def BQueue.dropFork (q : BQueue) (pa i : Nat) : BQueue :=
  if q.kind ≠ 0 then q else
  { q with recs := (q.recs.reverse.eraseP fun r =>
      decide (r.task = pa + 1) && recField r.bytes 0 1 == 1 && recField r.bytes 1 1 % 64 == i).reverse }

/-- Siblings of a descriptor that a cancel changes: pending or arrived (R310). -/
def Dram.cancellable (d : Dram) (pa : Nat) (l : List Nat) : List Nat := l.filter fun i => decide (d.sibling pa i % 4 ≤ 1)

/-- GCANCEL (R310). -/
def execGcancel (cm : Common) (a idx : Spec) (s : State) : Out :=
  issue { opc := 0xCA, cm := cm, wf := (Instr.gcancel cm a idx).wellFormed, srcs := [a, idx] }
    (fun s w _ =>
      let ix := w.getD 1 0
      groupReach s false (w.getD 0 0) (some ix) true fun s pa =>
        let d := s.dram
        let every := decide (ix.toInt = -1)
        let new := if d.groupBit pa 1 then [] else d.cancellable pa (if every then List.range (d.groupK pa) else [ix.toNat])
        let late := d.groupBit pa 1 || (!every && new.isEmpty)
        let ws := (if late then [d.withStatus pa lateBit] else []) ++
          new.map (fun i => (640 + 4 * i, leBytes 4 (2 + d.sibling pa i / 4 % 2 * 4))) ++
          [(16, leBytes 8 (new.foldl (fun m i => m ||| 2 ^ i) (d.bytes.num (pa + 16) 8)))]
        let s := s.groupAccess pa ws
        .ok { s := { s with queues := s.queues.mapAll BQueue.empty fun _ q => new.foldl (·.dropFork pa ·) q } }) s

/-- GWAIT (R311): its wait is neither a coupling wait nor a feed wait. -/
def execGwait (cm : Common) (d a idx : Spec) (s : State) : Out :=
  issue { opc := 0xC9, cm := cm, wf := (Instr.gwait cm d a idx).wellFormed, srcs := [a, idx], dst := some d }
    (fun s w _ =>
      let ix := w.getD 1 0
      groupReach s true (w.getD 0 0) (some ix) false fun s pa =>
        if !s.dram.groupBit pa 1 then .wait
        else
          let l := s.homeLoad (pa + 384 + 4 * ix.toNat) 4 false
          .ok { s := l.s.acquire (l.s.dram.relOf pa 8) (s.myScope 2)
                eff := Spec.write s.who.y d (BitVec.ofNat 64 l.v) }) s

/-- GSTAT (R312): a load at home. -/
def execGrpstat (cm : Common) (d a : Spec) (s : State) : Out :=
  issue { opc := 0xCB, cm := cm, wf := (Instr.grpstat cm d a).wellFormed, srcs := [a], dst := some d }
    (fun s w _ =>
      groupReach s true (w.getD 0 0) none false fun s pa =>
        let l := s.homeLoad pa 8 false
        .ok { s := l.s.acquire l.rel (s.myScope 2), eff := Spec.write s.who.y d (BitVec.ofNat 64 l.v) }) s

/-! ### Normalisation (R315) -/

/-- An FP64 result rounded to nearest even, as a value. -/
def rne64 (c : Nat × FFlags) : FV := Fmt.fp64.value false c.1

/-- RNE64(a + b). -/
def add64 (a b : FV) : FV := rne64 (Fmt.fp64.add 0 false a b)

/-- RNE64(a × b) of finite values. -/
def mul64 (a b : FV) : FV := rne64 (Fmt.fp64.pack 0 false false ((a.mul b).getD (.nan false)))

/-- RNE64(a / b) of finite values. -/
def div64 (a b : FV) : FV :=
  match a, b with
  | .fin n1 m1 e1, .fin n2 m2 e2 =>
    if m2 = 0 then .nan false
    else
      let k := bitLen m2 + 64
      let (m, e) := sticky (m1 * 2 ^ k / m2) (e1 - e2 - k) (m1 * 2 ^ k % m2 != 0)
      rne64 (Fmt.fp64.round 0 false false (n1 != n2) m e)
  | _, _ => .nan false

/-- RNE64(√a) of a value that is not negative. -/
def sqrt64 (a : FV) : FV :=
  match a with
  | .fin _ m e =>
    let (m, e) := sqrtOf m e
    rne64 (Fmt.fp64.round 0 false false false m e)
  | .inf n => .inf n
  | .nan s => .nan s

/-- The FP64 code of a value that is one. -/
def code64 (a : FV) : Nat := (Fmt.fp64.pack 0 false false a).1

/-- Mean and variance of some rewards (R315), with `div` the divisor of the variance. -/
def meanVar (r : List FV) (div : Nat) : FV × FV :=
  let s := r.foldl add64 (.fin false 0 0)
  let mean := div64 s (.fin false r.length 0)
  let v := r.foldl (fun v x => let t := add64 x mean.negate; add64 v (mul64 t t)) (.fin false 0 0)
  (mean, div64 v (.fin false div 0))

/-- The advantage of a reward, an FP32 code. -/
def advantage (r mean q : FV) : Nat := (Fmt.fp32.pack 0 false false (div64 (add64 r mean.negate) q)).1

/-- What the completion of a group writes: n, mean, variance, the advantages and the status bits (R314, R315,
Table 12.11). -/
structure GroupResult where
  n : Nat
  mean : Nat
  var : Nat
  adv : List Nat
  status : Nat

/-- The outcome of a group from its state words and rewards. -/
def groupResult (states rewards : List Nat) (sample : Bool) (eps : Nat) : GroupResult :=
  let k := states.length
  let st (i : Nat) : Nat := states.getD i 0
  let val (i : Nat) : FV := Fmt.fp32.value false (rewards.getD i 0)
  let u := (List.range k).filter fun i => st i % 8 == 1
  let n := u.length
  let bit (p : Nat → Bool) (b : Nat) : Nat := if (List.range k).any p then 2 ^ b else 0
  let status := bit (fun i => st i / 4 % 2 == 1) 5 + bit (fun i => st i % 4 == 3) 6 + bit (fun i => st i % 4 == 2) 7
  let rs := u.map val
  let equal := rs.all fun x => x.cmp (val (u.headD 0)) == 0
  let apply := decide (2 ≤ n) && !equal
  let (mean, var) := meanVar rs (if sample then n - 1 else n)
  let q := sqrt64 (add64 var (Fmt.fp32.value false eps))
  let adv (i : Nat) : Nat :=
    if n = 0 then 0x7FC00000
    else if st i % 4 = 3 then 0x7FC00001
    else if st i % 4 = 2 then 0x7FC00002
    else if st i % 8 = 5 then 0x7FC00003
    else if apply then advantage (val i) mean q else 0
  { n := n, mean := if apply then code64 mean else 0, var := if apply then code64 var else 0
    adv := (List.range k).map adv
    status := status + (if n = 0 then 4 else if n = 1 then 8 else if equal then 16 else 0) }

/-! ### Events (R313, R314) -/

/-- A write of the home to a descriptor. -/
def State.groupSet (s : State) (pa : Nat) (ws : List (Nat × List Byte)) : State :=
  (s.groupPut (s.partOf (s.dram.bytes.num (pa + 32) 1)) 0 pa ws []).1

/-- GROUP_TIMEOUT (R313); a locked page holds its writes (07 R153). -/
def execGroupTimeout (pa : Nat) (s : State) : Out :=
  let d := s.dram
  let limit := d.bytes.num (pa + 24) 4
  if (s.groups.find pa).isNone || !s.powered || s.locked pa || limit == 0 || decide (d.bytes.num (pa + 28) 4 < limit) then .next s
  else
    let out := (List.range (d.groupK pa)).filter (d.pending pa)
    .next (s.groupSet pa (out.map fun i => (640 + 4 * i, leBytes 4 3)))

/-- A group leaves the open ones: word 0 is written last, with `open` cleared, `done` and some bits set.
DEDUCED, unsafe: log 49. -/
def State.closeGroup (s : State) (pa : Nat) (ws : List (Nat × List Byte)) (bits : Nat) : State :=
  let v := s.dram.bytes.num (pa + 2) 2
  let s := s.groupSet pa (ws ++ [(2, leBytes 2 ((v - v % 2) ||| 2 ||| bits))])
  { s.dropSiblings pa with groups := s.groups.del pa }

/-- GROUP_COMPLETE (R314); a locked page holds its writes (07 R153). DEDUCED, unsafe: log 49. -/
def execGroupComplete (pa : Nat) (s : State) : Out :=
  let d := s.dram
  let k := d.groupK pa
  if (s.groups.find pa).isNone || !s.powered || s.locked pa || (List.range k).any (d.pending pa) then .next s
  else
    let r := groupResult ((List.range k).map (d.sibling pa)) ((List.range k).map fun i => d.bytes.num (pa + 128 + 4 * i) 4)
      (d.bytes.num pa 8 / 2 ^ 9 % 2 == 1) (d.bytes.num (pa + 4) 4)
    .next (s.closeGroup pa
      ([(384, (r.adv.map (leBytes 4)).flatten), (40, leBytes 8 r.n), (48, leBytes 8 r.mean), (56, leBytes 8 r.var)]) r.status)

/-- A guest reset completes an open group of the guest at once (R316), in both copies of a page that migrates. -/
def State.abortGroup (s : State) (pa : Nat) : State :=
  let ws := [(384, (List.replicate (s.dram.groupK pa) (leBytes 4 0x7FC00000)).flatten)]
  let s := s.closeGroup pa ws (2 ^ 8)
  match s.dram.locks.get none (pa / 2 ^ 12) with
  | some page => s.groupSet (page * 2 ^ 12 + pa % 2 ^ 12) (ws ++ [(2, s.dram.bytes.read (pa + 2) 2)])
  | none => s

end Sys2Proof.Machine
end

