-- ==== Sys2Proof/Machine/Resets.lean ====
section
/-! DEFINITION. Resetting a guest (15 R401, 21 R417 and R418, 22 R426). -/
namespace Sys2Proof.Machine

/-! ### What the steps do -/

/-- Step 1: the guest's rings stop, and the slots that hold them become unbound. -/
def State.stopRings (s : State) (g : Nat) : State :=
  let stop (r : KRing) : KRing :=
    { r with enable := false, pending := false, age := 0, gen := (r.gen + 1) % 2 ^ 12, bound := none }
  let s := (List.range 8).foldl (fun s n => s.setRing (8 * g + n) (stop (s.ring (8 * g + n)))) s
  let free (f : FwCore) : FwCore := { f with slots := f.slots.filter fun e => e.2.ring / 8 != g }
  { s with fws := s.fws.mapAll FwCore.empty fun _ f => free f }

/-- A launch at a reset of its guest: it is kept only for a record that another guest's queue takes (R418).
DEDUCED, unsafe: log 51. -/
def State.revokeLaunch (s : State) (l : Launch) : Option Launch :=
  let w7 := recField l.record 56 8
  let q := s.queue (w7 % 2 ^ 12)
  let l := if l.end_.isSome then l else { l.finish s.nextUid 3 0 with live := 0 }
  if w7 / 2 ^ 15 % 2 = 1 ∧ q.enable = true ∧ q.kind = 0 ∧ q.owner ≠ l.guest ∧ l.posted = false then some l else none

/-- Step 2: records, tasks and launches of the guest go, and its open groups complete. -/
def State.revoke (s : State) (g : Nat) : State :=
  let drop (q : BQueue) : BQueue := { q with recs := if q.owner = g then [] else q.recs.filter fun r => r.guest != g }
  let keep (e : Nat × Launch) : Option (Nat × Launch) :=
    if e.2.guest = g then (s.revokeLaunch e.2).map fun l => (e.1, l) else some e
  let s := { s with
    queues := s.queues.mapAll BQueue.empty fun _ q => drop q
    tasks := s.tasks.filter fun e => e.2.guest != g
    launches := s.launches.filterMap keep
    nextUid := s.nextUid + 1 }
  (s.groups.filter fun e => s.dram.bytes.num (e.1 + 32) 1 == g).foldl (fun s e => s.abortGroup e.1) s

/-- Step 3: the guest's contexts stop without images, saved ones go, and events that wait are discarded. -/
def State.stopContexts (s : State) (g : Nat) : State :=
  let s := s.ctxs.foldl (fun s e => if e.2.bound && e.2.guest == g then s.vacate (e.1 / 4) (e.1 % 4) else s) s
  let gone := (s.saved.filter fun e => e.2.img.guest == g).map (·.1)
  let mine (w : PWho) : Bool := match w with
    | .image u _ => gone.contains u
    | .saved u => gone.contains u
    | .ctx _ _ => false
  let hush (f : FwCore) : FwCore := { f with evWait := f.evWait.filter fun r => r.guest != g }
  { s with
    saved := s.saved.filter fun e => !gone.contains e.1
    power := { s.power with reqs := s.power.reqs.filter fun w => !mine w }
    fws := s.fws.mapAll FwCore.empty fun _ f => hush f }

/-- Step 4: reset_gen advances modulo 16. -/
def Guest.nextGen (g : Guest) : Guest :=
  let n := (g.w1.extractLsb' 56 4).toNat + 1
  { g with w1 := under (0xF#64 <<< 56) g.w1 (BitVec.ofNat 64 (n % 16 * 2 ^ 56)) }

/-- Step 5: the completion ring, the stage-2 root and the translations held go. -/
def State.tearDown (s : State) (g : Nat) : State :=
  let x := (s.guest g).nextGen
  ((s.setCq g default).setGuest g { x with s2 := 0 }).invalidate g 2 1 0

/-- The non-persistent device-memory pages that a stage-2 table names, from level `n - 1` down. -/
def pagesBelow (m : Memory) : Nat → Nat → List (Nat × Nat)
  | 0, _ => []
  | n + 1, table =>
    (List.range 512).flatMap fun i =>
      let e := BitVec.ofNat 64 (m.num (table + 8 * i) 8)
      if (entryFault true n 3 e).isSome then []
      else if e.getLsbD 1 then (if e.extractLsb' 8 2 = 0 ∧ e.getLsbD 10 = false then [(entryAddr e, pageSize n)] else [])
      else pagesBelow m n (entryAddr e)

/-- The guest's non-persistent pages, within its partition's ranges. -/
def State.guestPages (s : State) (g : Nat) : List (Nat × Nat) :=
  let r := (s.guest g).s2
  if r.getLsbD 0 then (pagesBelow s.dram.bytes 4 (entryAddr r)).filter fun p => s.inRanges g p.1 p.2 else []

/-- An address lies in one of some ranges. -/
def inAny (l : List (Nat × Nat)) (a : Nat) : Bool := l.any fun r => decide (r.1 ≤ a) && decide (a < r.1 + r.2)

/-- Step 7 (07 R155): a write of zero to every byte of some pages; lines never accessed keep their times. -/
def Dram.zeroPages (d : Dram) (l : List (Nat × Nat)) : Dram :=
  let line (k : Nat) (t : LineT) : LineT := if inAny l (128 * k) then ⟨t.rts + 1, t.rts + 1⟩ else t
  { d with
    bytes := d.bytes.filter fun e => !inAny l e.1
    lines := d.lines.mapAll d.unlisted line
    rel := d.rel.filter fun e => !inAny l e.1
    bad := d.bad.filter fun e => !inAny l (8 * e.1) }

/-- Copies of some pages leave every lease cache. -/
def State.dropLeases (s : State) (l : List (Nat × Nat)) : State :=
  let one (k : CoreSt) : CoreSt := { k with lease := k.lease.filter fun (e : Nat × Copy) => !inAny l (128 * e.1) }
  { s with cores := s.cores.mapAll ⟨0, 0, [], []⟩ fun _ k => one k }

/-- Step 8: ways, queues and buckets return. -/
def State.giveBack (s : State) (g : Nat) : State :=
  let s := (s.setGuest g { s.guest g with ways := [] }).applyWays g
  { s with
    queues := s.queues.mapAll BQueue.empty fun _ q => if q.owner = g then BQueue.empty else q
    buckets := s.buckets.mapAll default fun _ b => if b.valid && b.owner == g then default else b }

/-- Steps 1 to 8 of a reset. DEDUCED, unsafe: log 73. -/
def State.resetGuest (s : State) (g : Nat) : State :=
  let pages := s.guestPages g
  let s := (((s.stopRings g).revoke g).stopContexts g).tearDown g
  let s := { s with dram := s.dram.zeroPages pages, resets := g :: s.resets }
  let s := (s.dropLeases pages).giveBack g
  if 8 ≤ g then s.setFn (fnOf g) { s.fn (fnOf g) with busy := true } else s

/-- Step 9: completion goes to the host (22 R426) and to Vesper. -/
def State.resetDone (s : State) (g : Nat) : State :=
  let s := { s with resets := s.resets.filter (· != g) }
  let n := fnOf g
  let f := s.fn n
  let s := if 8 ≤ g then
      (s.setFn n { f with busy := false, done := true }).irq n (f.int.extractLsb' 3 3).toNat
    else s
  s.notice (.resetDone g)

/-! ### The rows -/

/-- A reset requested: during a move it waits for the move's end (R399). The row's next occurrence for a guest whose
reset runs is its step 9. DESIGN CHOICE, safe: log 17. DEDUCED, unsafe: log 73. -/
def State.requestReset (s : State) (g : Nat) : State :=
  if s.resets.contains g then s.resetDone g
  else if s.move15.busy then
    (if s.resetsLater.contains g then s else { s with resetsLater := s.resetsLater ++ [g] })
  else s.resetGuest g

/-- Vesper's answer to a command. -/
def State.answer (s : State) (bytes : List Byte) : State := { s with vesper := { s.vesper with answer := bytes } }

/-- A command reaches Vesper: one from the side-band ends IDLE (13 Table 13.9). -/
def State.heard (s : State) (side : Side) : State := if side = .sideBand then s.wake else s

/-- FUNCTION_LEVEL_RESET: of a virtual function, its guest's reset; of PF0, the end of the host's lock (22 R432). -/
def execFunctionLevelReset (fn : Nat) (s : State) : Out :=
  if 192 < fn then .next s
  else if fn = 0 then
    .next (if s.vesper.lock = some .host then { s with vesper := { s.vesper with lock := none } } else s)
  else .next (s.requestReset (fn + 7))

/-- VF_RESET: a write of go to PF0's VF.RESET (22 Table 22.1). -/
def execVfReset (vf : Nat) (s : State) : Out :=
  .next (if 1 ≤ vf ∧ vf ≤ 192 then s.requestReset (vf + 7) else s)

/-- GUEST_RESET (22 R431, R432): from either side, without the lock; answered done at step 9. Vesper's mask ROM
refuses it (23 R433), and in OFF it has no power (01 R18). -/
def execGuestReset (side : Side) (guest : Nat) (s : State) : Out :=
  if s.power.state = .off then .next s else
  let s := s.heard side
  if !s.vesper.ready then .next (s.answer [3])
  else if 200 ≤ guest then .next (s.answer [2])
  else
    let run := s.resets.contains guest
    let s := s.requestReset guest
    .next (s.answer (if run then [0] else []))

end Sys2Proof.Machine
end

