-- ==== Sys2Proof/Machine/Moves.lean ====
section
/-! DEFINITION. Partition moves (15 R399, R400) and memory under heat (R402). -/
namespace Sys2Proof.Machine

/-! ### Refusals (R399) -/

/-- Fields of PART.MOVE (Table 15.13). -/
def moveKind (w : Word) : Nat := (w.extractLsb' 0 2).toNat
def moveFrom (w : Word) : Nat := (w.extractLsb' 2 3).toNat
def moveTo (w : Word) : Nat := (w.extractLsb' 5 3).toNat
def moveMask (w : Word) : BitVec 32 := w.extractLsb' 16 32
def moveLane (w : Word) : Nat := (w.extractLsb' 48 2).toNat

/-- The operands of PART.MOVE as a word. -/
def moveWord (kind src dst : Nat) (mask : BitVec 32) (lane : Nat) : Word :=
  BitVec.ofNat 64 (kind % 4 + src % 8 * 2 ^ 2 + dst % 8 * 2 ^ 5 + mask.toNat * 2 ^ 16 + lane % 4 * 2 ^ 48)

/-- The owner of a lane of a loop (Table 15.1, LANE.OWN). -/
def State.laneOwner (s : State) (loop lane : Nat) : Nat := ((s.lanes.get 0 loop).extractLsb' (4 * lane) 4).toNat

/-- The giver owns every resource that a move names. -/
def State.ownsMoved (s : State) (w : Word) : Bool :=
  let p := s.part (moveFrom w)
  let m := moveMask w
  match moveKind w with
  | 0 => m &&& ~~~p.pairs == 0
  | 1 => m &&& ~~~p.slices == 0
  | 2 => m.extractLsb' 0 16 &&& ~~~p.chans == 0
  | _ => (List.range 30).all fun l => !m.getLsbD l || s.laneOwner l (moveLane w) == moveFrom w

/-- A partition has guests: a contract that firmware or Vesper has written names it. -/
def State.hasGuests (s : State) (p : Nat) : Bool := s.guests.any fun e => e.2.part == p

/-- A move would leave its giver with guests but without a core or a slice. -/
def State.strands (s : State) (w : Word) : Bool :=
  let p := s.part (moveFrom w)
  let left (own : BitVec 32) : Bool := own &&& ~~~(moveMask w) == 0
  moveFrom w != moveTo w && s.hasGuests (moveFrom w) &&
    ((moveKind w == 0 && left p.pairs) || (moveKind w == 1 && left p.slices))

/-- The manifest lists the transfer of every channel pair named (23 Table 23.1a). -/
def State.listed (s : State) (w : Word) : Bool :=
  moveKind w != 2 || (List.range 16).all fun k => !(moveMask w).getLsbD k || s.trust.policy.any fun r =>
    r.type == 3 && r.part == moveFrom w && r.dest == moveTo w && r.size.testBit k

/-! ### The steps (R400) -/

/-- A move begins, or is refused with nothing changed. -/
def State.startMove (s : State) (w : Word) : State :=
  if s.move15.busy then s
  else if !s.ownsMoved w || s.strands w || !s.listed w then { s with move15 := ⟨w, false, 0, 1⟩ }
  else
    let s := { s with move15 := ⟨w, true, 2, 0⟩ }
    s.ctxs.foldl (fun s e => if e.2.bound && s.movingCore (e.1 / 4) then s.preempt (e.1 / 4) (e.1 % 4) .move else s) s

/-- Bound contexts of the two partitions of a move. -/
def State.moveCtxs (s : State) : List Ctx :=
  (s.ctxs.map (·.2)).filter fun c => c.bound && s.moving c.part

/-- A started command with an operand of a memory kind. -/
def Job.uses (j : Job) (kind : Nat) : Bool := j.st != .waiting && ((j.cmd.sk == kind && j.cmd.op != 5) || j.cmd.dk == kind)

/-- A started command that may touch what a move of slices or of channel pairs takes (step 3): a staging way, or device
memory. DEDUCED, unsafe: log 62. -/
def Job.drains (w : Word) (j : Job) : Bool := (moveKind w == 1 && j.uses 2) || (moveKind w == 2 && j.uses 0)

/-- A line re-homed to another slice takes no time below those that its old slice had evicted (07 R154): the slices of
two partitions take the highest of their eviction marks. -/
def Dram.shareMarks (d : Dram) (slices : BitVec 32) : Dram :=
  let l := (List.range 32).filter fun k => slices.getLsbD k
  let top := l.foldl (fun a k => max a (d.marks.get 0 k)) 0
  if top = 0 then d else { d with marks := l.foldl (fun t k => t.put 0 k top) d.marks }

/-- Steps 4 to 6 for slices and channel pairs: renumbered slices keep their logical number's staging contents, those
at or above the giver's new count are lost, and a moving channel pair is zeroed. -/
def State.rehash (s : State) : State :=
  let w := s.move15.word
  let (a, b) := (moveFrom w, moveTo w)
  let m := moveMask w
  if a = b then s
  else if moveKind w = 1 then
    let old := (s.part a).sliceCount
    let s := s.setPart a { s.part a with slices := (s.part a).slices &&& ~~~m }
    let s := s.setPart b { s.part b with slices := (s.part b).slices ||| m }
    let now := (s.part a).sliceCount
    let o := (List.range (old - now)).foldl (fun (o : Outer) i =>
      (List.range 16).foldl (fun (o : Outer) k => o.zeroWay a (now + i) k) o) s.staging
    { s with staging := o, dram := s.dram.shareMarks ((s.part a).slices ||| (s.part b).slices) }
  else if moveKind w = 2 then
    let c := m.extractLsb' 0 16
    let s := s.setPart a { s.part a with chans := (s.part a).chans &&& ~~~c }
    let s := s.setPart b { s.part b with chans := (s.part b).chans ||| c }
    let keep (pa : Nat) : Bool := !c.getLsbD (Config.channelPair pa % 16)
    { s with dram := { s.dram with
      bytes := s.dram.bytes.filter fun e => keep e.1, rel := s.dram.rel.filter fun e => keep e.1 } }
  else s

/-- Step 7: lending pairs and lanes change owners, and scope entries that name what left are stale (07 R166). -/
def State.reown (s : State) : State :=
  let w := s.move15.word
  let (a, b) := (moveFrom w, moveTo w)
  let m := moveMask w
  let s :=
    if a = b then s
    else if moveKind w = 0 then
      let s := s.setPart a { s.part a with pairs := (s.part a).pairs &&& ~~~m }
      s.setPart b { s.part b with pairs := (s.part b).pairs ||| m }
    else if moveKind w = 3 then
      let put (t : Tbl Word) (l : Nat) : Tbl Word :=
        t.put 0 l (under (0xF#64 <<< (4 * moveLane w)) (t.get 0 l) (BitVec.ofNat 64 (b * 2 ^ (4 * moveLane w))))
      { s with lanes := (List.range 30).foldl (fun t l => if m.getLsbD l then put t l else t) s.lanes }
    else s
  { s with ctxs := s.ctxs.mapAll Ctx.empty fun _ c => if c.bound && s.moving c.part then c.markStale (s.part c.part) else c }

/-- Step 8: completions of kind 6, whose bodies are free, and the resets that waited. -/
def State.endMove (s : State) : State :=
  let w := s.move15.word
  let (a, b) := (moveFrom w, moveTo w)
  let s := { s with move15 := ⟨w, false, 0, 0⟩ }
  let s := s.guests.foldl (fun s e =>
    if e.2.part = a ∨ e.2.part = b then
      (s.postCq e.1 ⟨6, 0, 0, Config.freeWord s.free, Config.freeWord (s.free + 1), none⟩).fresh.fresh
    else s) s
  let later := s.resetsLater
  later.foldl (fun s g => s.resetGuest g) { s with resetsLater := [] }

/-- A move under way goes on: from step 2 once the moving cores are empty, from step 3 once no command touches a
moving slice or channel pair, from step 7 once no command or instruction of the partitions holds a captured scope (07 R165).
DEDUCED, unsafe: log 62. -/
def State.advanceMove (s : State) : State :=
  let saved := !(s.ctxs.any fun e => e.2.bound && s.movingCore (e.1 / 4))
  let drained := s.moveCtxs.all fun c => !((c.q0.jobs ++ c.q1.jobs).any (Job.drains s.move15.word))
  let idle := s.moveCtxs.all fun c => c.openUids.isEmpty &&
    Sq.order.all fun y => (c.seq.get y).inflight.all fun p => match p.gate with | .engine _ => false | _ => true
  let s := if s.move15.step = 2 ∧ saved then { s with move15 := { s.move15 with step := 3 } } else s
  let s := if s.move15.step = 3 ∧ drained then
      let s := s.rehash
      { s with move15 := { s.move15 with step := 7 } }
    else s
  if s.move15.step = 7 ∧ idle then s.reown.endMove else s

/-- The operands of a move that its kind uses: the lane for lanes alone (Table 15.13). -/
def moveOperands (w : Word) : Word := if moveKind w = 3 then w else w &&& ~~~(0x3#64 <<< 48)

/-- A move by its row: its first occurrence starts it, the later ones carry it on. DESIGN CHOICE, safe: log 17. -/
def State.moveRow (s : State) (w : Word) : Out :=
  if s.move15.busy then .next (if moveOperands s.move15.word = moveOperands w then s.advanceMove else s)
  else .next (s.startMove w)

/-- PART_MOVE_PAIRS. -/
def execPartMovePairs (src dst : Nat) (mask : BitVec 32) (s : State) : Out := s.moveRow (moveWord 0 src dst mask 0)

/-- PART_MOVE_SLICES. -/
def execPartMoveSlices (src dst : Nat) (mask : BitVec 32) (s : State) : Out := s.moveRow (moveWord 1 src dst mask 0)

/-- PART_MOVE_CHANNELS. -/
def execPartMoveChannels (src dst : Nat) (mask : BitVec 32) (s : State) : Out := s.moveRow (moveWord 2 src dst mask 0)

/-- PART_MOVE_LANES. -/
def execPartMoveLanes (src dst : Nat) (mask : BitVec 32) (lane : Nat) (s : State) : Out :=
  s.moveRow (moveWord 3 src dst mask lane)

/-! ### Memory under heat (R402) -/

/-- The threshold that limits a controller after a sample: it goes 5 °C below the one that caused it.
DEDUCED, unsafe: log 64. -/
def heatLimit (old temp : Nat) : Nat :=
  if 95 ≤ temp ∨ (old = 2 ∧ 90 < temp) then 2 else if 85 ≤ temp ∨ (1 ≤ old ∧ 80 < temp) then 1 else 0

/-- The floor of a partition at a controller. -/
def PartSt.floorRate (p : PartSt) : Nat := if p.w0.getLsbD 22 then (p.floor.extractLsb' 0 16).toNat else 0

/-- The bucket rate of a partition under a deliverable rate (R402): `r` its own rate, `f` its floor, `rs` and `fs` the
sums over the partitions. DEDUCED, unsafe: log 64. -/
def deratedRate (a rs fs r f : Nat) (high : Bool) : Nat :=
  if rs ≤ a then r
  else if a ≤ fs then (if high then f * a / fs else 0)
  else ((f : Int) + Int.fdiv (((a : Int) - fs) * ((r : Int) - f)) ((rs : Int) - fs)).toNat

/-- A bucket of a partition at a controller takes a rate; where it changes, the partition's guests are told. -/
def State.setRate (s : State) (ctrl p rate : Nat) : State :=
  let k := ctrl * 8 + p
  let b := s.ctrlBuckets.get default k
  if b.rate = rate then s else
  let s := { s with ctrlBuckets := s.ctrlBuckets.put default k { b with rate := rate } }
  let body := Config.deratedBody ctrl rate
  s.guests.foldl (fun s e => if e.2.part = p then s.postCq e.1 ⟨5, 0, 0, body.1, body.2, none⟩ else s) s

/-- The rates that the partitions have at a controller under a deliverable rate. -/
def State.ratesAt (s : State) (ctrl a : Nat) : List Nat :=
  let own (p : Nat) : Nat := (s.ctrls.get default ctrl).rates.get 0 p
  let floor (p : Nat) : Nat := (s.part p).floorRate
  let rs := (List.range 8).foldl (fun x p => x + own p) 0
  let fs := (List.range 8).foldl (fun x p => x + floor p) 0
  (List.range 8).map fun p =>
    deratedRate a rs fs (own p) (floor p) ((s.part p).w0.getLsbD 22)

/-- A controller's sample taken, with the rates that follow. -/
def State.sampleCtrl (s : State) (ctrl temp a : Nat) : State :=
  let c := s.ctrls.get default ctrl
  let limit := heatLimit c.limit temp
  let new := s.ratesAt ctrl a
  let s := { s with ctrls := s.ctrls.put default ctrl { c with temp := temp, limit := limit } }
  let same := (List.range 8).all fun p => (s.ctrlBuckets.get default (ctrl * 8 + p)).rate == new.getD p 0
  if same then s else ((List.range 8).foldl (fun s p => s.setRate ctrl p (new.getD p 0)) s).notice (.derated ctrl)

/-- MEMORY_TEMP_SAMPLE: every 1 ms, with the deliverable rate that the limits leave. -/
def execMemoryTempSample (ctrl temp rate : Nat) (s : State) : Out :=
  if 16 ≤ ctrl ∨ s.due (32 + ctrl) 1000 = false then .next s
  else .next ((s.ticked (32 + ctrl) 1000).sampleCtrl ctrl temp rate)

end Sys2Proof.Machine
end

