-- ==== Sys2Proof/Machine/Upkeep.lean ====
section
/-! DEFINITION. Upkeep of the memories and of translation: scrubbing (06 R141), leases (07 R150), the rebase of
logical time (R151), walks (14 R363), invalidation (R367) and page migration (R369). -/
namespace Sys2Proof.Machine

/-! ### SCRUB_PASS (06 R141) -/

/-- A field of LMEM.ECC that saturates, raised. -/
def saturate (w : Word) (lo width n : Nat) : Nat := min (2 ^ width - 1) ((w.extractLsb' lo width).toNat + n)

/-- LMEM.ECC after corrected errors (Table 6.10). -/
def eccCorrected (w : Word) (tile spad : Nat) : Word :=
  under 0xFFFFFFFF w (BitVec.ofNat 64 (saturate w 0 16 tile + saturate w 16 16 spad * 2 ^ 16))

/-- LMEM.ECC after an uncorrectable word (Table 6.10). -/
def eccFound (w : Word) (tile : Bool) (loc : Nat) : Word :=
  under 0x7FFFFFFF00000000 w
    (BitVec.ofNat 64 (saturate w 32 8 1 * 2 ^ 32 + bitNum tile * 2 ^ 40 + loc % 2 ^ 22 * 2 ^ 41))

/-- An uncorrectable word of a context found: a tile word by (tile·64 + row)·64 + column, a scratchpad word by its
context address. A word of lent storage stands in LMEM.ECC of the borrowing core, whose context names it.
DESIGN CHOICE, unsafe: log 102. -/
def Ctx.foundBad (c : Ctx) (tile : Bool) (loc : Nat) : Ctx :=
  if !c.bound then c
  else if tile then
    let t := loc / 4096
    if c.tilesN ≤ t then c else
    let x := c.tile t
    { c with tiles := c.tiles.put Tile.empty t { x with bad := x.bad.put false (loc % 4096) true } }
  else if !c.allocated loc then c
  else { c with spad := { c.spad with bad := c.spad.bad.put false (loc / 8) true } }

/-- The record of an uncorrectable word: it is counted whether or not a context holds it. -/
def State.foundBad (s : State) (core slot : Nat) (tile : Bool) (loc : Nat) : State :=
  let k := s.core core
  let s := s.setCtx core slot ((s.ctx core slot).foundBad tile loc)
  s.setCore core { k with ecc := eccFound k.ecc tile (if tile then loc / 64 else loc / 8 * 8) }

/-- SCRUB_PASS: the errors that a pass over a core meets arrive from outside, and those of the L2 slices with them, by the
physical address of each uncorrectable 8-byte word. A corrected word keeps its value. DESIGN CHOICE, safe: log 44. -/
def execScrubPass (core corrTile corrSpad : Nat) (found : ScrubFound) (s : State) : Out :=
  if 64 ≤ core then .next s else
  let k := s.core core
  let s := s.setCore core { k with ecc := eccCorrected k.ecc corrTile corrSpad }
  let s := found.cells.foldl (fun s e => s.foundBad core (e.1 % 4) e.2.1 e.2.2) s
  let bad := (found.lines.filter fitted).foldl (fun t pa => t.put false (pa / 8) true) s.dram.bad
  .next { s with dram := { s.dram with bad := bad } }

/-! ### LEASE_EXPIRY (07 R150) -/

/-- LEASE_EXPIRY: a copy leaves the lease cache of a core. -/
def execLeaseExpiry (core line : Nat) (s : State) : Out :=
  let k := s.core core
  .next (s.setCore core { k with lease := k.lease.del line })

/-! ### TIME_REBASE (07 R151) -/

/-- A carried time rebased. -/
def Carry.rebase (n : Nat) (k : Carry) : Carry := { k with pts := k.pts - n }

/-- A table of carried times rebased. -/
def rebaseCarries (n : Nat) (t : Tbl Carry) : Tbl Carry := t.mapAll ⟨0, []⟩ fun _ k => k.rebase n

/-- A channel rebased. -/
def Chan.rebase (n : Nat) (c : Chan) : Chan :=
  let one (e : Entry) : Entry := { e with carry := e.carry.rebase n }
  { c with avail := c.avail.map one }

/-- A popped entry rebased. -/
def Pop.rebase (n : Nat) : Pop → Pop
  | .chan k c e => .chan k c { e with carry := e.carry.rebase n }
  | .line g l => .line g { l with carry := l.carry.rebase n }

/-- An issued instruction rebased. -/
def Pending.rebase (n : Nat) (p : Pending) : Pending :=
  { p with pops := p.pops.map (Pop.rebase n), carry := p.carry.rebase n }

/-- A sequencer rebased. -/
def Seqr.rebase (n : Nat) (q : Seqr) : Seqr :=
  { q with pts := q.pts - n, retPts := q.retPts - n, inflight := q.inflight.map (Pending.rebase n) }

/-- An engine queue rebased. -/
def EngQueue.rebase (n : Nat) (q : EngQueue) : EngQueue :=
  let job (j : Job) : Job := { j with carry := j.carry.rebase n, time := j.time - n }
  let rec_ (r : Record) : Record := { r with carry := r.carry.rebase n }
  { q with jobs := q.jobs.map job, records := q.records.map rec_, carry := q.carry.rebase n }

/-- A context rebased. -/
def Ctx.rebase (n : Nat) (c : Ctx) : Ctx :=
  let ring (r : Ring) : Ring := { r with posted := r.posted.map (Carry.rebase n) }
  let line (l : GLine) : GLine := { l with carry := l.carry.rebase n }
  let gen (g : Gen) : Gen := { g with buf := g.buf.map line }
  { c with
    seq := ⟨c.seq.c.rebase n, c.seq.l.rebase n, c.seq.x.rebase n, c.seq.s.rebase n⟩
    toks := c.toks.mapAll Chan.empty fun _ k => k.rebase n
    data := c.data.mapAll Chan.empty fun _ k => k.rebase n
    bos := c.bos.mapAll Chan.empty fun _ k => k.rebase n
    evSeq := rebaseCarries n c.evSeq
    evEng := rebaseCarries n c.evEng
    rings := c.rings.mapAll Ring.empty fun _ r => ring r
    gens := c.gens.mapAll ⟨none, 0, []⟩ fun _ g => gen g
    spad := { c.spad with phase := c.spad.phase.mapAll [] fun _ l => l.map fun e => (e.1, e.2.rebase n) }
    q0 := c.q0.rebase n
    q1 := c.q1.rebase n
    gathers := rebaseCarries n c.gathers
    doneCarry := rebaseCarries n c.doneCarry
    allDone := c.allDone.rebase n }

/-- Device memory rebased. DEDUCED, unsafe: log 68. -/
def Dram.rebase (n : Nat) (d : Dram) : Dram :=
  let m := d.mark - n
  { d with mark := m, marks := d.marks.mapAll 0 fun _ t => t - n, lines := d.lines.mapAll ⟨m, m⟩ fun _ l => ⟨l.wts - n, l.rts - n⟩ }

/-- One amount is taken from every time of the part, and every lease cache is emptied (R151). A time below it becomes zero,
where it stands before every access to come, as it did. DEDUCED, unsafe: log 68. -/
def State.rebase (s : State) (amount : Nat) : State :=
  let queue (q : BQueue) : BQueue :=
    let one (r : BRec) : BRec := { r with carry := r.carry.rebase amount }
    { q with recs := q.recs.map one }
  let task (t : Task) : Task := { t with carry := t.carry.rebase amount }
  let save (e : Saved) : Saved := { e with img := e.img.rebase amount }
  let core (k : CoreSt) : CoreSt := { k with lease := [] }
  let fw (f : FwCore) : FwCore := { f with pts := f.pts - amount, reservation := none }
  let ring (r : KRing) : KRing := { r with pts := r.pts - amount }
  let fn (f : HostFn) : HostFn := { f with pts := f.pts - amount }
  { s with
    dram := s.dram.rebase amount
    ctxs := s.ctxs.mapAll Ctx.empty fun _ c => c.rebase amount
    saved := s.saved.map fun e => (e.1, save e.2)
    cores := s.cores.mapAll ⟨0, 0, [], []⟩ fun _ k => core k
    queues := s.queues.mapAll BQueue.empty fun _ q => queue q
    tasks := s.tasks.map fun e => (e.1, task e.2)
    fws := s.fws.mapAll FwCore.empty fun _ f => fw f
    rings := s.rings.mapAll default fun _ r => ring r
    fns := s.fns.mapAll HostFn.empty fun _ f => fn f }

/-- The largest logical time on the part. -/
def State.topTime (s : State) : Nat :=
  let ctx (a : Nat) (c : Ctx) : Nat := Sq.order.foldl (fun a y => max a (c.seq.get y).pts) a
  let a := s.dram.lines.foldl (fun a e => max a e.2.rts) s.dram.mark
  let a := s.dram.marks.foldl (fun a e => max a e.2) a
  let a := s.ctxs.foldl (fun a e => ctx a e.2) a
  let a := s.saved.foldl (fun a e => ctx a e.2.img) a
  let a := s.fws.foldl (fun a e => max a e.2.pts) a
  let a := s.rings.foldl (fun a e => max a e.2.pts) a
  s.fns.foldl (fun a e => max a e.2.pts) a

/-- The part is quiescent: no bound context has an issued instruction that has not retired, or a command that has begun and
not completed. DEDUCED, unsafe: log 68. -/
def State.quiescent (s : State) : Bool :=
  s.ctxs.all fun e => !e.2.bound || (Sq.order.all fun y => (e.2.seq.get y).inflight.isEmpty) &&
    (e.2.q0.jobs ++ e.2.q1.jobs).all fun j => j.st == .waiting

/-- What a quiesce of the part does to its times: above 2^62 it rebases them (R151), by a free amount that brings them
below it. -/
def State.rebaseHigh (s : State) : State :=
  let top := s.topTime
  if top ≤ 2 ^ 62 then s else (s.rebase (top - Config.freeNat s.free % 2 ^ 62)).fresh

/-- TIME_REBASE: in a quiesce of the part. DEDUCED, unsafe: log 68. -/
def execTimeRebase (amount : Nat) (s : State) : Out := .next (if s.quiescent then s.rebase amount else s)

/-! ### Translation (14 R363, R367, R369) -/

/-- TABLE_WALK (R363): a walk ahead of an access, as the prefetchers make it: its translation is kept, and a fault
is not. DEDUCED, safe: log 86. -/
def execTableWalk (core slot : Nat) (va : VA) (acc : Access) (s : State) : Out :=
  let c := s.ctx core slot
  .next (if c.bound then (s.translate ⟨c.guest, core, 0⟩ va.toNat acc).1 else s)

/-- The fields of XLATE.INV that a write sets (Table 14.8); a reserved stage or range leaves the field. -/
def invFields (old w : Word) : Word :=
  let m : Word := 0x0FFFFFFFFFFF80FF
  let m := if w.extractLsb' 8 2 = 3 then m else m ||| 0x300
  let m := if w.extractLsb' 10 2 = 3 then m else m ||| 0xC00
  under m old w

/-- A write of XLATE.INV, ignored while busy. -/
def State.writeInv (s : State) (w : Word) : State :=
  if s.xlat.inv.getLsbD 13 then s
  else { s with xlat := { s.xlat with inv := invFields s.xlat.inv w ||| (if w.getLsbD 12 then 0x2000 else 0) } }

/-- XLATE_INV (R367): a write of go starts an invalidation. -/
def execXlateInv (v : Word) (s : State) : Out := .next (if v.getLsbD 12 then s.writeInv v else s)

/-- INVALIDATION_COMPLETE (R367): what matches is removed and busy clears. -/
def execInvalidationComplete (s : State) : Out :=
  let w := s.xlat.inv
  let f (lo n : Nat) : Nat := (w.extractLsb' lo n).toNat
  if w.getLsbD 13 then
    let s := s.invalidate (f 0 8) (f 8 2) (f 10 2) (f 15 45 * 2 ^ 12)
    .next { s with xlat := { s.xlat with inv := w &&& ~~~0x2000#64 } }
  else .next s

/-- An address of a page that has moved. -/
def moved (page dest pa : Nat) : Nat := if pa / 4096 = page then dest * 4096 + pa % 4096 else pa

/-- A page of times and releases taken over by another page (07 R153). DESIGN CHOICE, unsafe: log 69. -/
def Dram.carryOver (d : Dram) (page dest : Nat) : Dram :=
  let rel := d.rel.filter fun e => e.1 / 4096 != dest
  { d with
    lines := (List.range 32).foldl (fun t i => t.put d.unlisted (dest * 32 + i) (d.line (page * 4096 + 128 * i))) d.lines
    rel := (d.rel.filter fun e => e.1 / 4096 == page).foldl (fun t e => t.put [] (dest * 4096 + e.1 % 4096) e.2) rel }

/-- What bank units and contexts hold by the physical address of a page that has moved: open groups, dependence counters,
records of siblings, and siblings held (12 R294, R300, R310, R313). -/
def State.followPage (s : State) (page dest : Nat) : State :=
  let m := moved page dest
  let task (t : Task) : Task := { t with dep0 := m t.dep0, dep1 := m t.dep1 }
  let rec_ (r : BRec) : BRec := if r.task = 0 then r else { r with task := m (r.task - 1) + 1 }
  let queue (q : BQueue) : BQueue := if q.kind = 0 then { q with recs := q.recs.map rec_ } else q
  let ctx (c : Ctx) : Ctx :=
    { c with tasks := { c.tasks with siblings := c.tasks.siblings.map fun h => (m h.1, h.2) } }
  { s with
    groups := s.groups.foldl (fun t e => t.ins (m e.1) e.2) []
    tasks := s.tasks.map fun e => (e.1, task e.2)
    queues := s.queues.mapAll BQueue.empty fun _ q => queue q
    ctxs := s.ctxs.mapAll Ctx.empty fun _ c => ctx c
    saved := s.saved.map fun e => (e.1, { e.2 with img := ctx e.2.img }) }

/-- PAGE_MIGRATION_SWITCH (R369, 07 R153): with `lock`, firmware's lock of the old page, which holds its writes;
without it, the switch after the invalidation: the new page's lines take the old times, what bank units hold follows, and
the lock goes. DESIGN CHOICE, unsafe: log 69. -/
def execPageMigrationSwitch (page dest : Nat) (lock : Bool) (s : State) : Out :=
  if lock then .next { s with dram := { s.dram with locks := s.dram.locks.put none page (some dest) } }
  else if s.dram.locks.get none page ≠ some dest ∨ s.xlat.inv.getLsbD 13 = true then .next s
  else
    let d := s.dram.carryOver page dest
    .next (({ s with dram := { d with locks := d.locks.put none page none } } : State).followPage page dest)

end Sys2Proof.Machine
end

