-- ==== Sys2Proof/Machine/PowerStates.lean ====
section
/-! DEFINITION. The power states of the part and of its partitions (13 R338, 23 R437, R444), and kicks (15 R375). -/
namespace Sys2Proof.Machine

/-! ### Debug state across power states (23 Table 23.5) -/

/-- A debug state taken; a change ends every open session (23 R441). -/
def Trust.setDebug (t : Trust) (debug : Nat) (unlocked : BitVec 8) : Trust :=
  { t with
    debug := debug, unlocked := unlocked
    sessions := if t.debug = debug ∧ t.unlocked = unlocked then t.sessions else [] }

/-- Debug of some partitions ends; device-wide debug stays. -/
def Trust.relock (t : Trust) (parts : BitVec 8) : Trust :=
  let u := t.unlocked &&& ~~~parts
  t.setDebug (if t.debug = 1 ∧ u = 0 then 0 else t.debug) u

/-! ### Entry and exit -/

/-- Steps 1 and 2: Bazaar stands still for a partition and its contexts are asked to stop. -/
def State.freezePart (s : State) (p : Nat) : State :=
  let s := s.setPart p { s.part p with frozen := true }
  s.ctxs.foldl (fun s e => if e.2.bound && e.2.part == p then s.preempt (e.1 / 4) (e.1 % 4) .power else s) s

/-- Every context of a partition has been saved. -/
def State.emptied (s : State) (p : Nat) : Bool := s.ctxs.all fun e => !(e.2.bound && e.2.part == p)

/-- Partitions that a mask names. -/
def named (mask : Nat) : List Nat := (List.range 8).filter fun p => mask.testBit p

/-- The cores of a partition lose what they hold. -/
def State.darken (s : State) (p : Nat) : State :=
  let cs := (s.part p).cores
  { s with cores := s.cores.mapAll ⟨0, 0, [], []⟩ fun n k => if cs.getLsbD n then ⟨0, 0, [], []⟩ else k }

/-- PARTITION_OFF, as far as it can go now; whether it has been reached. -/
def State.partitionsOff (s : State) (mask : Nat) : State × Bool :=
  let ps := (named mask).filter fun p => !(s.part p).off
  let s := ps.foldl (fun s p => s.freezePart p) s
  if ps.all s.emptied then
    let s := ps.foldl (fun s p => (s.darken p).setPart p { s.part p with off := true, frozen := false }) s
    ({ s with trust := s.trust.relock (BitVec.ofNat 8 mask) }, true)
  else (s, false)

/-- A partition's power returns. -/
def State.partitionOn (s : State) (p : Nat) : State := s.setPart p { s.part p with off := false }

/-- What a scheduler core keeps in RETENTION: its SRAM, with Kiosk's view of its slots and of its event ring. -/
def FwCore.retain (c : FwCore) : FwCore :=
  { FwCore.empty with sram := c.sram, slots := c.slots, evHead := c.evHead, evTail := c.evTail, evWait := c.evWait }

/-- The entry steps of RETENTION, as far as they can go now; whether every context has been saved.
DEDUCED, unsafe: log 72. -/
def State.quiesce (s : State) : State × Bool :=
  let s := (List.range 8).foldl (fun s p => s.freezePart p) s.wake
  (s, (List.range 8).all s.emptied)

/-- RETENTION is reached: what it does not keep is lost, and the largest time, rebased where it is above 2^62 (07 R151), is
every slice's mark (07 R148).
DESIGN CHOICE, unsafe: log 67. DEDUCED, unsafe: log 72. -/
def State.retain (s : State) : State :=
  let s := s.rebaseHigh
  { s with
    cores := []
    xlat := { s.xlat with tlb := [], walk := [] }
    dram := { s.dram with mark := s.topTime, marks := [], lines := [] }
    fws := s.fws.mapAll FwCore.empty fun _ c => c.retain
    trust := s.trust.relock 0xFF
    power := { s.power with state := .retention } }

/-- RETENTION by a step of its entry. -/
def State.toRetention (s : State) : State × Bool :=
  if s.power.state = .retention then (s, true)
  else if !s.powered then (s, false)
  else match s.quiesce with
    | (s, true) => (s.retain, true)
    | (s, false) => (s, false)

/-- A scheduler core at resume: its image matches the manifest's digest, or is loaded again (23 R437). -/
def State.resumeCore (s : State) (e : Entry23) : State :=
  let c := s.fwCore e.target
  let m := if Config.sha512 (c.sram.read 0 e.length) = e.digest then c.sram else c.sram.write 0 (e.image s.trust.flash)
  if e.kind = 0 ∧ e.target < 4 then s.setFw e.target { c with sram := m, released := true } else s

/-- RETENTION ends: scheduler cores are released again, and binding resumes. -/
def State.leaveRetention (s : State) : State :=
  if s.power.state ≠ .retention then s else
  let s := { s with power := { s.power with state := .active, quietSince := s.time } }
  let s := match s.trust.manifest with
    | some base => (entriesAt s.trust.flash base).foldl (fun s e => s.resumeCore e) s
    | none => s
  (List.range 8).foldl (fun s p => s.setPart p { s.part p with frozen := false }) s

/-- The voltage at which a rail stands in IDLE: the floor of 600 MHz of its clusters. -/
def State.idleFloor (s : State) (r : Nat) : Nat :=
  (List.range 8).foldl (fun a n => if (s.cluster n).rail = r then max a (Config.vfloor n 0) else a) 0

/-! ### The rows -/

/-- IDLE_ENTRY: Vesper's policy, once the idle interval has passed quiet and the scheduler cores sleep in SWAIT. -/
def execIdleEntry (s : State) : Out :=
  let p := s.power
  let sleeps := s.fws.all fun e => !e.2.released || e.2.asleep
  if p.state ≠ .active ∨ p.idleInterval = 0 ∨ s.quietNow = false ∨ sleeps = false ∨ s.time < p.quietSince + p.idleInterval ∨
      p.trip.tripped = true then .next s
  else
    let s := (List.range 4).foldl (fun s r => s.setRail r { s.rail r with v := s.idleFloor r }) s
    .next { s with power := { s.power with state := .idle } }

/-- IDLE_EXIT. -/
def execIdleExit (s : State) : Out := .next s.wake

/-- WAKE_INPUT_RISE: the part leaves RETENTION. -/
def execWakeInputRise (s : State) : Out := .next s.leaveRetention

/-- WAKE_INPUT_FALL: the part enters RETENTION; the row's later occurrences carry the entry on. -/
def execWakeInputFall (s : State) : Out := .next s.toRetention.1

/-- KICK (15 R375): it ends IDLE and RETENTION; for a partition that is off Vesper may grant power. It hands over the
posted writes of its function (22 R425). -/
def execKick (ring tail : Nat) (s : State) : Out :=
  if 1600 ≤ ring ∨ s.power.state = .off then .next s else
  let s := s.wake.leaveRetention
  let p := s.partOf (ring / 8)
  let s := if (s.part p).off then (if Config.freeBit s.free then s.fresh.partitionOn p else s.fresh) else s
  let s := s.aged
  .next (s.setRing ring ((s.ring ring).kick tail (s.fn (fnOf (ring / 8))).pts))

end Sys2Proof.Machine
end

