-- ==== Sys2Proof/Machine/Debug.lean ====
section
/-! DEFINITION. Debug (23 R443, R444) and SPDM (R441). -/
namespace Sys2Proof.Machine

/-! ### DEBUG_UNLOCK (R443) -/

/-- An entry into a power state is under way. -/
def State.inTransition (s : State) : Bool := s.power.state == .retention || (List.range 8).any fun p => (s.part p).frozen

/-- A nonce of 32 free bytes. -/
def freeNonce (n : Nat) : List Byte := (List.range 4).flatMap fun i => leBytes 8 (Config.freeWord (n + i)).toNat

/-- A token is accepted (Table 23.4): its layout, both signatures, the identity, the nonce and its scope.
DEDUCED, unsafe: log 79. -/
def State.tokenOk (s : State) (token : List Byte) : Bool :=
  let f (o n : Nat) : Nat := recField token o n
  let fresh := match s.trust.nonce with
    | some (n, until_) => n == (token.drop 16).take 32 && decide (s.time < until_)
    | none => false
  let signed := match s.trust.manifest with
    | some base => signedBy s.trust.flash base (token.take 64) ((token.drop 64).take 64) (token.drop 128)
    | none => false
  token.length == 64 + 64 + 3309 && f 0 8 / 2 ^ 9 == 0 && f 48 8 == 0 && f 56 8 == 0 && f 0 8 != 0 &&
    f 8 8 == Config.uniqueId.toNat && fresh && signed

/-- The debug state after a token; device-wide debug first zeroises the keys (R444). -/
def Trust.unlock (t : Trust) (scope : Nat) : Trust :=
  let u := t.unlocked ||| BitVec.ofNat 8 scope
  if scope.testBit 8 then { t.setDebug 2 u with keys := false } else t.setDebug (max t.debug 1) u

/-- A request of DEBUG_UNLOCK: an empty token asks for a nonce, and any other spends it.
DEDUCED, unsafe: log 79. -/
def State.debugToken (s : State) (token : List Byte) : State :=
  if token.isEmpty then
    let n := freeNonce s.free
    ({ s with free := s.free + 4, trust := { s.trust with nonce := some (n, s.time + 60000000) } } : State).answer (0 :: n)
  else
    let ok := s.tokenOk token && !s.inTransition
    let s := { s with trust := { s.trust with nonce := none } }
    if ok then
      let t := s.trust.extend 14 (Config.sha512 (token.take 64))
      ({ s with trust := t.unlock (recField token 0 8) } : State).answer [0]
    else s.answer [3]

/-- NONCE_EXPIRY: 60 s after the answer. -/
def execNonceExpiry (s : State) : Out :=
  match s.trust.nonce with
  | some (_, until_) => .next (if until_ ≤ s.time then { s with trust := { s.trust with nonce := none } } else s)
  | none => .next s

/-! ### DEBUG_ACCESS (R444) -/

/-- The debugger reaches a context: it is bound, its partition is unlocked or the debug is device-wide, and the
partition is powered. DEDUCED, unsafe: log 80. -/
def State.debuggable (s : State) (core slot : Nat) : Bool :=
  let c := s.ctx core slot
  c.bound && s.powered && !(s.part c.part).off && (s.trust.debug == 2 || s.trust.unlocked.getLsbD c.part)

/-- A cell of a tile and a quarter of a lane predicate, as a debugger writes them. -/
def Ctx.pokeCell (c : Ctx) (z row col : Nat) (v : BitVec 32) : Ctx :=
  let at_ (x : BitVec 32) : LineBits := x.setWidth 2048 <<< (32 * col)
  if z < c.tilesN ∧ row < 64 ∧ col < 64 then c.setTile z ((c.tile z).writeLine .row row (at_ v) (at_ (BitVec.allOnes 32))) else c
def Ctx.pokePred (c : Ctx) (p i : Nat) (v : Word) : Ctx :=
  let at_ (x : Word) : BitVec 256 := x.setWidth 256 <<< (64 * i)
  if p < 8 ∧ i < 4 then c.setPred p ((c.pred p &&& ~~~at_ (BitVec.allOnes 64)) ||| at_ v) else c

/-- What a debugger does to a context of a core, by slot and core cycle; its image is reached only while it stands halted with
nothing issued. DEDUCED, unsafe: log 80. -/
def Ctx.debug (c : Ctx) (core slot cycle : Nat) (op : DebugOp) : Ctx × Word :=
  let still := c.halted && c.quiet
  match op with
  | .halt => ({ c with halted := true }, 0)
  | .release => ({ c with halted := false }, 0)
  | .readReg y n => (c, if still then (c.seq.get y).reg (n % 32) else 0)
  | .writeReg y n v => (if still then c.setSeq y ((c.seq.get y).setReg (n % 32) v) else c, 0)
  | .readPc y => (c, if still then (c.seq.get y).pc.setWidth 64 else 0)
  | .writePc y v =>
    let q := { c.seq.get y with pc := v &&& ~~~7#57, ring := [] }
    (if still then c.setSeq y q else c, 0)
  | .readSpad a => (c, if still && c.allocated a then (c.spad.bytes.byte a).setWidth 64 else 0)
  | .writeSpad a v => (if still && c.allocated a then { c with spad := c.spad.store a [v] } else c, 0)
  | .readSr y n => (c, if still then (c.readSr core slot cycle y n).getD 0 else 0)
  | .writeSr n v => (if still && srWritable n then c.writeSr n v else c, 0)
  | .readCell z row col => (c, if still && decide (z < c.tilesN) then ((c.tile z).cell row col).setWidth 64 else 0)
  | .writeCell z row col v => (if still then c.pokeCell z row col v else c, 0)
  | .readPred p i => (c, if still then (c.pred p).extractLsb' (64 * i) 64 else 0)
  | .writePred p i v => (if still then c.pokePred p i v else c, 0)

/-- DEBUG_ACCESS (Table 23.5): it wakes the part from IDLE. -/
def execDebugAccess (core slot : Nat) (op : DebugOp) (s : State) : Out :=
  let s := s.wake
  if s.debuggable core slot then
    let r := (s.ctx core slot).debug core slot (s.core core).cycle op
    let s := s.setCtx core slot r.1
    .next { s with trust := { s.trust with debugAnswer := r.2 } }
  else .next s

/-! ### SPDM (R441). The order of requests is that of SPDM 1.3, PRESUMED; RETENTION answers none (Table 23.5). -/

/-- A response. PRESUMED, unsafe: log 78. -/
def State.spdm (s : State) (code : Nat) (fields : List (List Byte)) : State :=
  { s with trust := { s.trust with spdmAnswer := Config.spdmFormat code fields } }

/-- An error response. PRESUMED, unsafe: log 78. -/
def State.spdmError (s : State) : State := s.spdm 0x7F []

/-- A signature by the key of a slot. -/
def State.signed (s : State) (slot : Nat) (fields : List (List Byte)) : List Byte :=
  Config.sign slot (s.trust.meas.get 0 1) fields.flatten

/-- A slot that has been negotiated. -/
def Trust.slotOk (t : Trust) (slot : Nat) : Bool := t.spdm == 3 && decide (slot < 2) && t.algs.testBit slot

/-- The debug word, block 0xFD. -/
def Trust.debugWord (t : Trust) : Nat := t.debug + t.unlocked.toNat * 2 ^ 8

/-- A measurement block's value, where it exists. -/
def Trust.block (t : Trust) (n : Nat) : Option (List Byte) :=
  if 1 ≤ n ∧ n ≤ 16 then some (digestBytes (t.meas.get 0 (n - 1)))
  else if n = 0xFD then some (leBytes 8 t.debugWord)
  else none

/-- GET_VERSION: it starts a negotiation anew. -/
def execGetVersion (s : State) : Out :=
  if !s.powered then .next s.spdmError else
  .next (({ s with trust := { s.trust with spdm := 1, algs := 0, sessions := [] } } : State).spdm 0x04 [[0x13]])

/-- GET_CAPABILITIES. -/
def execGetCapabilities (s : State) : Out :=
  if !s.powered then .next s.spdmError else
  .next (if s.trust.spdm = 1 then ({ s with trust := { s.trust with spdm := 2 } } : State).spdm 0x61 [] else s.spdmError)

/-- NEGOTIATE_ALGORITHMS: SHA-512, and of the two signature algorithms those asked for. -/
def execNegotiateAlgorithms (slots : Nat) (s : State) : Out :=
  if !s.powered then .next s.spdmError else
  .next (if s.trust.spdm = 2 then
      ({ s with trust := { s.trust with spdm := 3, algs := slots % 4 } } : State).spdm 0x63 [leBytes 1 (slots % 4)]
    else s.spdmError)

/-- GET_DIGESTS: of the certificate chains of the negotiated slots. -/
def execGetDigests (s : State) : Out :=
  if !s.powered then .next s.spdmError else
  let ds := ([0, 1].filter s.trust.algs.testBit).map fun k => digestBytes (Config.sha512 (Config.certChain k))
  .next (if s.trust.spdm = 3 then s.spdm 0x01 ds else s.spdmError)

/-- GET_CERTIFICATE. -/
def execGetCertificate (chain : Nat) (s : State) : Out :=
  if !s.powered then .next s.spdmError else
  .next (if s.trust.slotOk chain then s.spdm 0x02 [Config.certChain chain] else s.spdmError)

/-- CHALLENGE: signed with the slot's key; an error once device-wide debug has zeroised the keys (R444). -/
def execChallenge (chain : Nat) (nonce : List Byte) (s : State) : Out :=
  if !s.powered then .next s.spdmError else
  let fs := [digestBytes (Config.sha512 (Config.certChain chain)), nonce]
  .next (if s.trust.slotOk chain && s.trust.keys then s.spdm 0x03 (fs ++ [s.signed chain fs]) else s.spdmError)

/-- GET_MEASUREMENTS: one block, their number (0), or all (0xFF), signed where asked. -/
def execGetMeasurements (chain block : Nat) (sign : Bool) (s : State) : Out :=
  if !s.powered then .next s.spdmError else
  let t := s.trust
  let all := (List.range 16).map fun n => digestBytes (t.meas.get 0 n)
  let fs : Option (List (List Byte)) :=
    if block = 0 then some [leBytes 1 17]
    else if block = 0xFF then some (all ++ [leBytes 8 t.debugWord])
    else (t.block block).map fun b => [b]
  match fs with
  | none => .next s.spdmError
  | some fs =>
    if t.spdm ≠ 3 then .next s.spdmError
    else if !sign then .next (s.spdm 0x60 fs)
    else .next (if t.slotOk chain && t.keys then s.spdm 0x60 (fs ++ [s.signed chain fs]) else s.spdmError)

/-- A session number that no session has. -/
def Trust.newSession (t : Trust) (k : Nat) : Nat :=
  (firstFrom (fun n => t.sessions.all fun e => e.1 != n % 2 ^ 32) k (t.sessions.length + 1)).getD k % 2 ^ 32

/-- KEY_EXCHANGE: a session opens, its number a free value. -/
def execKeyExchange (chain : Nat) (data : List Byte) (s : State) : Out :=
  if !s.powered then .next s.spdmError else
  if !(s.trust.slotOk chain && s.trust.keys) then .next s.spdmError
  else
    let n := s.trust.newSession (Config.freeNat s.free)
    let fs := [leBytes 4 n, data]
    let s := { s.fresh with trust := { s.trust with sessions := (n, false) :: s.trust.sessions } }
    .next (s.spdm 0x64 (fs ++ [s.signed chain fs]))

/-- FINISH: a session is established. -/
def execFinish (session : Nat) (s : State) : Out :=
  if !s.powered then .next s.spdmError else
  let l := s.trust.sessions.map fun e => if e.1 = session then (e.1, true) else e
  .next (if s.trust.sessions.contains (session, false) then
      ({ s with trust := { s.trust with sessions := l } } : State).spdm 0x65 []
    else s.spdmError)

/-- END_SESSION. -/
def execEndSession (session : Nat) (s : State) : Out :=
  if !s.powered then .next s.spdmError else
  let l := s.trust.sessions.filter fun e => e.1 != session
  .next (if s.trust.sessions.contains (session, true) then
      ({ s with trust := { s.trust with sessions := l } } : State).spdm 0x6C []
    else s.spdmError)

end Sys2Proof.Machine
end

