-- ==== Sys2Proof/Machine/Vesper.lean ====
section
/-! DEFINITION. Vesper's commands on the side-band and in PF0's mailbox (22 R429, R431, R432, 13 R338). -/
namespace Sys2Proof.Machine

/-! ### The lock (R432) -/

/-- A command of Vesper's image: its mask ROM refuses it (23 R433), and one that needs the lock has no effect from the
side that does not hold it. One from the side-band ends IDLE (13 Table 13.9). In OFF Vesper has no power (01 R18).
DEDUCED, unsafe: log 61. DESIGN CHOICE, safe: log 77. -/
def State.command (s : State) (side : Side) (lock : Bool) (k : State → State) : State :=
  if s.power.state = .off then s else
  let s := (s.heard side).answer []
  if !s.vesper.ready then s.answer [3]
  else if lock && s.vesper.lock != some side then s.answer [1]
  else k s

/-- LOCK_ACQUIRE. -/
def execLockAcquire (side : Side) (s : State) : Out :=
  if s.power.state = .off then .next s else
  let s := s.heard side
  .next (if s.vesper.lock = none ∨ s.vesper.lock = some side then
      ({ s with vesper := { s.vesper with lock := some side } } : State).answer [0]
    else s.answer [1])

/-- LOCK_RELEASE. -/
def execLockRelease (side : Side) (s : State) : Out :=
  if s.power.state = .off then .next s else
  let s := s.heard side
  .next (if s.vesper.lock = none ∨ s.vesper.lock = some side then
      ({ s with vesper := { s.vesper with lock := none } } : State).answer [0]
    else s.answer [1])

/-! ### GET_STATUS -/

/-- A power state as a number, in the order of 13 Table 13.9. -/
def PState.code : PState → Nat
  | .active => 0
  | .idle => 1
  | .retention => 3
  | .off => 4

/-- Partitions switched off. -/
def State.offMask (s : State) : Nat := (List.range 8).foldl (fun a p => if (s.part p).off then a + 2 ^ p else a) 0

/-- GET_STATUS: also from Vesper's mask ROM. -/
def execGetStatus (side : Side) (s : State) : Out :=
  if s.power.state = .off then .next s else
  let s := s.heard side
  .next (s.answer (0 :: Config.statusFormat s.power.state.code s.offMask s.links.hostUp (s.links.wz.get 0 0)
    (s.links.wz.get 0 1) s.trust.failed))

/-! ### PART_MOVE -/

/-- The command's effect: done, or refused. DEDUCED, unsafe: log 61. -/
def State.cmdMove (s : State) (v : Word) : State :=
  if s.move15.busy || !s.powered then s.answer [3]
  else
    let s := s.startMove (moveWord (moveKind v) (moveFrom v) (moveTo v) (moveMask v) (moveLane v))
    s.answer [if s.move15.status = 1 then 3 else 0]

/-- PART_MOVE. -/
def execPartMove (side : Side) (v : Word) (s : State) : Out := .next (s.command side true fun s => s.cmdMove v)

/-! ### STREAM_SET (R429) -/

/-- A display pipe is locked to its guest for as long as a stream of it is enabled. -/
def State.pipeLocked (s : State) (n : Nat) (x : Stream) : Bool :=
  x.enabled && x.display && (List.range 96).any fun k =>
    let y := s.stream k
    y.enabled && y.display && y.guest != x.guest && (y.port == x.port || k == n)

/-- A stream's writable words set. Its first period starts when it is enabled. -/
def State.setStreamWords (s : State) (n : Nat) (w0 w1 w2 w3 : Word) : State :=
  let x := s.stream n
  let y := { x with
    w0 := w0 &&& 0x000001FFFFFFFFFF, w1 := w1, w2 := w2 &&& 0x01FFFFFFFFFFFFFF, w3 := w3 &&& 0x0000003FFFFFFFFF }
  if s.pipeLocked n y then s
  else if y.enabled && !x.enabled then
    { s.setStream n { y with start := s.time, last := none } with ticks := s.ticks.put 0 (64 + n) 0 }
  else s.setStream n y

/-- The command's effect. -/
def State.cmdStream (s : State) (n : Nat) (v : List Byte) : State :=
  let w (i : Nat) : Word := BitVec.ofNat 64 (recField v (8 * i) 8)
  let y : Stream := { (default : Stream) with w0 := w 0 }
  let top : Nat := if y.display then 3 else 23
  if 96 ≤ n ∨ v.length ≠ 64 then s.answer [2]
  else if y.enabled && decide (top < y.port) then s.answer [2]
  else if s.pipeLocked n y then s.answer [3]
  else (s.setStreamWords n (w 0) (w 1) (w 2) (w 3)).answer [0]

/-- STREAM_SET. -/
def execStreamSet (side : Side) (stream : Nat) (v : List Byte) (s : State) : Out :=
  .next (s.command side true fun s => s.cmdStream stream v)

/-! ### POWER_SET (13 R331, R332) -/

/-- Vesper's vote on a rail; a vote above the fused clamp is stored as the clamp. -/
def State.voteRail (s : State) (r v : Nat) : State :=
  let before := s.railTarget r
  let s := s.setRail r { s.rail r with vote := min v (Config.railClamp r) }
  (s.afterVotes r before).chargeUp r

/-- The command's effect: rail votes, then clock requests. -/
def State.cmdPower (s : State) (votes : List (Nat × Nat)) (clocks : List (Nat × Word)) : State :=
  if (votes.any fun e => decide (4 ≤ e.1)) || clocks.any fun e => decide (8 ≤ e.1) then s.answer [2]
  else if !s.powered then s.answer [3]
  else
    let s := votes.foldl (fun s e => s.voteRail e.1 e.2) s
    let s := clocks.foldl (fun s e => s.requestClock e.1 (e.2.extractLsb' 0 7).toNat (e.2.extractLsb' 8 7).toNat) s
    s.answer [0]

/-- POWER_SET. -/
def execPowerSet (side : Side) (votes : List (Nat × Nat)) (clocks : List (Nat × Word)) (s : State) : Out :=
  .next (s.command side true fun s => s.cmdPower votes clocks)

/-! ### POWER_STATE (13 R338) -/

/-- The part reaches OFF by command: as by the removal of supply. -/
def State.toOff (s : State) : State :=
  match execSupplyRemoval s with
  | .next s => s
  | .fault _ => s
  | .refused _ => s

/-- The command's effect: targets 0 ACTIVE, 1 IDLE, 2 PARTITION_OFF, 3 RETENTION, 4 OFF. A state that needs contexts
to stop is answered once they have; its later occurrences carry it on. -/
def State.cmdPowerState (s : State) (target mask idle : Nat) : State :=
  let s := { s with power := { s.power with
    idleInterval := if idle = 0 then s.power.idleInterval else min 100000 (max 10 idle) } }
  match target with
  | 0 => ((List.range 8).foldl (fun s p => s.partitionOn p) s.leaveRetention).answer [0]
  | 1 => s.answer [0]
  | 2 => if s.powered then (match s.partitionsOff mask with | (s, true) => s.answer [0] | (s, false) => s) else s.answer [3]
  | 3 => match s.toRetention with | (s, true) => s.answer [0] | (s, false) => s
  | 4 => match (if s.powered then s.quiesce else (s, true)) with | (s, true) => s.toOff | (s, false) => s
  | _ => s.answer [2]

/-- POWER_STATE. -/
def execPowerState (side : Side) (target mask idle : Nat) (s : State) : Out :=
  .next (s.command side true fun s => s.cmdPowerState target mask idle)

/-! ### DEBUG_UNLOCK -/

/-- DEBUG_UNLOCK (23 R443). -/
def execDebugUnlock (side : Side) (token : List Byte) (s : State) : Out :=
  .next (s.command side false fun s => s.debugToken token)

/-! ### The mailbox (R431) -/

/-- A command of the mailbox. -/
def serve (r : Config.Request) (s : State) : Out :=
  match r with
  | .getStatus => execGetStatus .host s
  | .lockAcquire => execLockAcquire .host s
  | .lockRelease => execLockRelease .host s
  | .guestReset g => execGuestReset .host g s
  | .partMove v => execPartMove .host v s
  | .streamSet n v => execStreamSet .host n v s
  | .powerSet votes clocks => execPowerSet .host votes clocks s
  | .powerState t m i => execPowerState .host t m i s
  | .debugUnlock t => execDebugUnlock .host t s

/-- The answer at 0x80–0xFB, once go reads 0; while there is none, go reads 1. -/
def State.mboxAnswer (s : State) : State :=
  let a := s.vesper.answer
  let m := if a.isEmpty then s.vesper.mbox.write 0xFC [1] else (s.vesper.mbox.write 0x80 (a.take 124)).write 0xFC [0]
  { s with vesper := { s.vesper with mbox := m } }

/-- MBOX_GO: the request in the mailbox is served for the host. While a command has no answer yet, the row's next
occurrence carries it on. In OFF Vesper has no power (01 R18). DESIGN CHOICE, unsafe: log 59. -/
def execMboxGo (s : State) : Out :=
  if s.power.state = .off then .next s else
  let req := s.vesper.mbox.read 0 128
  let s := { s.answer [] with pf0Guest := match Config.mboxGuest req with | some g => g % 8 | none => s.pf0Guest }
  match Config.mboxDecode req with
  | none => .next (s.answer [2]).mboxAnswer
  | some r =>
    match serve r s with
    | .next s => .next s.mboxAnswer
    | .fault f => .fault f
    | .refused r => .refused r

end Sys2Proof.Machine
end

