-- ==== Sys2Proof/Machine/Windows.lean ====
section
/-! DEFINITION. The host's device-memory windows (22 R424, 07 R146), the links, and what arrives from the peer part
(22 R427, R428). -/
namespace Sys2Proof.Machine

/-! ### BAR2 (R424) -/

/-- Where a window access reaches. -/
inductive WinReach where
  | ok (s : State) (pts pa : Nat)
  | bad (s : State) (pts : Nat)
  | wait
  | gone

/-- PF0 reaches an address within the ranges that the manifest gives it. -/
def State.pf0Range (s : State) (pa n : Nat) : Bool :=
  s.trust.policy.any fun r => r.type == 1 && decide (r.base ≤ pa) && decide (pa + n ≤ r.base + r.size)

/-- The physical address of an access of a function at an offset. -/
def State.winReach (s : State) (fn pts off n : Nat) (acc : Access) : WinReach :=
  if fn = 0 then
    if !s.pf0Range off n then .bad s pts else if fitted off then .ok s pts off else .gone
  else
    let ia := ((s.fn fn).winBase.extractLsb' 0 57).toNat + off
    match s.stage2 (bazaarWalker (fn + 7) pts) ia acc with
    | (s, t, .fault _ _) => .bad s t
    | (s, t, .lazy) => if s.lazyFailed (fn + 7) (ia % 2 ^ 48) then .bad s t else .wait
    | (s, t, .ok pa kind _ _) =>
      let pa := s.dram.served pa
      if kind ≠ 0 then .bad s t else if fitted pa then .ok s t pa else .gone

/-- A window access fails: win_err is set, with the offset of the first failure since it was cleared (Table 22.2). -/
def HostFn.winFail (f : HostFn) (off : Nat) : HostFn :=
  if f.winErr then f else { f with winErr := true, errOff := off % 2 ^ 48 }

/-- What a run of accesses comes to: the bytes read, none where one failed. -/
inductive WinOut where
  | ok (s : State) (bytes : Option (List Byte))
  | wait
  | gone

/-- A function's program time set. -/
def State.setFnPts (s : State) (fn t : Nat) : State := s.setFn fn { s.fn fn with pts := t }

/-- Reads of at most 8 bytes in ascending order; the first that fails aborts the read. DEDUCED, unsafe: log 75. -/
def State.winRead (s : State) (fn : Nat) : List (Nat × List Byte) → WinOut
  | [] => .ok s (some [])
  | (off, b) :: r =>
    match s.winReach fn (s.fn fn).pts off b.length .read with
    | .wait => .wait
    | .gone => .gone
    | .bad s t => .ok (s.setFn fn ({ s.fn fn with pts := t }.winFail off)) none
    | .ok s t pa =>
      let (d, t) := (s.home (s.partOf (s.guestOfFn fn)) pa).homeLoad t (s.leaseLen (s.guestOfFn fn) pa) pa
      match (({ s with dram := d } : State).setFnPts fn t).winRead fn r with
      | .ok s (some bs) => .ok s (some (d.bytes.read pa b.length ++ bs))
      | .ok s none => .ok s none
      | .wait => .wait
      | .gone => .gone

/-- Writes of at most 8 bytes in ascending order; one that fails is dropped. DEDUCED, unsafe: log 75. -/
def State.winWrite (s : State) (fn : Nat) : List (Nat × List Byte) → WinOut
  | [] => .ok s (some [])
  | (off, b) :: r =>
    match s.winReach fn (s.fn fn).pts off b.length .write with
    | .wait => .wait
    | .gone => .gone
    | .bad s t => (s.setFn fn ({ s.fn fn with pts := t }.winFail off)).winWrite fn r
    | .ok s t pa =>
      if s.locked pa then .wait
      else
        let (s, t) := s.writeT (s.partOf (s.guestOfFn fn)) t pa b
        (s.setFnPts fn t).winWrite fn r

/-- A window is served: its function exists, the access lies in the largest BAR2, the link is up, and the part is powered.
DEDUCED, unsafe: log 75. -/
def State.winServed (s : State) (fn off n : Nat) : Bool :=
  decide (fn ≤ 192) && decide (off + n ≤ 2 ^ 36) && s.links.hostUp && s.powered

/-- WINDOW_READ: the bytes of its completion; none for a Completer Abort. A window access ends IDLE. -/
def execWindowRead (fn off size : Nat) (s : State) : Out :=
  if !s.winServed fn off size then .next s
  else match s.wake.winRead fn (pieces 8 off (List.replicate size 0)) with
    | .ok s bs => .next { s with windowRead := bs.getD [] }
    | .wait => .next s
    | .gone => .fault .noDeviceMemory

/-- WINDOW_WRITE. -/
def execWindowWrite (fn off : Nat) (bytes : List Byte) (s : State) : Out :=
  if !s.winServed fn off bytes.length then .next s
  else match s.wake.winWrite fn (pieces 8 off bytes) with
    | .ok s _ => .next s
    | .wait => .next s
    | .gone => .fault .noDeviceMemory

/-! ### The host link (R421, R432) -/

/-- Commands of every context that satisfy a test end with a kind. DEDUCED, unsafe: log 93. -/
def State.endJobs (s : State) (p : Nat → Nat → Job → Bool) (kind : Nat) : State :=
  let one (k : Nat) (j : Job) : Job := if j.st == .running && p (k / 4) (k % 4) j then { j with st := .over, kind := kind } else j
  let q (k : Nat) (e : EngQueue) : EngQueue := { e with jobs := e.jobs.map (one k) }
  { s with ctxs := s.ctxs.mapAll Ctx.empty fun k c => { c with q0 := q k c.q0, q1 := q k c.q1 } }

/-- A command with an operand of a memory kind. -/
def Job.touches (j : Job) (kind : Nat) : Bool := (j.cmd.sk == kind && j.cmd.op != 5) || j.cmd.dk == kind

/-- HOST_LINK_DOWN: the host's hold of the lock ends, and elements in flight end with LINK (08 R187). -/
def execHostLinkDown (s : State) : Out :=
  let s := { s with
    links := { s.links with hostUp := false, hostWidth := 0, hostRate := 0 }
    vesper := { s.vesper with lock := if s.vesper.lock = some Side.host then none else s.vesper.lock } }
  .next (s.endJobs (fun _ _ j => j.touches 3) 7)

/-- HOST_LINK_UP: x16, x8, x4, x2 or x1. -/
def execHostLinkUp (width rate : Nat) (s : State) : Out :=
  .next (if [1, 2, 4, 8, 16].contains width then { s with links := { s.links with hostUp := true, hostWidth := width, hostRate := rate } }
    else s)

/-! ### Walzel links (R427, R428, 15 Table 15.1c) -/

/-- WZ.STAT of a link replaced. -/
def State.setWz (s : State) (k : Nat) (w : Word) : State := { s with links := { s.links with wz := s.links.wz.put 0 k w } }

/-- WALZEL_LINK_UP. -/
def execWalzelLinkUp (link width : Nat) (s : State) : Out :=
  if 2 ≤ link ∨ width = 0 ∨ 8 < width then .next s
  else .next (s.setWz link (under 0x1F (s.links.wz.get 0 link) (BitVec.ofNat 64 (1 + width * 2))))

/-- WALZEL_LINK_DOWN: elements in flight on the link end with LINK; which link an element of a running command is on is
free while another link is up. -/
def execWalzelLinkDown (link : Nat) (s : State) : Out :=
  if 2 ≤ link ∨ (s.links.wz.get 0 link).getLsbD 0 = false then .next s else
  let s := s.setWz link (s.links.wz.get 0 link &&& ~~~0x1F#64)
  let up := s.peerUp
  let n := s.free
  .next (s.fresh.endJobs (fun _ _ j => j.touches 4 && (!up || Config.freeBit (n + j.uid))) 7)

/-- CRC_FAILURE: a flit is replayed and both counts rise. -/
def execCrcFailure (link : Nat) (s : State) : Out :=
  let w := s.links.wz.get 0 link
  if 2 ≤ link ∨ w.getLsbD 0 = false then .next s
  else .next (s.setWz link (under 0x0000FFFFFFFF0000 w (BitVec.ofNat 64 (saturate w 16 16 1 * 2 ^ 16 + saturate w 32 16 1 * 2 ^ 32))))

/-! ### What arrives from the peer (R428) -/

/-- A request of the peer is served: a link is up, the part is powered, and memory is fitted there. -/
def State.peerServed (s : State) (a n : Nat) : Bool := s.peerUp && s.powered && fitted a && fitted (a + n - 1)

/-- PEER_WRITE: an engine write of the local T (07 R147). -/
def execPeerWrite (addr : Nat) (bytes : List Byte) (s : State) : Out :=
  let l := pieces 128 addr bytes
  if !s.peerServed addr bytes.length || l.any fun e => s.locked e.1 then .next s
  else .next (s.writeLines (s.partOfPa addr) 0 l).1

/-- PEER_READ: loads of the local T; the answer stands in `windowRead`. -/
def execPeerRead (addr size : Nat) (s : State) : Out :=
  if !s.peerServed addr size then .next s
  else
    let d := (pieces 128 addr (List.replicate size 0)).foldl (fun (a : Dram × Nat) e => a.1.homeLoad a.2 0 e.1) (s.dram, 0)
    .next { s with dram := d.1, windowRead := s.dram.bytes.read addr size }

/-- PEER_ATOMIC: at the home bank unit, in the local T; without an operation it is a CAS. The old value stands in
`windowRead`. -/
def execPeerAtomic (addr : Nat) (op : Option AmoOp) (width : BitVec 2) (v expect : Word) (s : State) : Out :=
  let n := widthBytes width
  let fp := match op with | some o => o.isFp && width != 2 | none => false
  if !s.peerServed addr n || addr % n != 0 || fp || s.locked addr then .next s
  else
    let bits := 8 * n
    let old := s.dram.bytes.num addr n
    let y := v.toNat % 2 ^ bits
    let new : Option Nat := match op with
      | some o => some (amoNew o false bits old y)
      | none => if old = expect.toNat % 2 ^ bits then some y else none
    let s := { s with windowRead := leBytes n old }
    match new with
    | none => .next { s with dram := (s.dram.homeLoad 0 0 addr).1 }
    | some x => .next (({ s with dram := (s.dram.write 0 addr (leBytes n x) [] true).1 } : State).noteCounters)

end Sys2Proof.Machine
end

