-- ==== Sys2Proof/Machine/Registers.lean ====
section
/-! DEFINITION. Writes and reads of control registers by address (00 R5 and R445, 15 Tables 15.1 and 15.1b, 22 Table
22.1). A register that has a row of its own is written by that row's meaning. -/
namespace Sys2Proof.Machine

/-- A register's word after an access, its RW bits alone. -/
def rw (mask old : Word) (off size : Nat) (v : Word) : Word :=
  match regMerge old off size v with
  | some w => under mask old w
  | none => old

/-- What an access writes of a word whose other half reads zero: the action bits that it carries. -/
def carried (off size : Nat) (v : Word) : Word := (regMerge 0 off size v).getD 0

/-! ### Kiosk, Bazaar and the fabric -/

/-- Words of WAYS[g], 4 bytes each (R392); an access of 8 bytes writes two, the lower first. DEDUCED, unsafe: log 58. -/
def State.writeWays (s : State) (g off size : Nat) (v : Word) : State :=
  let one (s : State) (l : Nat) (w : BitVec 32) : State :=
    if s.waysOk g l w then s.setGuest g { s.guest g with ways := (s.guest g).ways.put 0 l w } else s
  if off % size ≠ 0 then s
  else if size = 4 then one s (off / 4) (v.setWidth 32)
  else if size = 8 then one (one s (off / 4) (v.setWidth 32)) (off / 4 + 1) (v.extractLsb' 32 32)
  else s

/-- An initiator bucket: only its depth is written (Table 15.11). DESIGN CHOICE, safe: log 65. -/
def State.writeBucket (s : State) (k off size : Nat) (v : Word) : State :=
  let b := s.buckets.get default k
  let w := rw 0xFFFF0000 (BitVec.ofNat 64 (b.depth * 2 ^ 16)) off size v
  let d := (w.extractLsb' 16 16).toNat
  { s with buckets := s.buckets.put default k { b with depth := d, level := min b.level d } }

/-- A controller's bucket of a partition: its rate and depth (Table 15.11, R402). -/
def State.writeCtrlBucket (s : State) (m p off size : Nat) (v : Word) : State :=
  let k := m * 8 + p
  let b := s.ctrlBuckets.get default k
  let w := rw 0xFFFFFFFF (BitVec.ofNat 64 (b.rate + b.depth * 2 ^ 16)) off size v
  let r := (w.extractLsb' 0 16).toNat
  let d := (w.extractLsb' 16 16).toNat
  let c := s.ctrls.get default m
  let b : Bucket := if r = 0 ∧ d = 0 then default else ⟨r, d, min b.level d, p, true⟩
  { s with
    ctrlBuckets := s.ctrlBuckets.put default k b
    ctrls := s.ctrls.put default m { c with rates := c.rates.put 0 p r } }

/-- LANE.OWN of a loop: a reserved owner leaves its field (Table 15.1). -/
def State.writeLane (s : State) (l off size : Nat) (v : Word) : State :=
  let old := s.lanes.get 0 l
  let w := rw 0xFFFF old off size v
  let bad (k : Nat) : Bool := let o := (w.extractLsb' (4 * k) 4).toNat; decide (8 ≤ o ∧ o ≤ 14)
  let keep := (List.range 4).foldl (fun (a : Word) k => if bad k then under (0xF#64 <<< (4 * k)) a old else a) w
  { s with lanes := s.lanes.put 0 l keep }

/-- FW.ANSWER (R390). -/
def writeAnswer (off size : Nat) (v : Word) (s : State) : Out :=
  let w := carried off size v
  match regHalves off size with
  | some (true, _) =>
    let t := (w.extractLsb' 0 16).toNat
    if w.extractLsb' 16 2 = 0 then execFwAnswerResume t s
    else if w.extractLsb' 16 2 = 1 then execFwAnswerDiscard t s
    else if w.extractLsb' 16 2 = 2 then execFwAnswerResult t s
    else .next s
  | some (false, _) | none => .next s

/-- EVQ.HEAD, a view of the writing scheduler core (R389). -/
def State.writeEvHead (s : State) (by_ : Writer) (off size : Nat) (v : Word) : State :=
  match by_ with
  | .sched n =>
    let c := s.fwCore n
    s.setFw n { c with evHead := (rw 0x3F (BitVec.ofNat 64 c.evHead) off size v).toNat }
  | .vesper | .host _ => s

/-- PART.MOVE, which Vesper alone writes: operands, and go (R399). What happens to a write of the operands while busy reads
1 the spec does not say; the model drops it. DESIGN CHOICE, unsafe: log 104. -/
def State.writeMove (s : State) (by_ : Writer) (off size : Nat) (v : Word) : State :=
  if by_ ≠ .vesper ∨ s.move15.busy = true then s
  else
    let w := rw 0x0003FFFFFFFF00FF s.move15.word off size v
    if (carried off size v).getLsbD 8 then s.startMove w else { s with move15 := { s.move15 with word := w } }

/-! ### Power controller (13 Tables 13.6 to 13.8a) -/

/-- PWR.CLK, PWR.GOV and PWR.RAIL of a cluster. -/
def writeCluster (n reg off size : Nat) (v : Word) (s : State) : Out :=
  let c := s.cluster n
  let go := carried off size v
  if reg = 0 then
    let w := rw 0x7F7F (BitVec.ofNat 64 (c.fReq + c.vReq * 2 ^ 8)) off size v
    let s := s.setCluster n { c with fReq := (w.extractLsb' 0 7).toNat, vReq := (w.extractLsb' 8 7).toNat }
    if go.getLsbD 15 then execClockRequest n w s else .next s
  else if reg = 2 then .next (s.setCluster n { c with gov := rw 0x000003FFFFFFFFFF c.gov off size v })
  else if reg = 3 then
    let w := rw 0x3 (BitVec.ofNat 64 c.railReq) off size v
    let s := s.setCluster n { c with railReq := w.toNat }
    if go.getLsbD 2 then execRailMove n w s else .next s
  else .next s

/-! ### The control registers (Table 15.1) -/

/-- The control registers, each with where it stands in its block. -/
inductive Reg where
  | next | route
  | ring (n off : Nat)
  | guest (g off : Nat)
  | ways (g off : Nat)
  | part (p off : Nat)
  | queue (q : Nat)
  | bucket (k : Nat)
  | ctrlBucket (m p : Nat)
  | answer | result | evHead | evTail | wayChg | partMove
  | lane (l : Nat)
  | ecc (core : Nat)
  | inv | trip
  | cluster (n reg : Nat)
  | vfloor (n off : Nat)
  /-- An offset of a core's control block or of the translation control block that names no register. -/
  | zero
  deriving DecidableEq, Repr, Inhabited

/-- The register at an address; none outside the map. DEDUCED, unsafe: log 58. -/
def regAt (a : Nat) : Option Reg :=
  let within (base size : Nat) : Bool := decide (base ≤ a ∧ a < base + size)
  if within 0x10000000 8 then some .next
  else if within 0x10000008 8 then some .route
  else if within 0x10010000 (32 * 1600) then some (.ring ((a - 0x10010000) / 32) (a % 32))
  else if within 0x11000000 (64 * 200) then some (.guest ((a - 0x11000000) / 64) (a % 64))
  else if within 0x11010000 (128 * 200) then some (.ways ((a - 0x11010000) / 128) (a % 128))
  else if within 0x11020000 (64 * 8) then some (.part ((a - 0x11020000) / 64) (a % 64))
  else if within 0x11030000 (8 * 4096) then some (.queue ((a - 0x11030000) / 8))
  else if within 0x11040000 0x1000 then some (.bucket ((a - 0x11040000) / 8))
  else if within 0x11041000 (64 * 16) then some (.ctrlBucket ((a - 0x11041000) / 64) (a % 64 / 8))
  else if within 0x11050000 8 then some .answer
  else if within 0x11050008 8 then some .result
  else if within 0x11050010 8 then some .evHead
  else if within 0x11050018 8 then some .evTail
  else if within 0x11050020 8 then some .wayChg
  else if within 0x11050028 8 then some .partMove
  else if within 0x11051000 (8 * 30) then some (.lane ((a - 0x11051000) / 8))
  else if within 0x12000000 (0x1000 * 64) then
    some (if a % 0x1000 / 8 = 0x400 / 8 then .ecc ((a - 0x12000000) / 0x1000) else .zero)
  else if within 0x12080000 0x1000 then some (if a / 8 = 0x12080200 / 8 then .inv else .zero)
  else if within 0x12090100 8 then some .trip
  else if within 0x12091000 (0x40 * 8) && decide (a % 0x40 < 0x20) then
    some (.cluster ((a - 0x12091000) / 0x40) (a % 0x40 / 8))
  else if within 0x12092000 (0x40 * 8) && decide (a % 0x40 < 57) then
    some (.vfloor ((a - 0x12092000) / 0x40) (a % 0x40))
  else none

/-- A write of a control register by a scheduler core or Vesper: `a` is the address, of an access that is performed. -/
def writeReg (by_ : Writer) (r : Reg) (a size : Nat) (v : Word) (s : State) : Out :=
  let o := a % 8
  let go := carried o size v
  match r with
  | .route => .next { s with route := rw 0x0003FFFFFFFFFFFF s.route o size v }
  | .ring n off => execRingConfigWrite by_ n off size v s
  | .guest g off => execContractWrite by_ g off size v s
  | .ways g off => .next (s.writeWays g off size v)
  | .part p off => execPartitionConfigWrite p off ⟨by_, size⟩ v s
  | .queue q => execQueueConfigWrite q o ⟨by_, size⟩ v s
  | .bucket k => .next (s.writeBucket k o size v)
  | .ctrlBucket m p => .next (s.writeCtrlBucket m p o size v)
  | .answer => writeAnswer o size v s
  | .result => .next { s with fwResult := rw (BitVec.allOnes 64) s.fwResult o size v }
  | .evHead => .next (s.writeEvHead by_ o size v)
  | .wayChg =>
    let s := { s with wayChg := rw 0xFF s.wayChg o size v }
    if go.getLsbD 8 then execWayChg (s.wayChg.extractLsb' 0 8).toNat s else .next s
  | .partMove => .next (s.writeMove by_ o size v)
  | .lane l => .next (s.writeLane l o size v)
  | .ecc n => .next (s.setCore n { s.core n with ecc := rw 0xFFFFFFFFFF (s.core n).ecc o size v })
  | .inv =>
    let w := (regMerge (s.xlat.inv &&& ~~~0x3000#64) o size v).getD 0
    .next (if (regHalves o size).isSome then s.writeInv w else s)
  | .trip => if go.getLsbD 1 then execTripResume by_ s else .next s
  | .cluster n k => writeCluster n k o size v s
  | .next | .evTail | .vfloor _ _ | .zero => .next s

/-! ### Reads (00 R5, R445) -/

/-- A register's word as an access of a size reads it: whole, or the half that it holds; none where it is not performed. -/
def regPart (w : Word) (off size : Nat) : Option Word :=
  match regHalves off size with
  | some (true, true) => some w
  | some (true, false) => some (w &&& 0xFFFFFFFF)
  | some (false, true) => some (w >>> 32)
  | some (false, false) | none => none

/-- A word of KIOSK.RING (Table 15.2). -/
def KRing.word (r : KRing) (off : Nat) : Word :=
  if off < 8 then r.base
  else if off < 16 then r.ctlWord
  else if off < 24 then
    let at_ := r.bound.getD (0, 0)
    BitVec.ofNat 64 (r.prio % 8 + r.age % 64 * 2 ^ 3 + bitNum r.pending * 2 ^ 9 + bitNum r.bound.isSome * 2 ^ 10 +
      at_.1 % 4 * 2 ^ 11 + at_.2 % 16 * 2 ^ 13)
  else 0

/-- A word of PART[p] (Table 15.10). -/
def PartSt.word (p : PartSt) (off : Nat) : Word :=
  if off < 8 then (p.w0 &&& 0xFFFFFFFF) ||| (p.frames.setWidth 64 <<< 32)
  else if off < 40 then
    BitVec.ofNat 64 ((List.range 4).foldl (fun a i => a + (p.lens.get 0 (4 * (off / 8 - 1) + i)).toNat * 2 ^ (16 * i)) 0)
  else if off < 48 then p.floor
  else if off < 56 then p.pairs.setWidth 64 ||| (p.chans.setWidth 64 <<< 32)
  else p.slices.setWidth 64

/-- A bucket register (Table 15.11). -/
def Bucket.word (b : Bucket) : Word :=
  BitVec.ofNat 64 (b.rate % 2 ^ 16 + b.depth % 2 ^ 16 * 2 ^ 16 + b.level % 2 ^ 16 * 2 ^ 32 + b.owner % 2 ^ 8 * 2 ^ 48 +
    bitNum b.valid * 2 ^ 63)

/-- PWR.CLK, PWR.STALL, PWR.GOV or PWR.RAIL of a cluster (13 Tables 13.6 to 13.7). -/
def State.clusterWord (s : State) (n reg : Nat) : Word :=
  let c := s.cluster n
  match reg with
  | 0 => s.clkWord n
  | 1 => c.stall
  | 2 => c.gov
  | _ => BitVec.ofNat 64 (c.railReq % 4 + c.railStatus % 4 * 2 ^ 4)

/-- PWR.TRIP (13 Table 13.8a). -/
def Trip.word (t : Trip) : Word :=
  BitVec.ofNat 64 (bitNum t.tripped + t.cluster % 8 * 2 ^ 2 + t.peak % 2 ^ 8 * 2 ^ 8 + t.count % 2 ^ 32 * 2 ^ 16)

/-- PART.MOVE (Table 15.13). -/
def Move15.reads (m : Move15) : Word :=
  (m.word &&& 0x0003FFFFFFFF00FF) ||| BitVec.ofNat 64 (bitNum m.busy * 2 ^ 9 + m.step % 16 * 2 ^ 10 + m.status % 4 * 2 ^ 14)

/-- The word of a control register as a scheduler core or Vesper reads it: WO and RSV fields read zero. What is a view of a
scheduler core reads zero to Vesper, but for KIOSK.NEXT (R373). DEDUCED, unsafe: log 58. -/
def State.regWord (s : State) (by_ : Writer) (r : Reg) : Word :=
  let mine (f : FwCore → Nat) : Word := match by_ with
    | .sched n => BitVec.ofNat 64 (f (s.fwCore n))
    | .vesper | .host _ => 0
  match r with
  | .next => match by_ with
    | .sched n => s.kioskNext n
    | .vesper | .host _ => 1#64 <<< 63
  | .route => s.route
  | .ring n off => (s.aged.ring n).word off
  | .guest g off =>
    let x := s.guest g
    if off < 8 then x.w0 else if off < 16 then x.w1 else if off < 24 then x.s1 else if off < 32 then x.s2 else 0
  | .ways g off =>
    let w (l : Nat) : Word := ((s.guest g).ways.get 0 l).setWidth 64
    w (off / 8 * 2) ||| (w (off / 8 * 2 + 1) <<< 32)
  | .part p off => (s.part p).word off
  | .queue q => (s.queue q).word
  | .bucket k => (s.buckets.get default k).word
  | .ctrlBucket m p => (s.ctrlBuckets.get default (m * 8 + p)).word
  | .result => s.fwResult
  | .evHead => mine (·.evHead)
  | .evTail => mine (·.evTail)
  | .wayChg => s.wayChg
  | .partMove => s.move15.reads
  | .lane l => s.lanes.get 0 l
  | .ecc n => (s.core n).ecc
  | .inv => s.xlat.inv
  | .trip => s.power.trip.word
  | .cluster n k => s.clusterWord n k
  | .vfloor n off =>
    BitVec.ofNat 64 ((List.range 8).foldl (fun a i =>
      let k := off / 8 * 8 + i
      if k < 57 then a + Config.vfloor n k % 256 * 2 ^ (8 * i) else a) 0)
  | .answer | .zero => 0

/-- What an access reads of a control register, and what the read does: PWR.STALL's fresh is cleared by a read of its half.
The floors are bytes, which accesses of 1 and 2 bytes reach too (13 R333). -/
def State.readReg (s : State) (by_ : Writer) (r : Reg) (a size : Nat) : Option (State × Word) :=
  let w := s.regWord by_ r
  match r, regPart w (a % 8) size with
  | .vfloor _ _, none => if size = 1 ∨ size = 2 then some (s, BitVec.ofNat 64 (w.toNat / 2 ^ (8 * (a % 8)) % 2 ^ (8 * size))) else none
  | .cluster n 1, some v =>
    let clears := match regHalves (a % 8) size with
      | some (_, hi) => hi
      | none => false
    let c := s.cluster n
    some (if clears then s.setCluster n { c with stall := c.stall &&& ~~~(1#64 <<< 63) } else s, v)
  | _, v => v.map fun x => (s, x)

/-! ### Vesper's own registers (Tables 15.1b and 15.1c) -/

/-- WZ.STAT: each 1 written to a count clears its bit, so that all ones clear the count (00 Table 0.1). -/
def State.writeWz (s : State) (k off size : Nat) (v : Word) : State :=
  s.setWz k (s.links.wz.get 0 k &&& ~~~(carried off size v &&& 0x0000FFFFFFFF0000))

/-- A peer window that both parts' policy sections list, or one of size 0. -/
def State.peerOk (s : State) (p base size : Nat) : Bool :=
  size == 0 || (Config.peerLists p base size &&
    s.trust.policy.any fun r => r.type == 2 && r.part == p && r.base == base && r.size == size)

/-- PEERWIN[p]: a write that names a window not listed is ignored. -/
def State.writePeer (s : State) (p off size : Nat) (v : Word) : State :=
  let m : Word := ~~~0xFFF#64
  let b := s.peerBase.get 0 p
  let n := s.peerSize.get 0 p
  let b' := if off < 8 then rw m b off size v else b
  let n' := if off < 8 then n else rw m n off size v
  if s.peerOk p b'.toNat n'.toNat then
    { s with peerBase := s.peerBase.put 0 p b', peerSize := s.peerSize.put 0 p n' }
  else s

/-- STREAM[n] (22 Table 22.4). -/
def State.writeStream (s : State) (n off size : Nat) (v : Word) : State :=
  let x := s.stream n
  let f (k : Nat) (w : Word) : Word := if off / 8 = k then rw (BitVec.allOnes 64) w off size v else w
  s.setStreamWords n (f 0 x.w0) (f 1 x.w1) (f 2 x.w2) (f 3 x.w3)

/-- The registers that Vesper reaches. -/
inductive VReg where
  | control (r : Reg)
  | wz (k : Nat)
  | peer (p off : Nat)
  | sensor (n : Nat)
  | stream (n off : Nat)
  deriving DecidableEq, Repr, Inhabited

/-- The register at an address of Vesper's map (Table 15.1b); none outside it. -/
def vregAt (a : Nat) : Option VReg :=
  let within (base size : Nat) : Bool := decide (base ≤ a ∧ a < base + size)
  if within 0x10000000 0x10000000 then (regAt a).map .control
  else if within 0x20000000 16 then some (.wz ((a - 0x20000000) / 8))
  else if within 0x20000100 (16 * 8) then some (.peer ((a - 0x20000100) / 16) (a % 16))
  else if within 0x30000000 (8 * 8) then some (.sensor ((a - 0x30000000) / 8))
  else if within 0x40000000 (64 * 96) then some (.stream ((a - 0x40000000) / 64) (a % 64))
  else none

/-- A write by Vesper. -/
def writeVReg (r : VReg) (a size : Nat) (v : Word) (s : State) : Out :=
  match r with
  | .control r => writeReg .vesper r a size v s
  | .wz k => .next (s.writeWz k (a % 8) size v)
  | .peer p off => .next (s.writePeer p off size v)
  | .sensor _ => .next s
  | .stream n off => .next (s.writeStream n off size v)

/-- A word of STREAM[n] (22 Table 22.4). -/
def Stream.word (x : Stream) (off : Nat) : Word :=
  match off / 8 with
  | 0 => x.w0
  | 1 => x.w1
  | 2 => x.w2
  | 3 => x.w3
  | 4 => BitVec.ofNat 64 (x.frames % 2 ^ 32 + x.misses % 2 ^ 32 * 2 ^ 32)
  | _ => 0

/-- A read by Vesper. -/
def State.readVReg (s : State) (r : VReg) (a size : Nat) : Option (State × Word) :=
  let plain (w : Word) : Option (State × Word) := (regPart w (a % 8) size).map fun x => (s, x)
  match r with
  | .control r => s.readReg .vesper r a size
  | .wz k => plain (s.links.wz.get 0 k)
  | .peer p off => plain (if off < 8 then s.peerBase.get 0 p else s.peerSize.get 0 p)
  | .sensor n => plain (BitVec.ofNat 64 ((s.cluster n).temp % 256))
  | .stream n off => plain ((s.stream n).word off)

/-! ### BAR0 (22 Tables 22.1 and 22.2) -/

/-- FN.STATUS: done and win_err are cleared by ones. -/
def HostFn.clear (f : HostFn) (w : Word) : HostFn :=
  { f with done := f.done && !w.getLsbD 1, winErr := f.winErr && !w.getLsbD 2 }

/-- MBOX: the request bytes, and go. -/
def writeMbox (o size : Nat) (v : Word) (s : State) : Out :=
  let bs := leBytes size v.toNat
  let m := (List.range size).foldl (fun (m : Memory) i => if o + i < 0x80 then m.write (o + i) [bs.getD i 0] else m) s.vesper.mbox
  let s := { s with vesper := { s.vesper with mbox := m } }
  let go := decide (o ≤ 0xFC ∧ 0xFC < o + size) && (bs.getD (0xFC - o) 0).getLsbD 0
  if go then execMboxGo s else .next s

/-- A write of a function's driver at an offset of BAR0; while a reset of the function runs, only FN.STATUS is
written (R426). -/
def writeBar0 (fn a size : Nat) (v : Word) (s : State) : Out :=
  let f := s.fn fn
  let g := s.guestOfFn fn
  let o := a % 8
  let w := carried o size v
  let low := match regHalves o size with | some (true, _) => true | _ => false
  let c := s.cq g
  if a / 8 = 0x1400 / 8 then .next (s.setFn fn (f.clear w))
  else if f.busy then .next s
  else if a < 0x40 then (if low then execKick (8 * g + a / 8) (w.extractLsb' 0 16).toNat s else .next s)
  else if 0x1000 ≤ a ∧ a < 0x1080 then execRingConfigWrite (.host fn) (8 * g + (a - 0x1000) / 16) (a % 16) size v s
  else if a / 8 = 0x1100 / 8 then .next (s.setCq g { c with base := rw (~~~0x1F#64) c.base o size v })
  else if a / 8 = 0x1108 / 8 then .next (s.setCq g { c with ctl := (rw 0x1F (BitVec.ofNat 64 c.ctl) o size v).toNat })
  else if a / 8 = 0x1110 / 8 then (if low then execCqHeadWrite fn (w.extractLsb' 0 16).toNat s else .next s)
  else if a / 8 = 0x1118 / 8 then .next (s.setFn fn { f with int := rw 0x3F f.int o size v })
  else if a / 8 = 0x1200 / 8 then .next (s.setFn fn { f with winBase := rw 0x01FFFFFFFFFF0000 f.winBase o size v })
  else if 0x1300 ≤ a ∧ a < 0x1340 then
    let k := (a - 0x1300) / 16
    let m : Word := ~~~0xFFF#64
    if a % 16 < 8 then .next (s.setFn fn { f with outBase := f.outBase.put 0 k (rw m (f.outBase.get 0 k) o size v) })
    else .next (s.setFn fn { f with outSize := f.outSize.put 0 k (rw m (f.outSize.get 0 k) o size v) })
  else if a / 8 = 0x1500 / 8 ∧ fn = 0 then
    let vf := (w.extractLsb' 0 8).toNat
    if w.getLsbD 8 && !s.resets.contains (vf + 7) then execVfReset vf s else .next s
  else if 0x2000 ≤ a ∧ a < 0x2100 ∧ fn = 0 then writeMbox (a - 0x2000) size v s
  else .next s

/-- A word of BAR0 as its driver reads it (22 Tables 22.1 and 22.2): WO registers and offsets that are not listed read
zero. -/
def State.barWord (s : State) (fn a : Nat) : Word :=
  let f := s.fn fn
  let c := s.cq (s.guestOfFn fn)
  if 0x1000 ≤ a ∧ a < 0x1080 then
    let r := s.ring (8 * s.guestOfFn fn + (a - 0x1000) / 16)
    if a % 16 < 8 then r.base else r.ctlWord &&& 0x0FFF0000FFFF003F
  else if a / 8 = 0x1100 / 8 then c.base
  else if a / 8 = 0x1108 / 8 then BitVec.ofNat 64 (c.ctl % 32 + c.tail % 2 ^ 16 * 2 ^ 16)
  else if a / 8 = 0x1110 / 8 then BitVec.ofNat 64 (c.head % 2 ^ 16)
  else if a / 8 = 0x1118 / 8 then f.int
  else if a / 8 = 0x1200 / 8 then f.winBase
  else if 0x1300 ≤ a ∧ a < 0x1340 then
    (if a % 16 < 8 then f.outBase else f.outSize).get 0 ((a - 0x1300) / 16)
  else if a / 8 = 0x1400 / 8 then
    BitVec.ofNat 64 (bitNum f.busy + bitNum f.done * 2 + bitNum f.winErr * 4 + f.errOff % 2 ^ 48 * 2 ^ 8)
  else if 0x2000 ≤ a ∧ a < 0x2100 ∧ fn = 0 then BitVec.ofNat 64 (s.vesper.mbox.num (a - 0x2000 - a % 8) 8)
  else 0

/-- What a host's read of a register of BAR0 returns; one of another size or alignment returns zero (R445). -/
def State.hostRead (s : State) (fn a size : Nat) : Word := (regPart (s.barWord fn a) (a % 8) size).getD 0

/-- REGISTER_WRITE: an access of 4 or 8 bytes, aligned, to a register of the writer's map; any other is not performed, and
raises the exception of a scheduler core or of Vesper (R445, 15 R371, R373). DEDUCED, unsafe: log 58. -/
def execRegisterWrite (by_ : Writer) (addr size : Nat) (v : Word) (s : State) : Out :=
  let formed := (size = 4 ∨ size = 8) ∧ addr % size = 0
  match by_ with
  | .sched n =>
    if 4 ≤ n ∨ s.powered = false then .next s
    else match regAt addr with
      | some r => if formed then writeReg by_ r addr size v s else .next (s.accessFault by_ false addr size)
      | none => .next (s.accessFault by_ false addr size)
  | .vesper =>
    if s.power.state = .off then .next s
    else match vregAt addr with
      | some r => if formed then writeVReg r addr size v s else .next (s.accessFault by_ false addr size)
      | none => .next (s.accessFault by_ false addr size)
  | .host fn => if fn ≤ 192 ∧ s.links.hostUp = true ∧ formed then writeBar0 fn addr size v s else .next s

end Sys2Proof.Machine
end

