-- ==== Sys2Proof/Machine/Vector.lean ====
section
/-! DEFINITION. The vector unit: operands and format of an instruction (10 R234 to R237), and the
floating-point members (R239 to R245). -/
namespace Sys2Proof.Machine

/-! ### Operands (R236 to R238) -/

/-- The tile lines among some lines. -/
def tilesOf (l : List Line) : List TileLine :=
  l.filterMap fun x => match x with | .tile t => some t | .gen _ => none

/-- The generators among some lines. -/
def gensOf (l : List Line) : List Nat :=
  l.filterMap fun x => match x with | .tile _ => none | .gen g => some g.toNat

/-- The request of a vector instruction with a line destination or none: its sources are in the order they
are popped. DEDUCED, unsafe: log 30. -/
def vecReq (i : Instr) (opc cls : Nat) (cm : Common) (d : Option Line) (srcs : List Line) (p : BitVec 3) : Req :=
  let all := d.toList ++ srcs
  let g := gensOf srcs
  { opc := opc, cm := cm, wf := i.wellFormed, cls := cls
    tiles := (tilesOf all).map (·.tile.toNat)
    gens := g.map (fun n => ⟨n, false, (g.filter (· == n)).length, false⟩) ++
      (gensOf d.toList).map fun n => ⟨n, true, 1, false⟩
    gsrc := g
    reads := lineLocs (tilesOf all) p
    writes := (tilesOf d.toList).map fun t => .tile t.tile.toNat }

/-- The bits of each source line: a tile line, or the next line popped. -/
def State.vecLines (s : State) : List Line → List LineBits → List LineBits
  | [], _ => []
  | .tile t :: r, l => s.tileLine t :: s.vecLines r l
  | .gen _ :: r, l => l.headD 0 :: s.vecLines r l.tail

/-- The format F (R236): the common tag of the tiles that take part, else that of d, else a default; none
where they differ or F is not permitted. -/
def State.vecFmt (s : State) (srcs : List Line) (d : Option Line) (dflt lo hi : Nat) : Option Nat :=
  let tags (l : List Line) : List Nat := ((tilesOf l).map s.tileTag).filter (· != 0)
  let f := match tags srcs with
    | [] => some ((tags d.toList).headD dflt)
    | t :: r => if r.all (· == t) then some t else none
  f.filter fun t => decide (lo ≤ t ∧ t ≤ hi)

/-- Classes of formats (R236): default, least and greatest tag. -/
def State.floatFmt (s : State) (srcs : List Line) (d : Option Line) : Option Nat := s.vecFmt srcs d 1 1 3

/-- The format of an integer instruction. -/
def State.intFmt (s : State) (srcs : List Line) (d : Option Line) : Option Nat := s.vecFmt srcs d 6 6 9

/-- The format of a general instruction. -/
def State.anyFmt (s : State) (srcs : List Line) (d : Option Line) : Option Nat := s.vecFmt srcs d 1 1 16

/-- Containers of a line from their codes, lowest first. -/
def packCodes (w : Nat) : List Nat → Nat
  | [] => 0
  | c :: t => c % 2 ^ w + 2 ^ w * packCodes w t

/-- A result of N codes written to d under a predicate, with F as its tag (R237); a push that would merge into an
uncorrectable word traps (06 R140). -/
def State.vecDone (s : State) (d : Line) (tag : Nat) (gov : Nat → Bool) (cs : List Nat) (fl : FFlags)
    (more : List Effect) : Result :=
  let v : LineBits := BitVec.ofNat 2048 (packCodes (cbits tag) cs)
  match d with
  | .gen g =>
    match s.me.pushEcc g.toNat 1 with
    | some t => .trap t
    | none => .ok { s := s, eff := .genLine g.toNat v :: .flags fl.bits :: more }
  | .tile t => s.lineDone t tag v (elemMask tag gov) fl more

/-- The body of an element-wise instruction: `fmt` fixes F, and `f` gives each governed element from the
elements of the sources. -/
def State.vecMap (s : State) (d : Line) (srcs taking ecc : List Line) (popped : List LineBits)
    (p : BitVec 3) (fmt : State → List Line → Option Line → Option Nat)
    (f : Nat → List LineBits → Nat → Nat × FFlags) : Result :=
  match fmt s taking (some d) with
  | none => .trap (Trap.plain .fmtMismatch)
  | some t =>
    match s.eccOf (tilesOf ecc) with
    | some x => .trap x
    | none =>
      let ls := s.vecLines srcs popped
      let gov := governed (s.me.pred p.toNat) t
      let (cs, fl) := convAll (elems t) gov (f t ls)
      s.vecDone d t gov cs fl []

/-- The element of source `n`. -/
def srcElem (t : Nat) (ls : List LineBits) (n m : Nat) : Nat := elem t (ls.getD n 0) m

/-- The floating-point format of F. -/
def vecFloat (t : Nat) : Fmt := (tagFmt t).getD .fp32

/-! ### Floating-point arithmetic (R239 to R241) -/

/-- The product of two values (R239). -/
def Fmt.mul (f : Fmt) (rm : Nat) (fz : Bool) (x y : FV) : Nat × FFlags :=
  if x.isNan || y.isNan then (f.nan, { nv := x.isSig || y.isSig })
  else match FV.mul x y with
    | none => (f.nan, { nv := true })
    | some v => f.pack rm false fz v

/-- The fused x × y + z (R239, R240). -/
def Fmt.fused (f : Fmt) (rm : Nat) (fz : Bool) (x y z : FV) : Nat × FFlags :=
  if x.isNan || y.isNan then (f.nan, { nv := x.isSig || y.isSig || z.isSig })
  else match FV.mul x y with
    | none => (f.nan, { nv := true })
    | some v => f.add rm fz v z

/-- The unfused ±(x × y) + z of NBV 1 (R240). -/
def Fmt.unfused (f : Fmt) (rm : Nat) (fz neg : Bool) (x y z : FV) : Nat × FFlags :=
  let (q, fl) := f.mul rm fz x y
  let v := f.value fz q
  let (r, fl') := f.add rm fz (if neg then v.negate else v) z
  (r, fl.or fl')

/-- minimumNumber and maximumNumber (R239). -/
def Fmt.pick (f : Fmt) (fz greater : Bool) (x y : FV) : Nat × FFlags :=
  let fl : FFlags := { nv := x.isSig || y.isSig }
  if x.isNan then (if y.isNan then f.nan else (f.pack 0 false fz y).1, fl)
  else if y.isNan then ((f.pack 0 false fz x).1, fl)
  else
    let c := FV.cmp x y
    let xLess := decide (c < 0) || (c == 0 && x.neg)
    ((f.pack 0 false fz (if xLess == greater then y else x)).1, fl)

/-- The two-source members of Table 10.3. -/
inductive FOp where
  | add | sub | mul | min | max
  deriving DecidableEq, Repr, Inhabited

/-- One result of a two-source member. -/
def FOp.eval (o : FOp) (f : Fmt) (rm : Nat) (fz : Bool) (a b : Nat) : Nat × FFlags :=
  let x := f.value fz a
  let y := f.value fz b
  match o with
  | .add => f.add rm fz x y
  | .sub => f.add rm fz x y.negate
  | .mul => f.mul rm fz x y
  | .min => f.pick fz false x y
  | .max => f.pick fz true x y

/-- A two-source floating-point instruction. -/
def float2 (i : Instr) (opc : Nat) (o : FOp) (cm : Common) (d a b : Line) (p : BitVec 3) (s : State) : Out :=
  issue (vecReq i opc 4 cm (some d) [a, b] p) (fun s _ l =>
    s.vecMap d [a, b] [a, b] [a, b] l p State.floatFmt fun t ls m =>
      o.eval (vecFloat t) s.rmNow s.me.fzOn (srcElem t ls 0 m) (srcElem t ls 1 m)) s

/-- VFADD. -/
def execVfadd (cm : Common) (d a b : Line) (p : BitVec 3) (s : State) : Out :=
  float2 (.vfadd cm d a b p) 0x80 .add cm d a b p s

/-- VFSUB. -/
def execVfsub (cm : Common) (d a b : Line) (p : BitVec 3) (s : State) : Out :=
  float2 (.vfsub cm d a b p) 0x81 .sub cm d a b p s

/-- VFMUL. -/
def execVfmul (cm : Common) (d a b : Line) (p : BitVec 3) (s : State) : Out :=
  float2 (.vfmul cm d a b p) 0x82 .mul cm d a b p s

/-- VFMIN. -/
def execVfmin (cm : Common) (d a b : Line) (p : BitVec 3) (s : State) : Out :=
  float2 (.vfmin cm d a b p) 0x86 .min cm d a b p s

/-- VFMAX. -/
def execVfmax (cm : Common) (d a b : Line) (p : BitVec 3) (s : State) : Out :=
  float2 (.vfmax cm d a b p) 0x87 .max cm d a b p s

/-- ±(x × y) ± z under the numeric version of the context (R240). -/
def mulAdd (nbv : Nat) (f : Fmt) (rm : Nat) (fz negP negZ : Bool) (a b c : Nat) : Nat × FFlags :=
  let x := f.value fz a
  let y := f.value fz b
  let z := if negZ then (f.value fz c).negate else f.value fz c
  if nbv = 1 then f.unfused rm fz negP x y z else f.fused rm fz (if negP then x.negate else x) y z

/-- A multiply-add: d counts as a source (R236). -/
def float3 (i : Instr) (opc : Nat) (negP negZ : Bool) (cm : Common) (d : TileLine) (a b : Line) (p : BitVec 3)
    (s : State) : Out :=
  issue (vecReq i opc 4 cm (some (.tile d)) [a, b] p) (fun s _ l =>
    s.vecMap (.tile d) [a, b, .tile d] [a, b, .tile d] [a, b, .tile d] l p State.floatFmt fun t ls m =>
      mulAdd s.me.nbv (vecFloat t) s.rmNow s.me.fzOn negP negZ (srcElem t ls 0 m) (srcElem t ls 1 m)
        (srcElem t ls 2 m)) s

/-- VFMA. -/
def execVfma (cm : Common) (d : TileLine) (a b : Line) (p : BitVec 3) (s : State) : Out :=
  float3 (.vfma cm d a b p) 0x83 false false cm d a b p s

/-- VFMS. -/
def execVfms (cm : Common) (d : TileLine) (a b : Line) (p : BitVec 3) (s : State) : Out :=
  float3 (.vfms cm d a b p) 0x84 false true cm d a b p s

/-- VFNMA. -/
def execVfnma (cm : Common) (d : TileLine) (a b : Line) (p : BitVec 3) (s : State) : Out :=
  float3 (.vfnma cm d a b p) 0x85 true false cm d a b p s

/-- A one-source floating-point instruction. -/
def float1 (i : Instr) (opc cls : Nat) (f : Fmt → Nat → Bool → Nat → Nat × FFlags) (cm : Common) (d a : Line)
    (p : BitVec 3) (s : State) : Out :=
  issue (vecReq i opc cls cm (some d) [a] p) (fun s _ l =>
    s.vecMap d [a] [a] [a] l p State.floatFmt fun t ls m =>
      f (vecFloat t) s.rmNow s.me.fzOn (srcElem t ls 0 m)) s

/-- VFABS: not flushed, no flag (R241). -/
def execVfabs (cm : Common) (d a : Line) (p : BitVec 3) (s : State) : Out :=
  float1 (.vfabs cm d a p) 0x88 4 (fun f _ _ c => (c % f.signBit, {})) cm d a p s

/-- VFNEG: not flushed, no flag (R241). -/
def execVfneg (cm : Common) (d a : Line) (p : BitVec 3) (s : State) : Out :=
  float1 (.vfneg cm d a p) 0x89 4 (fun f _ _ c => (Nat.xor c f.signBit, {})) cm d a p s

/-- x × 2^k; k beyond every exponent is limited, which changes no result (R239). -/
def scaleElem (f : Fmt) (rm : Nat) (fz : Bool) (c : Nat) (k : Int) : Nat × FFlags :=
  match f.value fz c with
  | .nan sig => (f.nan, { nv := sig })
  | .inf n => f.pack rm false fz (.inf n)
  | .fin n m e => f.round rm false fz n m (e + max (-4000) (min 4000 k))

/-- VFSCALE: b is read raw and takes no part in fixing F. -/
def execVfscale (cm : Common) (d a b : Line) (p : BitVec 3) (s : State) : Out :=
  issue (vecReq (.vfscale cm d a b p) 0x8A 4 cm (some d) [a, b] p) (fun s _ l =>
    s.vecMap d [a, b] [a] [a, b] l p State.floatFmt fun t ls m =>
      scaleElem (vecFloat t) s.rmNow s.me.fzOn (srcElem t ls 0 m) (intVal (cbits t) true (srcElem t ls 1 m))) s

/-! ### Transcendentals (R242) -/

/-- VFRCP. -/
def execVfrcp (cm : Common) (d a : Line) (p : BitVec 3) (s : State) : Out :=
  float1 (.vfrcp cm d a p) 0x8B 5 (Elementary.code .rcp) cm d a p s

/-- VFRSQ. -/
def execVfrsq (cm : Common) (d a : Line) (p : BitVec 3) (s : State) : Out :=
  float1 (.vfrsq cm d a p) 0x8C 5 (Elementary.code .rsq) cm d a p s

/-- VFSQRT. -/
def execVfsqrt (cm : Common) (d a : Line) (p : BitVec 3) (s : State) : Out :=
  float1 (.vfsqrt cm d a p) 0x8D 5 (Elementary.code .sqrt) cm d a p s

/-- VFEXP2. -/
def execVfexp2 (cm : Common) (d a : Line) (p : BitVec 3) (s : State) : Out :=
  float1 (.vfexp2 cm d a p) 0x8E 5 (Elementary.code .exp2) cm d a p s

/-- VFLOG2. -/
def execVflog2 (cm : Common) (d a : Line) (p : BitVec 3) (s : State) : Out :=
  float1 (.vflog2 cm d a p) 0x8F 5 (Elementary.code .log2) cm d a p s

/-- VFTANH. -/
def execVftanh (cm : Common) (d a : Line) (p : BitVec 3) (s : State) : Out :=
  float1 (.vftanh cm d a p) 0x90 5 (Elementary.code .tanh) cm d a p s

/-- VFSIGM. -/
def execVfsigm (cm : Common) (d a : Line) (p : BitVec 3) (s : State) : Out :=
  float1 (.vfsigm cm d a p) 0x91 5 (Elementary.code .sigm) cm d a p s

/-! ### Comparisons (R243) -/

/-- A condition of VFCMP (Table 10.5) and its nv. -/
def floatCond (cond : Nat) (x y : FV) : Bool × FFlags :=
  let un := x.isNan || y.isNan
  let c := FV.cmp x y
  let r : Bool :=
    if cond = 0 then !un && c == 0 else if cond = 1 then un || c != 0
    else if cond = 2 then !un && decide (c < 0) else if cond = 3 then !un && decide (c ≤ 0)
    else if cond = 4 then !un && decide (0 < c) else if cond = 5 then !un && decide (0 ≤ c)
    else if cond = 6 then un else !un
  (r, { nv := if 2 ≤ cond ∧ cond ≤ 5 then un else x.isSig || y.isSig })

/-- Bits of a predicate replaced under a test for elements below N. -/
def predOf (old : BitVec 256) (n : Nat) (gov : Nat → Bool) (v : Nat → Bool) : BitVec 256 :=
  (List.range n).foldl (fun (a : BitVec 256) m =>
    if gov m then (if v m then a ||| (1#256 <<< m) else a &&& ~~~(1#256 <<< m)) else a) old

/-- The body of a comparison. -/
def State.vecCmp (s : State) (pd : BitVec 3) (a b : Line) (popped : List LineBits) (p : BitVec 3)
    (fmt : State → List Line → Option Line → Option Nat) (f : Nat → Nat → Nat → Bool × FFlags) : Result :=
  match fmt s [a, b] none with
  | none => .trap (Trap.plain .fmtMismatch)
  | some t =>
    match s.eccOf (tilesOf [a, b]) with
    | some x => .trap x
    | none =>
      let ls := s.vecLines [a, b] popped
      let n := elems t
      let gov := governed (s.me.pred p.toNat) t
      let r (m : Nat) := f t (srcElem t ls 0 m) (srcElem t ls 1 m)
      let fl := (List.range n).foldl (fun (k : FFlags) m => if gov m then k.or (r m).2 else k) {}
      .ok { s := s, eff := [.p pd.toNat (predOf (s.me.pred pd.toNat) n gov fun m => (r m).1), .flags fl.bits] }

/-- VFCMP. -/
def execVfcmp (cm : Common) (pd cond : BitVec 3) (a b : Line) (p : BitVec 3) (s : State) : Out :=
  issue { vecReq (.vfcmp cm pd cond a b p) 0x92 4 cm none [a, b] p with writes := [.p pd.toNat] }
    (fun s _ l =>
      s.vecCmp pd a b l p State.floatFmt fun t x y =>
        let f := vecFloat t
        floatCond cond.toNat (f.value s.me.fzOn x) (f.value s.me.fzOn y)) s

/-! ### Reductions and scans (R244, R245) -/

/-- One level of the tree: absent elements pass the other one on. -/
def pairUp (op : Nat → Nat → Nat × FFlags) : List (Option Nat) → List (Option Nat) × FFlags
  | u :: v :: t =>
    let (r, fl) := pairUp op t
    match u, v with
    | some x, some y =>
      let (c, k) := op x y
      (some c :: r, fl.or k)
    | some x, none => (some x :: r, fl)
    | none, w => (w :: r, fl)
  | l => (l, {})

/-- The tree over 2^k elements. -/
def treeRed (op : Nat → Nat → Nat × FFlags) : Nat → List (Option Nat) → Option Nat × FFlags
  | 0, l => (l.headD none, {})
  | k + 1, l =>
    let (l', fl) := pairUp op l
    let (r, fl') := treeRed op k l'
    (r, fl.or fl')

/-- The operation of a node: sums round RNE (R244). -/
def redNode (o : RedOp) (f : Fmt) (fz : Bool) (a b : Nat) : Nat × FFlags :=
  match o with
  | .sum => FOp.eval .add f 0 fz a b
  | .max => FOp.eval .max f 0 fz a b
  | .min => FOp.eval .min f 0 fz a b

/-- A reduction's body: element 0 of d is written whatever its own bit. -/
def State.vecRed (s : State) (d : TileLine) (a : Line) (popped : List LineBits) (p : BitVec 3)
    (fmt : State → List Line → Option Line → Option Nat) (op : Nat → Nat → Nat → Nat × FFlags)
    (identity : Nat → Nat) : Result :=
  match fmt s [a] (some (.tile d)) with
  | none => .trap (Trap.plain .fmtMismatch)
  | some t =>
    match s.eccOf (tilesOf [a]) with
    | some x => .trap x
    | none =>
      let ls := s.vecLines [a] popped
      let n := elems t
      let gov := governed (s.me.pred p.toNat) t
      let vs := (List.range n).map fun m => if gov m then some (srcElem t ls 0 m) else none
      let (r, fl) := treeRed (op t) (Nat.log2 n) vs
      s.vecDone (.tile d) t (· == 0) [r.getD (identity t)] fl []

/-- VFRED. -/
def execVfred (cm : Common) (d : TileLine) (a : Line) (op : RedOp) (p : BitVec 3) (s : State) : Out :=
  issue (vecReq (.vfred cm d a op p) 0x93 4 cm (some (.tile d)) [a] p) (fun s _ l =>
    s.vecRed d a l p State.floatFmt (fun t => redNode op (vecFloat t) s.me.fzOn)
      fun t => if op = .sum then 0 else (vecFloat t).nan) s

/-- The running values of a scan, with zero for elements not governed (R245). -/
def scanCodes (op : Nat → Nat → Nat × FFlags) : Option Nat → List (Option Nat) → List Nat × FFlags
  | _, [] => ([], {})
  | acc, none :: t =>
    let (r, fl) := scanCodes op acc t
    (0 :: r, fl)
  | none, some x :: t =>
    let (r, fl) := scanCodes op (some x) t
    (x :: r, fl)
  | some y, some x :: t =>
    let (c, k) := op y x
    let (r, fl) := scanCodes op (some c) t
    (c :: r, fl.or k)

/-- VFSCAN. -/
def execVfscan (cm : Common) (d a : Line) (op : RedOp) (p : BitVec 3) (s : State) : Out :=
  issue (vecReq (.vfscan cm d a op p) 0x94 4 cm (some d) [a] p) (fun s _ l =>
    match s.floatFmt [a] (some d) with
    | none => .trap (Trap.plain .fmtMismatch)
    | some t =>
      match s.eccOf (tilesOf [a]) with
      | some x => .trap x
      | none =>
        let ls := s.vecLines [a] l
        let gov := governed (s.me.pred p.toNat) t
        let vs := (List.range (elems t)).map fun m => if gov m then some (srcElem t ls 0 m) else none
        let (cs, fl) := scanCodes (redNode op (vecFloat t) s.me.fzOn) none vs
        s.vecDone d t gov cs fl []) s

end Sys2Proof.Machine
end

