-- ==== Sys2Proof/Machine/VectorInt.lean ====
section
/-! DEFINITION. Integer and general vector instructions, VRNG and the predicate instructions (10 R243,
R244, R246 to R254). -/
namespace Sys2Proof.Machine

/-! ### Integer arithmetic (R246) -/

/-- The value of an integer element. -/
def intElem (t c : Nat) : Int := intVal (cbits t) (t != 9) c

/-- A value modulo 2^w. -/
def wrapInt (w : Nat) (v : Int) : Nat := (v % 2 ^ w).toNat

/-- The integer members. -/
inductive IOp where
  | add | sub | mul | mulh | min | max | and | or | xor | shl | shr | adds
  deriving DecidableEq, Repr, Inhabited

/-- One result of Table 10.6. -/
def IOp.eval (o : IOp) (t a b : Nat) : Nat :=
  let w := cbits t
  let x := intElem t a
  let y := intElem t b
  let sh := b % w
  match o with
  | .add => wrapInt w (x + y)
  | .sub => wrapInt w (x - y)
  | .mul => wrapInt w (x * y)
  | .mulh => wrapInt w (x * y / 2 ^ w)
  | .min => if x ≤ y then a else b
  | .max => if x ≤ y then b else a
  | .and => Nat.land a b
  | .or => Nat.lor a b
  | .xor => Nat.xor a b
  | .shl => wrapInt w (x * 2 ^ sh)
  | .shr => wrapInt w (x / 2 ^ sh)
  | .adds => (satInt w (t != 9) (x + y)).1

/-- An integer instruction of two sources. -/
def int2 (i : Instr) (opc : Nat) (o : IOp) (cm : Common) (d a b : Line) (p : BitVec 3) (s : State) : Out :=
  issue (vecReq i opc 4 cm (some d) [a, b] p) (fun s _ l =>
    s.vecMap d [a, b] [a, b] [a, b] l p State.intFmt fun t ls m =>
      (o.eval t (srcElem t ls 0 m) (srcElem t ls 1 m), {})) s

/-- VIADD. -/
def execViadd (cm : Common) (d a b : Line) (p : BitVec 3) (s : State) : Out :=
  int2 (.viadd cm d a b p) 0x95 .add cm d a b p s

/-- VISUB. -/
def execVisub (cm : Common) (d a b : Line) (p : BitVec 3) (s : State) : Out :=
  int2 (.visub cm d a b p) 0x96 .sub cm d a b p s

/-- VIMUL. -/
def execVimul (cm : Common) (d a b : Line) (p : BitVec 3) (s : State) : Out :=
  int2 (.vimul cm d a b p) 0x97 .mul cm d a b p s

/-- VIMULH. -/
def execVimulh (cm : Common) (d a b : Line) (p : BitVec 3) (s : State) : Out :=
  int2 (.vimulh cm d a b p) 0x98 .mulh cm d a b p s

/-- VIMIN. -/
def execVimin (cm : Common) (d a b : Line) (p : BitVec 3) (s : State) : Out :=
  int2 (.vimin cm d a b p) 0x99 .min cm d a b p s

/-- VIMAX. -/
def execVimax (cm : Common) (d a b : Line) (p : BitVec 3) (s : State) : Out :=
  int2 (.vimax cm d a b p) 0x9A .max cm d a b p s

/-- VIAND. -/
def execViand (cm : Common) (d a b : Line) (p : BitVec 3) (s : State) : Out :=
  int2 (.viand cm d a b p) 0x9B .and cm d a b p s

/-- VIOR. -/
def execVior (cm : Common) (d a b : Line) (p : BitVec 3) (s : State) : Out :=
  int2 (.vior cm d a b p) 0x9C .or cm d a b p s

/-- VIXOR. -/
def execVixor (cm : Common) (d a b : Line) (p : BitVec 3) (s : State) : Out :=
  int2 (.vixor cm d a b p) 0x9D .xor cm d a b p s

/-- VISHL. -/
def execVishl (cm : Common) (d a b : Line) (p : BitVec 3) (s : State) : Out :=
  int2 (.vishl cm d a b p) 0x9E .shl cm d a b p s

/-- VISHR. -/
def execVishr (cm : Common) (d a b : Line) (p : BitVec 3) (s : State) : Out :=
  int2 (.vishr cm d a b p) 0x9F .shr cm d a b p s

/-- VIADDS. -/
def execViadds (cm : Common) (d a b : Line) (p : BitVec 3) (s : State) : Out :=
  int2 (.viadds cm d a b p) 0xA2 .adds cm d a b p s

/-- A condition of VICMP on w-bit values (Table 10.5), whatever the tag. -/
def intCond (cond w a b : Nat) : Bool :=
  let x := intVal w true a
  let y := intVal w true b
  if cond = 0 then a == b else if cond = 1 then a != b else if cond = 2 then decide (x < y)
  else if cond = 3 then decide (y ≤ x) else if cond = 4 then decide (a < b) else if cond = 5 then decide (b ≤ a)
  else if cond = 6 then Nat.land a b != 0 else Nat.land a b == 0

/-- VICMP (R243). -/
def execVicmp (cm : Common) (pd cond : BitVec 3) (a b : Line) (p : BitVec 3) (s : State) : Out :=
  issue { vecReq (.vicmp cm pd cond a b p) 0xA0 4 cm none [a, b] p with writes := [.p pd.toNat] }
    (fun s _ l => s.vecCmp pd a b l p State.intFmt fun t x y => (intCond cond.toNat (cbits t) x y, {})) s

/-- The operation of a node of VIRED (R244). -/
def iredNode (o : IRedOp) (t a b : Nat) : Nat :=
  match o with
  | .add => IOp.eval .add t a b
  | .min => IOp.eval .min t a b
  | .max => IOp.eval .max t a b
  | .and => IOp.eval .and t a b
  | .or => IOp.eval .or t a b
  | .xor => IOp.eval .xor t a b

/-- The identities of VIRED (R244). -/
def iredIdentity (o : IRedOp) (t : Nat) : Nat :=
  let w := cbits t
  match o with
  | .add | .or | .xor => 0
  | .and => 2 ^ w - 1
  | .min => if t = 9 then 2 ^ w - 1 else 2 ^ (w - 1) - 1
  | .max => if t = 9 then 0 else 2 ^ (w - 1)

/-- VIRED. -/
def execVired (cm : Common) (d : TileLine) (a : Line) (op : IRedOp) (p : BitVec 3) (s : State) : Out :=
  issue (vecReq (.vired cm d a op p) 0xA1 4 cm (some (.tile d)) [a] p) (fun s _ l =>
    s.vecRed d a l p State.intFmt (fun t x y => (iredNode op t x y, {})) (iredIdentity op)) s

/-! ### Moves and permutations (R247 to R250) -/

/-- VSEL: p selects and governs nothing. DEDUCED, unsafe: log 30. -/
def execVsel (cm : Common) (d a b : Line) (p : BitVec 3) (s : State) : Out :=
  issue (vecReq (.vsel cm d a b p) 0xA3 4 cm (some d) [a, b] p) (fun s _ l =>
    match s.anyFmt [a, b] (some d) with
    | none => .trap (Trap.plain .fmtMismatch)
    | some t =>
      match s.eccOf (tilesOf [a, b]) with
      | some x => .trap x
      | none =>
        let ls := s.vecLines [a, b] l
        let sel := governed (s.me.pred p.toNat) t
        s.vecDone d t (fun _ => true)
          ((List.range (elems t)).map fun m => srcElem t ls (if sel m then 0 else 1) m) {} []) s

/-- VMOV. -/
def execVmov (cm : Common) (d a : Line) (p : BitVec 3) (s : State) : Out :=
  issue (vecReq (.vmov cm d a p) 0xA4 4 cm (some d) [a] p) (fun s _ l =>
    s.vecMap d [a] [a] [a] l p State.anyFmt fun t ls m => (srcElem t ls 0 m, {})) s

/-- VBCAST, line form. -/
def execVbcastLine (cm : Common) (d a : Line) (index : BitVec 9) (p : BitVec 3) (s : State) : Out :=
  issue (vecReq (.vbcastLine cm d a index p) 0xA5 4 cm (some d) [a] p) (fun s _ l =>
    s.vecMap d [a] [a] [a] l p State.anyFmt fun t ls _ => (srcElem t ls 0 (index.toNat % elems t), {})) s

/-- VBCAST, scalar form: F is the tag named, or d's. -/
def execVbcastScalar (cm : Common) (d : Line) (sc : Spec) (tag : BitVec 5) (p : BitVec 3) (s : State) : Out :=
  issue { vecReq (.vbcastScalar cm d sc tag p) 0xA5 4 cm (some d) [] p with srcs := [sc] } (fun s w _ =>
    let dt := match d with | .tile t => s.tileTag t | .gen _ => 0
    let t := if tag = 0 then dt else tag.toNat
    if t = 0 then .trap (Trap.plain .fmtMismatch)
    else
      let gov := governed (s.me.pred p.toNat) t
      let v := (w.getD 0 0).toNat % 2 ^ cbits t
      s.vecDone d t gov ((List.range (elems t)).map fun _ => v) {} []) s

/-- An element as VEXT gives it (R249). -/
def extValue (t c : Nat) : Word :=
  if (6 ≤ t ∧ t ≤ 8) ∨ t = 10 ∨ isMxi t then sext64 (codeBits t) (c % 2 ^ codeBits t) else BitVec.ofNat 64 c

/-- The body of VEXT; a source tagged UNTYPED reads as zero. -/
def State.vecExt (s : State) (d : Spec) (a : Line) (popped : List LineBits) (k : Nat) : Result :=
  match s.anyFmt [a] none with
  | none => .trap (Trap.plain .fmtMismatch)
  | some t =>
    match s.eccOf (tilesOf [a]) with
    | some x => .trap x
    | none =>
      .ok { s := s, eff := Spec.write s.who.y d (extValue t (srcElem t (s.vecLines [a] popped) 0 (k % elems t))) }

/-- VEXT, immediate index. -/
def execVextIndex (cm : Common) (d : Spec) (a : Line) (index : BitVec 9) (s : State) : Out :=
  issue { vecReq (.vextIndex cm d a index) 0xA6 4 cm none [a] 0 with dst := some d }
    (fun s _ l => s.vecExt d a l index.toNat) s

/-- VEXT, register index. -/
def execVextScalar (cm : Common) (d : Spec) (a : Line) (sc : Spec) (s : State) : Out :=
  issue { vecReq (.vextScalar cm d a sc) 0xA6 4 cm none [a] 0 with srcs := [sc], dst := some d }
    (fun s w l => s.vecExt d a l (w.getD 0 0).toNat) s

/-- The body of VINS: F is d's tag. -/
def State.vecIns (s : State) (d : TileLine) (v : Word) (k : Nat) : Result :=
  let t := s.tileTag d
  if t = 0 then .trap (Trap.plain .fmtMismatch)
  else
    let n := k % elems t
    s.lineDone d t (lineOfElems t fun m => if m = n then store121 t v.toNat else 0) (elemMask t (fun m => m == n)) {} []

/-- VINS, immediate index. -/
def execVinsIndex (cm : Common) (d : TileLine) (a : Spec) (index : BitVec 9) (s : State) : Out :=
  issue { vecReq (.vinsIndex cm d a index) 0xA7 4 cm (some (.tile d)) [] 0 with srcs := [a] }
    (fun s w _ => s.vecIns d (w.getD 0 0) index.toNat) s

/-- VINS, register index: the value is read first. -/
def execVinsScalar (cm : Common) (d : TileLine) (a sc : Spec) (s : State) : Out :=
  issue { vecReq (.vinsScalar cm d a sc) 0xA7 4 cm (some (.tile d)) [] 0 with srcs := [a, sc] }
    (fun s w _ => s.vecIns d (w.getD 0 0) (w.getD 1 0).toNat) s

/-- VSHUF: b is read raw. -/
def execVshuf (cm : Common) (d a b : Line) (p : BitVec 3) (s : State) : Out :=
  issue (vecReq (.vshuf cm d a b p) 0xA8 4 cm (some d) [a, b] p) (fun s _ l =>
    s.vecMap d [a, b] [a] [a, b] l p State.anyFmt fun t ls m =>
      (srcElem t ls 0 (srcElem t ls 1 m % elems t), {})) s

/-! ### VARGMAX (R251) -/

/-- Whether an element may be the greatest, and whether one is greater than another. -/
def argNumber (t c : Nat) : Bool := match tagFmt t with | some f => !(f.value false c).isNan | none => true

/-- Whether an element is greater than another (R251), sources flushed under 09 R219. -/
def argGreater (fz : Bool) (t a b : Nat) : Bool :=
  match tagFmt t with
  | some f =>
    let x := f.value fz a
    let y := f.value fz b
    decide (0 < FV.cmp x y) || (FV.cmp x y == 0 && y.neg && !x.neg)
  | none =>
    let v (c : Nat) : Int := intVal (codeBits t) (t != 9 && t != 11) (c % 2 ^ codeBits t)
    decide (v b < v a)

/-- The lowest index of a greatest element among those left, given the best so far. -/
def argBest (fz : Bool) (t : Nat) : Option (Nat × Nat) → List (Nat × Nat) → Option (Nat × Nat)
  | best, [] => best
  | none, e :: r => argBest fz t (if argNumber t e.2 then some e else none) r
  | some b, e :: r => argBest fz t (if argNumber t e.2 && argGreater fz t e.2 b.2 then some e else some b) r

/-- VARGMAX. -/
def execVargmax (cm : Common) (d : Spec) (a : Line) (p : BitVec 3) (s : State) : Out :=
  issue { vecReq (.vargmax cm d a p) 0xA9 4 cm none [a] p with dst := some d } (fun s _ l =>
    match s.anyFmt [a] none with
    | none => .trap (Trap.plain .fmtMismatch)
    | some t =>
      match s.eccOf (tilesOf [a]) with
      | some x => .trap x
      | none =>
        let ls := s.vecLines [a] l
        let gov := governed (s.me.pred p.toNat) t
        let es := ((List.range (elems t)).filter gov).map fun m => (m, srcElem t ls 0 m)
        let v : Word := match argBest s.me.fzOn t none es with
          | some e => BitVec.ofNat 64 e.1
          | none => BitVec.allOnes 64
        .ok { s := s, eff := Spec.write s.who.y d v }) s

/-! ### VRNG (R252) -/

/-- The rounds of Mix. -/
def mixRounds : Nat → Word → Word → Word
  | 0, x, _ => x
  | n + 1, x, y =>
    let x := (x ^^^ y) * 0x9B5C3E174D2A61F5
    mixRounds n (x ^^^ (x >>> 31)) (y + 0xC2B7A93D1E58F46B)

/-- Word `j` of Mix. -/
def mixWord (key ctr : Word) (j : Nat) : Nat :=
  (mixRounds 4 (ctr * 64 + BitVec.ofNat 64 j) key >>> 32).toNat

/-- VRNG. -/
def execVrng (cm : Common) (d : Line) (p : BitVec 3) (s : State) : Out :=
  let r := vecReq (.vrng cm d p) 0xAA 4 cm (some d) [] p
  issue { r with reads := .sr 0xA :: .sr 0xB :: r.reads } (fun s _ _ =>
    let c := s.me
    s.vecDone d 6 (governed (c.pred p.toNat) 6) ((List.range 64).map (mixWord c.rngKey c.rngCtr)) {}
      [.rngCtr (c.rngCtr + 1)]) s

/-! ### Predicates (R253, R254) -/

/-- PLOP, logical form. -/
def execPlopLogical (cm : Common) (pd pa pb : BitVec 3) (table : BitVec 4) (s : State) : Out :=
  issue { opc := 0xAB, cm := cm, wf := (Instr.plopLogical cm pd pa pb table).wellFormed
          reads := [.p pa.toNat, .p pb.toNat], writes := [.p pd.toNat] }
    (fun s _ _ =>
      let x := s.me.pred pa.toNat
      let y := s.me.pred pb.toNat
      let pick (n : Nat) (v : BitVec 256) : BitVec 256 := if table.getLsbD n then v else 0
      let v := pick 0 (~~~x &&& ~~~y) ||| pick 1 (~~~x &&& y) ||| pick 2 (x &&& ~~~y) ||| pick 3 (x &&& y)
      .ok { s := s, eff := [.p pd.toNat v] }) s

/-- PLOP, first form. -/
def execPlopFirst (cm : Common) (pd : BitVec 3) (a : Spec) (s : State) : Out :=
  issue { opc := 0xAB, cm := cm, wf := (Instr.plopFirst cm pd a).wellFormed, srcs := [a], writes := [.p pd.toNat] }
    (fun s w _ =>
      .ok { s := s, eff := [.p pd.toNat (BitVec.ofNat 256 (2 ^ min (w.getD 0 0).toNat 256 - 1))] }) s

/-- PCNT. -/
def execPcnt (cm : Common) (d : Spec) (pa pb : BitVec 3) (first : Bool) (s : State) : Out :=
  issue { opc := 0xAC, cm := cm, wf := (Instr.pcnt cm d pa pb first).wellFormed, dst := some d
          reads := [.p pa.toNat, .p pb.toNat] }
    (fun s _ _ =>
      let v := s.me.pred pa.toNat &&& s.me.pred pb.toNat
      let n := if first then (firstFrom v.getLsbD 0 256).getD 256 else countBits v.toNat 256
      .ok { s := s, eff := Spec.write s.who.y d (BitVec.ofNat 64 n) }) s

end Sys2Proof.Machine
end

