-- ==== Sys2Proof/Machine/Dispatch.lean ====
section
/-! DEFINITION. The one dispatch: one arm per constructor of Instr. -/
namespace Sys2Proof.Machine

/-- What an instruction does (95_what_each_step_holds.md lists the steps of the table). -/
def exec (i : Instr) (s : State) : Host.Outcome State Fault Refusal :=
  match i with
  | .add cm d a b => Sys2Proof.Machine.execAdd cm d a b s
  | .sub cm d a b => Sys2Proof.Machine.execSub cm d a b s
  | .mul cm d a b => Sys2Proof.Machine.execMul cm d a b s
  | .mulh cm d a b => Sys2Proof.Machine.execMulh cm d a b s
  | .mulhu cm d a b => Sys2Proof.Machine.execMulhu cm d a b s
  | .div cm d a b => Sys2Proof.Machine.execDiv cm d a b s
  | .divu cm d a b => Sys2Proof.Machine.execDivu cm d a b s
  | .rem cm d a b => Sys2Proof.Machine.execRem cm d a b s
  | .remu cm d a b => Sys2Proof.Machine.execRemu cm d a b s
  | .andR cm d a b => Sys2Proof.Machine.execAnd cm d a b s
  | .orR cm d a b => Sys2Proof.Machine.execOr cm d a b s
  | .xorR cm d a b => Sys2Proof.Machine.execXor cm d a b s
  | .sll cm d a b => Sys2Proof.Machine.execSll cm d a b s
  | .srl cm d a b => Sys2Proof.Machine.execSrl cm d a b s
  | .sra cm d a b => Sys2Proof.Machine.execSra cm d a b s
  | .minR cm d a b => Sys2Proof.Machine.execMin cm d a b s
  | .maxR cm d a b => Sys2Proof.Machine.execMax cm d a b s
  | .minu cm d a b => Sys2Proof.Machine.execMinu cm d a b s
  | .maxu cm d a b => Sys2Proof.Machine.execMaxu cm d a b s
  | .slt cm d a b => Sys2Proof.Machine.execSlt cm d a b s
  | .sltu cm d a b => Sys2Proof.Machine.execSltu cm d a b s
  | .addi cm d a imm => Sys2Proof.Machine.execAddi cm d a imm s
  | .andi cm d a imm => Sys2Proof.Machine.execAndi cm d a imm s
  | .ori cm d a imm => Sys2Proof.Machine.execOri cm d a imm s
  | .xori cm d a imm => Sys2Proof.Machine.execXori cm d a imm s
  | .slli cm d a sh => Sys2Proof.Machine.execSlli cm d a sh s
  | .srli cm d a sh => Sys2Proof.Machine.execSrli cm d a sh s
  | .srai cm d a sh => Sys2Proof.Machine.execSrai cm d a sh s
  | .slti cm d a imm => Sys2Proof.Machine.execSlti cm d a imm s
  | .li cm d v => Sys2Proof.Machine.execLi cm d v s
  | .bfx cm d a pos lenM1 sx => Sys2Proof.Machine.execBfx cm d a pos lenM1 sx s
  | .bfi cm d a pos lenM1 => Sys2Proof.Machine.execBfi cm d a pos lenM1 s
  | .clz cm d a => Sys2Proof.Machine.execClz cm d a s
  | .ctz cm d a => Sys2Proof.Machine.execCtz cm d a s
  | .popc cm d a => Sys2Proof.Machine.execPopc cm d a s
  | .cmp cm kd a b cond => Sys2Proof.Machine.execCmp cm kd a b cond s
  | .cmpi cm kd a cond imm => Sys2Proof.Machine.execCmpi cm kd a cond imm s
  | .kop cm kd ka kb table => Sys2Proof.Machine.execKop cm kd ka kb table s
  | .sel cm d a b k neg => Sys2Proof.Machine.execSel cm d a b k neg s
  | .pbr cm bn off => Sys2Proof.Machine.execPbr cm bn off s
  | .pbrr cm bn a => Sys2Proof.Machine.execPbrr cm bn a s
  | .br cm bn k neg => Sys2Proof.Machine.execBr cm bn k neg s
  | .call cm bn k neg => Sys2Proof.Machine.execCall cm bn k neg s
  | .loop cm level count body => Sys2Proof.Machine.execLoop cm level count body s
  | .endl cm level k neg => Sys2Proof.Machine.execEndl cm level k neg s
  | .mfs cm d num => Sys2Proof.Machine.execMfs cm d num s
  | .mts cm num a => Sys2Proof.Machine.execMts cm num a s
  | .nop cm => Sys2Proof.Machine.execNop cm s
  | .endSeq cm => Sys2Proof.Machine.execEnd cm s
  | .qdisc cm srcs kinds => Sys2Proof.Machine.execQdisc cm srcs kinds s
  | .qstat cm d ch => Sys2Proof.Machine.execQstat cm d ch s
  | .evset cm a mask => Sys2Proof.Machine.execEvset cm a mask s
  | .evclr cm a mask => Sys2Proof.Machine.execEvclr cm a mask s
  | .evwaitm cm d mask any => Sys2Proof.Machine.execEvwaitm cm d mask any s
  | .bopush cm dest k neg => Sys2Proof.Machine.execBopush cm dest k neg s
  | .brq cm bn src neg => Sys2Proof.Machine.execBrq cm bn src neg s
  | .rinit cm rg a => Sys2Proof.Machine.execRinit cm rg a s
  | .racq cm d rg => Sys2Proof.Machine.execRacq cm d rg s
  | .rput cm rg => Sys2Proof.Machine.execRput cm rg s
  | .rget cm d rg => Sys2Proof.Machine.execRget cm d rg s
  | .rrel cm rg => Sys2Proof.Machine.execRrel cm rg s
  | .rstat cm d rg => Sys2Proof.Machine.execRstat cm d rg s
  | .wdog cm d n => Sys2Proof.Machine.execWdog cm d n s
  | .lds cm d a size sx off => Sys2Proof.Machine.execLds cm d a size sx off s
  | .sts cm d a size off => Sys2Proof.Machine.execSts cm d a size off s
  | .vldAddress cm d a tag off => Sys2Proof.Machine.execVldAddress cm d a tag off s
  | .vldGenerator cm d g tag => Sys2Proof.Machine.execVldGenerator cm d g tag s
  | .vstAddress cm d a off => Sys2Proof.Machine.execVstAddress cm d a off s
  | .vstGenerator cm g a => Sys2Proof.Machine.execVstGenerator cm g a s
  | .gset cm g a => Sys2Proof.Machine.execGset cm g a s
  | .gpos cm g a => Sys2Proof.Machine.execGpos cm g a s
  | .genstat cm d g => Sys2Proof.Machine.execGenstat cm d g s
  | .zzero cm tile countM1 => Sys2Proof.Machine.execZzero cm tile countM1 s
  | .zinfo cm d tile => Sys2Proof.Machine.execZinfo cm d tile s
  | .ld cm d a size sx off => Sys2Proof.Machine.execLd cm d a size sx off s
  | .st cm d a size off => Sys2Proof.Machine.execSt cm d a size off s
  | .lda cm d a scope width => Sys2Proof.Machine.execLda cm d a scope width s
  | .stl cm a b scope width => Sys2Proof.Machine.execStl cm a b scope width s
  | .amo cm d a b scope op width => Sys2Proof.Machine.execAmo cm d a b scope op width s
  | .cas cm d a b scope width => Sys2Proof.Machine.execCas cm d a b scope width s
  | .red cm a b scope op width => Sys2Proof.Machine.execRed cm a b scope op width s
  | .fence cm scope kinds => Sys2Proof.Machine.execFence cm scope kinds s
  | .scset cm n a d => Sys2Proof.Machine.execScset cm n a d s
  | .scget cm d n slices => Sys2Proof.Machine.execScget cm d n slices s
  | .cpush cm d q a => Sys2Proof.Machine.execCpush cm d q a s
  | .cpop cm d q => Sys2Proof.Machine.execCpop cm d q s
  | .cpeek cm d q => Sys2Proof.Machine.execCpeek cm d q s
  | .cchain cm q a spad => Sys2Proof.Machine.execCchain cm q a spad s
  | .ckick cm q a n => Sys2Proof.Machine.execCkick cm q a n s
  | .cqstat cm d q => Sys2Proof.Machine.execCqstat cm d q s
  | .cabort cm q a => Sys2Proof.Machine.execCabort cm q a s
  | .cvt cm d a tag part sat p => Sys2Proof.Machine.execCvt cm d a tag part sat p s
  | .cvtr cm d a b p => Sys2Proof.Machine.execCvtr cm d a b p s
  | .qmx cm d a sc prec part fit => Sys2Proof.Machine.execQmx cm d a sc prec part fit s
  | .dqmx cm d a sc fmt part p => Sys2Proof.Machine.execDqmx cm d a sc fmt part p s
  | .pack cm d a b p => Sys2Proof.Machine.execPack cm d a b p s
  | .unpack cm d a tag hi p => Sys2Proof.Machine.execUnpack cm d a tag hi p s
  | .ztag cm tile tag => Sys2Proof.Machine.execZtag cm tile tag s
  | .ztagr cm d a b => Sys2Proof.Machine.execZtagr cm d a b s
  | .vfadd cm d a b p => Sys2Proof.Machine.execVfadd cm d a b p s
  | .vfsub cm d a b p => Sys2Proof.Machine.execVfsub cm d a b p s
  | .vfmul cm d a b p => Sys2Proof.Machine.execVfmul cm d a b p s
  | .vfma cm d a b p => Sys2Proof.Machine.execVfma cm d a b p s
  | .vfms cm d a b p => Sys2Proof.Machine.execVfms cm d a b p s
  | .vfnma cm d a b p => Sys2Proof.Machine.execVfnma cm d a b p s
  | .vfmin cm d a b p => Sys2Proof.Machine.execVfmin cm d a b p s
  | .vfmax cm d a b p => Sys2Proof.Machine.execVfmax cm d a b p s
  | .vfabs cm d a p => Sys2Proof.Machine.execVfabs cm d a p s
  | .vfneg cm d a p => Sys2Proof.Machine.execVfneg cm d a p s
  | .vfscale cm d a b p => Sys2Proof.Machine.execVfscale cm d a b p s
  | .vfrcp cm d a p => Sys2Proof.Machine.execVfrcp cm d a p s
  | .vfrsq cm d a p => Sys2Proof.Machine.execVfrsq cm d a p s
  | .vfsqrt cm d a p => Sys2Proof.Machine.execVfsqrt cm d a p s
  | .vfexp2 cm d a p => Sys2Proof.Machine.execVfexp2 cm d a p s
  | .vflog2 cm d a p => Sys2Proof.Machine.execVflog2 cm d a p s
  | .vftanh cm d a p => Sys2Proof.Machine.execVftanh cm d a p s
  | .vfsigm cm d a p => Sys2Proof.Machine.execVfsigm cm d a p s
  | .vfcmp cm pd cond a b p => Sys2Proof.Machine.execVfcmp cm pd cond a b p s
  | .vfred cm d a op p => Sys2Proof.Machine.execVfred cm d a op p s
  | .vfscan cm d a op p => Sys2Proof.Machine.execVfscan cm d a op p s
  | .viadd cm d a b p => Sys2Proof.Machine.execViadd cm d a b p s
  | .visub cm d a b p => Sys2Proof.Machine.execVisub cm d a b p s
  | .vimul cm d a b p => Sys2Proof.Machine.execVimul cm d a b p s
  | .vimulh cm d a b p => Sys2Proof.Machine.execVimulh cm d a b p s
  | .vimin cm d a b p => Sys2Proof.Machine.execVimin cm d a b p s
  | .vimax cm d a b p => Sys2Proof.Machine.execVimax cm d a b p s
  | .viand cm d a b p => Sys2Proof.Machine.execViand cm d a b p s
  | .vior cm d a b p => Sys2Proof.Machine.execVior cm d a b p s
  | .vixor cm d a b p => Sys2Proof.Machine.execVixor cm d a b p s
  | .vishl cm d a b p => Sys2Proof.Machine.execVishl cm d a b p s
  | .vishr cm d a b p => Sys2Proof.Machine.execVishr cm d a b p s
  | .vicmp cm pd cond a b p => Sys2Proof.Machine.execVicmp cm pd cond a b p s
  | .vired cm d a op p => Sys2Proof.Machine.execVired cm d a op p s
  | .viadds cm d a b p => Sys2Proof.Machine.execViadds cm d a b p s
  | .vsel cm d a b p => Sys2Proof.Machine.execVsel cm d a b p s
  | .vmov cm d a p => Sys2Proof.Machine.execVmov cm d a p s
  | .vbcastLine cm d a index p => Sys2Proof.Machine.execVbcastLine cm d a index p s
  | .vbcastScalar cm d sc tag p => Sys2Proof.Machine.execVbcastScalar cm d sc tag p s
  | .vextIndex cm d a index => Sys2Proof.Machine.execVextIndex cm d a index s
  | .vextScalar cm d a sc => Sys2Proof.Machine.execVextScalar cm d a sc s
  | .vinsIndex cm d a index => Sys2Proof.Machine.execVinsIndex cm d a index s
  | .vinsScalar cm d a sc => Sys2Proof.Machine.execVinsScalar cm d a sc s
  | .vshuf cm d a b p => Sys2Proof.Machine.execVshuf cm d a b p s
  | .vargmax cm d a p => Sys2Proof.Machine.execVargmax cm d a p s
  | .vrng cm d p => Sys2Proof.Machine.execVrng cm d p s
  | .plopLogical cm pd pa pb table => Sys2Proof.Machine.execPlopLogical cm pd pa pb table s
  | .plopFirst cm pd a => Sys2Proof.Machine.execPlopFirst cm pd a s
  | .pcnt cm d pa pb first => Sys2Proof.Machine.execPcnt cm d pa pb first s
  | .mshape cm shape => Sys2Proof.Machine.execMshape cm shape s
  | .mma cm acc ga gb bo init => Sys2Proof.Machine.execMma cm acc ga gb bo init s
  | .mmas cm acc ga gb bo init => Sys2Proof.Machine.execMmas cm acc ga gb bo init s
  | .mmac cm acc ga gb bo init => Sys2Proof.Machine.execMmac cm acc ga gb bo init s
  | .mzero cm acc bo => Sys2Proof.Machine.execMzero cm acc bo s
  | .mplane cm acc ga bo fmt block => Sys2Proof.Machine.execMplane cm acc ga bo fmt block s
  | .mspack cm acc ga bo fmt group => Sys2Proof.Machine.execMspack cm acc ga bo fmt group s
  | .oqbind cm a role => Sys2Proof.Machine.execOqbind cm a role s
  | .oqunbind cm => Sys2Proof.Machine.execOqunbind cm s
  | .mstat cm d item => Sys2Proof.Machine.execMstat cm d item s
  | .feedpop cm d f a => Sys2Proof.Machine.execFeedpop cm d f a s
  | .feedpush cm d f a nowait => Sys2Proof.Machine.execFeedpush cm d f a nowait s
  | .feedstat cm d f => Sys2Proof.Machine.execFeedstat cm d f s
  | .taskpush cm d t a => Sys2Proof.Machine.execTaskpush cm d t a s
  | .taskpop cm d a => Sys2Proof.Machine.execTaskpop cm d a s
  | .taskdone cm rerun => Sys2Proof.Machine.execTaskdone cm rerun s
  | .sleep cm d mask task => Sys2Proof.Machine.execSleep cm d mask task s
  | .fork cm d f a => Sys2Proof.Machine.execFork cm d f a s
  | .garrive cm a idx rew => Sys2Proof.Machine.execGarrive cm a idx rew s
  | .gwait cm d a idx => Sys2Proof.Machine.execGwait cm d a idx s
  | .gcancel cm a idx => Sys2Proof.Machine.execGcancel cm a idx s
  | .grpstat cm d a => Sys2Proof.Machine.execGrpstat cm d a s
  | .pwracq cm d level nowait => Sys2Proof.Machine.execPwracq cm d level nowait s
  | .pwrrel cm level => Sys2Proof.Machine.execPwrrel cm level s
  | .pwrq cm d item => Sys2Proof.Machine.execPwrq cm d item s
  | .trap cm a code => Sys2Proof.Machine.execTrap cm a code s
  | .brk cm code => Sys2Proof.Machine.execBrk cm code s
  | .hcall cm d a code => Sys2Proof.Machine.execHcall cm d a code s
  | .tret cm => Sys2Proof.Machine.execTret cm s
  | .budget cm d a n => Sys2Proof.Machine.execBudget cm d a n s
  | .discard cm a d kind => Sys2Proof.Machine.execDiscard cm a d kind s
  | .ifence cm => Sys2Proof.Machine.execIfence cm s
  | .yield cm => Sys2Proof.Machine.execYield cm s
  | .rfetch rd rs1 => Sys2Proof.Machine.execRfetch rd rs1 s
  | .bfext rd rs1 rs2 => Sys2Proof.Machine.execBfext rd rs1 rs2 s
  | .swait rd rs1 rs2 => Sys2Proof.Machine.execSwait rd rs1 rs2 s
  | .pclr rs1 => Sys2Proof.Machine.execPclr rs1 s
  | .dispatch rd rs1 rs2 => Sys2Proof.Machine.execDispatch rd rs1 rs2 s
  | .qsave rd rs1 rs2 => Sys2Proof.Machine.execQsave rd rs1 rs2 s
  | .qload rd rs1 rs2 => Sys2Proof.Machine.execQload rd rs1 rs2 s
  | .qbind rd rs1 rs2 => Sys2Proof.Machine.execQbind rd rs1 rs2 s
  | .instructionRetire core slot y => Sys2Proof.Machine.execInstructionRetire core slot y s
  | .codeFetch core slot y line => Sys2Proof.Machine.execCodeFetch core slot y line s
  | .waitTimeout core slot y => Sys2Proof.Machine.execWaitTimeout core slot y s
  | .trapEntry core slot => Sys2Proof.Machine.execTrapEntry core slot s
  | .budgetExpiry core slot => Sys2Proof.Machine.execBudgetExpiry core slot s
  | .generatorRefill core slot g => Sys2Proof.Machine.execGeneratorRefill core slot g s
  | .scrubPass core corrTile corrSpad found => Sys2Proof.Machine.execScrubPass core corrTile corrSpad found s
  | .leaseExpiry core line => Sys2Proof.Machine.execLeaseExpiry core line s
  | .timeRebase amount => Sys2Proof.Machine.execTimeRebase amount s
  | .tableWalk core slot va acc => Sys2Proof.Machine.execTableWalk core slot va acc s
  | .pageMigrationSwitch page dest lock => Sys2Proof.Machine.execPageMigrationSwitch page dest lock s
  | .lazyPageLoad guest ia => Sys2Proof.Machine.execLazyPageLoad guest ia s
  | .copy core slot q seq n => Sys2Proof.Machine.execCopy core slot q seq n s
  | .gather core slot q seq n => Sys2Proof.Machine.execGather core slot q seq n s
  | .scatter core slot q seq n => Sys2Proof.Machine.execScatter core slot q seq n s
  | .reduce core slot q seq n => Sys2Proof.Machine.execReduce core slot q seq n s
  | .fill core slot q seq n => Sys2Proof.Machine.execFill core slot q seq n s
  | .chainFetch core slot q => Sys2Proof.Machine.execChainFetch core slot q s
  | .commandComplete core slot q seq => Sys2Proof.Machine.execCommandComplete core slot q seq s
  | .engineTimeout core slot q seq => Sys2Proof.Machine.execEngineTimeout core slot q seq s
  | .matrixComplete core slot n residue => Sys2Proof.Machine.execMatrixComplete core slot n residue s
  | .jointOperationStart core slot => Sys2Proof.Machine.execJointOperationStart core slot s
  | .launch queue => Sys2Proof.Machine.execLaunch queue s
  | .instanceBind launch inst => Sys2Proof.Machine.execInstanceBind launch inst s
  | .instanceComplete core slot => Sys2Proof.Machine.execInstanceComplete core slot s
  | .launchCompletionPost launch => Sys2Proof.Machine.execLaunchCompletionPost launch s
  | .dependenceMet task => Sys2Proof.Machine.execDependenceMet task s
  | .taskPlace task => Sys2Proof.Machine.execTaskPlace task s
  | .taskAgeingExpiry task => Sys2Proof.Machine.execTaskAgeingExpiry task s
  | .taskSteal task core slot => Sys2Proof.Machine.execTaskSteal task core slot s
  | .groupTimeout pa => Sys2Proof.Machine.execGroupTimeout pa s
  | .groupComplete pa => Sys2Proof.Machine.execGroupComplete pa s
  | .powerGrant core slot => Sys2Proof.Machine.execPowerGrant core slot s
  | .loanReclaim partition => Sys2Proof.Machine.execLoanReclaim partition s
  | .loanRestore partition => Sys2Proof.Machine.execLoanRestore partition s
  | .clockRequest cluster v => Sys2Proof.Machine.execClockRequest cluster v s
  | .clockSwitch cluster => Sys2Proof.Machine.execClockSwitch cluster s
  | .voteWithdraw cluster => Sys2Proof.Machine.execVoteWithdraw cluster s
  | .railHoldExpiry rail => Sys2Proof.Machine.execRailHoldExpiry rail s
  | .railMove cluster v => Sys2Proof.Machine.execRailMove cluster v s
  | .stallSample cluster active mem pwr => Sys2Proof.Machine.execStallSample cluster active mem pwr s
  | .pwrStallRead cluster half => Sys2Proof.Machine.execPwrStallRead cluster half s
  | .thermalSample temps => Sys2Proof.Machine.execThermalSample temps s
  | .throttleStep cluster => Sys2Proof.Machine.execThrottleStep cluster s
  | .tripResume by_ => Sys2Proof.Machine.execTripResume by_ s
  | .idleEntry => Sys2Proof.Machine.execIdleEntry s
  | .idleExit => Sys2Proof.Machine.execIdleExit s
  | .wakeInputRise => Sys2Proof.Machine.execWakeInputRise s
  | .wakeInputFall => Sys2Proof.Machine.execWakeInputFall s
  | .supplyRemoval => Sys2Proof.Machine.execSupplyRemoval s
  | .preemptRequest core slot why blocks => Sys2Proof.Machine.execPreemptRequest core slot why blocks s
  | .contextSave core slot => Sys2Proof.Machine.execContextSave core slot s
  | .contextRestore saved => Sys2Proof.Machine.execContextRestore saved s
  | .xlateInv v => Sys2Proof.Machine.execXlateInv v s
  | .invalidationComplete => Sys2Proof.Machine.execInvalidationComplete s
  | .kick ring tail => Sys2Proof.Machine.execKick ring tail s
  | .ringConfigWrite by_ ring off size v => Sys2Proof.Machine.execRingConfigWrite by_ ring off size v s
  | .ageTick => Sys2Proof.Machine.execAgeTick s
  | .completionEntryWrite guest => Sys2Proof.Machine.execCompletionEntryWrite guest s
  | .eventRecordPost fw => Sys2Proof.Machine.execEventRecordPost fw s
  | .fwAnswerResume ticket => Sys2Proof.Machine.execFwAnswerResume ticket s
  | .fwAnswerDiscard ticket => Sys2Proof.Machine.execFwAnswerDiscard ticket s
  | .fwAnswerResult ticket => Sys2Proof.Machine.execFwAnswerResult ticket s
  | .contractWrite by_ guest off size v => Sys2Proof.Machine.execContractWrite by_ guest off size v s
  | .wayChg guest => Sys2Proof.Machine.execWayChg guest s
  | .partitionConfigWrite part off access v => Sys2Proof.Machine.execPartitionConfigWrite part off access v s
  | .queueConfigWrite queue off access v => Sys2Proof.Machine.execQueueConfigWrite queue off access v s
  | .windowBoundary part => Sys2Proof.Machine.execWindowBoundary part s
  | .tileTimeExhausted guest => Sys2Proof.Machine.execTileTimeExhausted guest s
  | .partMovePairs src dst mask => Sys2Proof.Machine.execPartMovePairs src dst mask s
  | .partMoveSlices src dst mask => Sys2Proof.Machine.execPartMoveSlices src dst mask s
  | .partMoveChannels src dst mask => Sys2Proof.Machine.execPartMoveChannels src dst mask s
  | .partMoveLanes src dst mask lane => Sys2Proof.Machine.execPartMoveLanes src dst mask lane s
  | .functionLevelReset fn => Sys2Proof.Machine.execFunctionLevelReset fn s
  | .vfReset vf => Sys2Proof.Machine.execVfReset vf s
  | .guestReset side guest => Sys2Proof.Machine.execGuestReset side guest s
  | .memoryTempSample ctrl temp rate => Sys2Proof.Machine.execMemoryTempSample ctrl temp rate s
  | .registerWrite by_ addr size v => Sys2Proof.Machine.execRegisterWrite by_ addr size v s
  | .windowRead fn off size => Sys2Proof.Machine.execWindowRead fn off size s
  | .windowWrite fn off bytes => Sys2Proof.Machine.execWindowWrite fn off bytes s
  | .cqHeadWrite fn head => Sys2Proof.Machine.execCqHeadWrite fn head s
  | .hostLinkDown => Sys2Proof.Machine.execHostLinkDown s
  | .peerWrite addr bytes => Sys2Proof.Machine.execPeerWrite addr bytes s
  | .peerAtomic addr op width v expect => Sys2Proof.Machine.execPeerAtomic addr op width v expect s
  | .walzelLinkDown link => Sys2Proof.Machine.execWalzelLinkDown link s
  | .cameraFrame stream bytes => Sys2Proof.Machine.execCameraFrame stream bytes s
  | .cameraPeriodEnd stream => Sys2Proof.Machine.execCameraPeriodEnd stream s
  | .displayPeriodStart stream => Sys2Proof.Machine.execDisplayPeriodStart stream s
  | .mboxGo => Sys2Proof.Machine.execMboxGo s
  | .getStatus side => Sys2Proof.Machine.execGetStatus side s
  | .lockAcquire side => Sys2Proof.Machine.execLockAcquire side s
  | .lockRelease side => Sys2Proof.Machine.execLockRelease side s
  | .partMove side v => Sys2Proof.Machine.execPartMove side v s
  | .streamSet side stream v => Sys2Proof.Machine.execStreamSet side stream v s
  | .powerSet side votes clocks => Sys2Proof.Machine.execPowerSet side votes clocks s
  | .powerState side target mask idle => Sys2Proof.Machine.execPowerState side target mask idle s
  | .debugUnlock side token => Sys2Proof.Machine.execDebugUnlock side token s
  | .nonceExpiry => Sys2Proof.Machine.execNonceExpiry s
  | .debugAccess core slot op => Sys2Proof.Machine.execDebugAccess core slot op s
  | .getVersion => Sys2Proof.Machine.execGetVersion s
  | .getCapabilities => Sys2Proof.Machine.execGetCapabilities s
  | .negotiateAlgorithms slots => Sys2Proof.Machine.execNegotiateAlgorithms slots s
  | .getDigests => Sys2Proof.Machine.execGetDigests s
  | .getCertificate chain => Sys2Proof.Machine.execGetCertificate chain s
  | .challenge chain nonce => Sys2Proof.Machine.execChallenge chain nonce s
  | .getMeasurements chain block sign => Sys2Proof.Machine.execGetMeasurements chain block sign s
  | .keyExchange chain data => Sys2Proof.Machine.execKeyExchange chain data s
  | .finish session => Sys2Proof.Machine.execFinish session s
  | .endSession session => Sys2Proof.Machine.execEndSession session s
  | .keyOnBoot => Sys2Proof.Machine.execKeyOnBoot s
  | .walzelLinkUp link width => Sys2Proof.Machine.execWalzelLinkUp link width s
  | .hostLinkUp width rate => Sys2Proof.Machine.execHostLinkUp width rate s
  | .crcFailure link => Sys2Proof.Machine.execCrcFailure link s
  | .peerRead addr size => Sys2Proof.Machine.execPeerRead addr size s
  | .railRampComplete rail => Sys2Proof.Machine.execRailRampComplete rail s

end Sys2Proof.Machine
end

