-- ==== Sys2Proof/Machine/Pass.lean ====
section
/-! DEFINITION. The time that passes before a move, and what it counts: cycles, waits, stalls, charges. -/
namespace Sys2Proof.Machine

/-! ### What the word at a head waits for -/

/-- Why the word at the head of a sequencer does not issue: its coupling condition (05 R110), power (13 R324), or an LD or
a store slot (13 R334). -/
structure HeadWait where
  coupling : Option Wait
  power : Bool
  mem : Bool
  deriving DecidableEq, Repr, Inhabited

/-- A head that issues, traps, or waits for code. -/
def HeadWait.none : HeadWait := ⟨Option.none, false, false⟩

/-- What the head of a sequencer waits for in the present state: what its word would come to now. -/
def State.headWait (s : State) (core slot : Nat) (y : Sq) : HeadWait :=
  let s := s.asWho ⟨core, slot, y⟩
  match s.head with
  | .done _ => HeadWait.none
  | .run i =>
    match exec i s with
    | .next t =>
      if t.me.stop != s.me.stop || t.me.handler != s.me.handler then HeadWait.none
      else ⟨t.sq.waiting, t.sq.stalled, t.sq.memWait⟩
    | .fault _ | .refused _ => HeadWait.none

/-- A sequencer over some cycles in which its head waits as it does now: the watchdog counts those of a coupling wait,
until it is due (05 R110). -/
def State.waitOver (s : State) (core slot n : Nat) (y : Sq) (q : Seqr) : Seqr :=
  if q.done || decide (watchLimit (s.ctx core slot) q < q.waited) then q
  else
    let w := s.headWait core slot y
    { q with waiting := w.coupling, stalled := w.power, memWait := w.mem
             waited := if w.coupling.isSome then q.waited + n else q.waited }

/-- A context over some cycles: its waits, which stand while it sleeps or does not run, and its budget. -/
def State.ctxOver (s : State) (k n : Nat) (c : Ctx) : Ctx :=
  if !c.bound || n = 0 then c
  else
    let f := s.waitOver (k / 4) (k % 4) n
    let c := if c.asleep || !c.running then c
      else { c with seq := ⟨f .c c.seq.c, f .l c.seq.l, f .x c.seq.x, f .s c.seq.s⟩ }
    c.spend n

/-! ### The stall counters (13 R334) -/

/-- The contexts of a cluster that are bound and not asleep. -/
def State.awake (s : State) (n : Nat) : List Ctx :=
  (s.ctxs.filter fun e => clusterOf (e.1 / 4) == n && e.2.bound && !e.2.asleep).map (·.2)

/-- A cluster's counters over some cycles: active while a context of it is awake; a memory stall while every sequencer of
those that has not ended waits for an LD or a store slot; a power stall while a word of the cluster waits for units or
for a grant. -/
def State.countStalls (s : State) (cyc n : Nat) : State :=
  let cs := s.awake n
  if cyc = 0 || cs.isEmpty then s
  else
    let qs := (cs.flatMap fun c => [c.seq.c, c.seq.l, c.seq.x, c.seq.s]).filter fun q => !q.done
    let mem := qs.all (·.memWait)
    let pwr := qs.any (·.stalled) || cs.any fun c => !c.power.waits.isEmpty
    let c := s.cluster n
    s.setCluster n { c with
      nActive := c.nActive + cyc
      nMem := c.nMem + if mem then cyc else 0
      nPwr := c.nPwr + if pwr then cyc else 0 }

/-! ### The passing of time -/

/-- Microseconds that may pass before a window of a running frame ends: WINDOW_BOUNDARY comes at its time, before any more
time passes (15 R394, 18 R409). DEDUCED, safe: log 99. -/
def State.untilEdge (s : State) (us : Nat) : Nat :=
  if !s.powered then us else
  (List.range 8).foldl (fun a p =>
    let x := s.part p
    if x.enabled && !x.run.isEmpty && !x.off then min a (x.edge - s.time) else a) us

/-- The core whose cycles pass with a move. -/
def moveCore (m : Move) : Option Nat :=
  match m.act with
  | .issue core _ _ => some core
  | .fw _ | .vesper | .event _ => none

/-- A scheduler core or Vesper over some cycles: mcycle counts them. PRESUMED, unsafe: log 12. -/
def FwCore.over (c : FwCore) (n : Nat) : FwCore :=
  if n = 0 || !c.released then c else { c with mcycle := c.mcycle + BitVec.ofNat 64 n }

/-- Scheduler cores and Vesper over the time of a move: 1,500 cycles a µs (15 R371). -/
def State.firmwareOver (s : State) (us : Nat) (m : Move) : State :=
  let extra (n : Nat) : Nat := match m.act with
    | .fw k => if k = n then m.cycles else 0
    | .issue _ _ _ | .vesper | .event _ => 0
  let v := match m.act with
    | .vesper => m.cycles
    | .issue _ _ _ | .fw _ | .event _ => 0
  { s with
    fws := s.fws.mapAll FwCore.empty fun n c => c.over (1500 * us + extra n)
    vesper := { s.vesper with core := s.vesper.core.over (1500 * us + v) } }

/-- The time that passes with a move: microseconds for the whole part, and cycles of the moving core.
DESIGN CHOICE, safe: log 5, 91. -/
def State.pass (s : State) (m : Move) : State :=
  let us := s.untilEdge m.us
  if us = 0 && m.cycles = 0 then s else
  let cyc (core : Nat) : Nat :=
    s.cyclesOf core us + (if moveCore m = some core && s.clocksRun then m.cycles else 0)
  let counted : State := { s with ctxs := s.ctxs.mapAll Ctx.empty fun k c => s.ctxOver k (cyc (k / 4)) c }
  let counted := (List.range 8).foldl (fun z n =>
    z.countStalls (s.cyclesOf (firstCore n) us +
      (if (moveCore m).map clusterOf = some n && s.clocksRun then m.cycles else 0)) n) counted
  let counted := counted.firmwareOver us m
  let counted := match moveCore m with
    | some core => if us = 0 then counted.setCore core { s.core core with cycle := (s.core core).cycle + cyc core } else counted
    | none => counted
  if us = 0 then counted else
  let z := (List.range 64).foldl (fun z n => z.setCore n { s.core n with cycle := (s.core n).cycle + cyc n }) counted
  let z := (List.range 4).foldl (fun z r => z.ramp us r) z
  let z := (z.groups.foldl (fun z e => z.groupClock us e.1) z).noteCounters
  let z := z.chargeTiles us
  { z with
    time := z.time + us
    free := z.free + 1
    power := { z.power with quietSince := if z.quietNow then z.power.quietSince else z.time + us }
    buckets := z.buckets.mapAll default fun k b => b.gain us (z.free + k)
    ctrlBuckets := z.ctrlBuckets.mapAll default fun k b => b.gain us (z.free + 512 + k) }
where
  /-- The first core of a cluster (01 R10). -/
  firstCore (n : Nat) : Nat := n / 4 * 32 + n % 4 / 2 * 16 + n % 2 * 4

end Sys2Proof.Machine
end

