-- ==== Sys2Proof/Machine/Place.lean ====
section
/-! DEFINITION. An instruction placed where the next step fetches (State.withFetchWord). -/
namespace Sys2Proof.Machine

/-- The sequencer of a context that runs an opcode, for `placeWord`: the first in the order C, L, X, S that
Table 2.17 of 02 permits. -/
def seqFor (opc : Nat) : Sq := (Sq.order.find? (permitted opc)).getD .c

/-- A context bound with nothing set, for `placeWord`: numeric version 2, every local resource of a core,
and the highest power level. -/
def Ctx.fresh : Ctx :=
  { Ctx.empty with
    bound := true, nbv := 2, tilesN := 32, gensN := 8, ringsN := 16, powerMax := 15
    power := { CtxPower.empty with g := 15, a := 15 }
    seq := Quad.all { Seqr.empty with ended := false, done := false } }

/-- A compute-core word placed in the code ring of a sequencer at address 0 of a context at core 0, slot 0;
the next move is that sequencer's. DESIGN CHOICE, safe: log 16. -/
def State.placeWord (s : State) (w : Nat) : State :=
  let y := seqFor (opcOf (BitVec.ofNat 64 w))
  let c := Ctx.fresh
  let q := { c.seq.get y with
    ring := [(0, ⟨[BitVec.ofNat 64 w, BitVec.ofNat 64 (w / 2 ^ 64)] ++ List.replicate 14 0, none⟩)] }
  { s.setCtx 0 0 (c.setSeq y q) with moves := [⟨0, 0, .issue 0 0 y⟩] }

/-- A scheduler-core word placed in the SRAM of scheduler core 0 at its pc; the core is released and the
next move is its. -/
def State.placeFw (s : State) (w : Nat) : State :=
  let c := s.fwCore 0
  { s.setFw 0 { c with released := true, sram := c.sram.write c.pc.toNat (leBytes 4 w) } with
    moves := [⟨0, 0, .fw 0⟩] }

end Sys2Proof.Machine
end

