-- ==== Sys2Proof/Machine/RvDecode.lean ====
section
/-! DEFINITION. The words of the RISC-V base of the control complex: RV64IMAC with Zicsr and Zifencei on a scheduler core
(15 R371), RV32IMC on Vesper's core (R373). 00 scope gives their behaviour to the RISC-V specifications.
PRESUMED, unsafe: log 12. -/
namespace Sys2Proof.Machine

/-- What an arithmetic word computes. -/
inductive RvAlu where
  | add | sub | sll | slt | sltu | xor | srl | sra | or | and
  | mul | mulh | mulhsu | mulhu | div | divu | rem | remu
  deriving DecidableEq, Repr, Inhabited

/-- What an AMO computes. -/
inductive RvAmo where
  | swap | add | xor | and | or | min | max | minu | maxu
  deriving DecidableEq, Repr, Inhabited

/-- What a branch compares. -/
inductive RvCond where
  | eq | ne | lt | ge | ltu | geu
  deriving DecidableEq, Repr, Inhabited

/-- A second operand: a register or an immediate. -/
inductive RvSrc where
  | reg (r : BitVec 5)
  | imm (v : Word)
  deriving DecidableEq, Repr, Inhabited

/-- A word of the base set. `w` of `op` says that it acts on 32 bits of a 64-bit core. -/
inductive Rv where
  | lui (rd : BitVec 5) (v : Word)
  | auipc (rd : BitVec 5) (v : Word)
  | jal (rd : BitVec 5) (off : Word)
  | jalr (rd rs1 : BitVec 5) (off : Word)
  | branch (f : RvCond) (rs1 rs2 : BitVec 5) (off : Word)
  | load (rd rs1 : BitVec 5) (off : Word) (bytes : Nat) (signed : Bool)
  | store (rs1 rs2 : BitVec 5) (off : Word) (bytes : Nat)
  | op (f : RvAlu) (w : Bool) (rd rs1 : BitVec 5) (src : RvSrc)
  | lr (rd rs1 : BitVec 5) (bytes : Nat)
  | sc (rd rs1 rs2 : BitVec 5) (bytes : Nat)
  | amo (f : RvAmo) (rd rs1 rs2 : BitVec 5) (bytes : Nat)
  | csr (kind : Nat) (rd : BitVec 5) (src : RvSrc) (n : Nat)
  | nop
  | ecall | ebreak | mret
  | illegal
  deriving DecidableEq, Repr, Inhabited

/-! ### Words of 32 bits -/

/-- A field of a word. -/
def rvField (w : BitVec 32) (lo n : Nat) : BitVec n := w.extractLsb' lo n

/-- The immediate of 12 bits of the I form. -/
def immI (w : BitVec 32) : Word := (rvField w 20 12).signExtend 64

/-- The immediate of the S form. -/
def immS (w : BitVec 32) : Word := (rvField w 25 7 ++ rvField w 7 5).signExtend 64

/-- The offset of the B form. -/
def immB (w : BitVec 32) : Word :=
  (rvField w 31 1 ++ rvField w 7 1 ++ rvField w 25 6 ++ rvField w 8 4 ++ 0#1).signExtend 64

/-- The immediate of the U form. -/
def immU (w : BitVec 32) : Word := (rvField w 12 20 ++ 0#12).signExtend 64

/-- The offset of the J form. -/
def immJ (w : BitVec 32) : Word :=
  (rvField w 31 1 ++ rvField w 12 8 ++ rvField w 20 1 ++ rvField w 21 10 ++ 0#1).signExtend 64

/-- The arithmetic of funct3, for the plain words. -/
def rvAlu (f3 : Nat) : RvAlu :=
  match f3 with
  | 0 => .add | 1 => .sll | 2 => .slt | 3 => .sltu | 4 => .xor | 5 => .srl | 6 => .or | _ => .and

/-- The arithmetic of funct3, for the M words. -/
def rvMul (f3 : Nat) : RvAlu :=
  match f3 with
  | 0 => .mul | 1 => .mulh | 2 => .mulhsu | 3 => .mulhu | 4 => .div | 5 => .divu | 6 => .rem | _ => .remu

/-- The register form of an arithmetic word. -/
def rvOp (f7 f3 : Nat) : Option RvAlu :=
  if f7 = 0 then some (rvAlu f3)
  else if f7 = 1 then some (rvMul f3)
  else if f7 = 32 ∧ f3 = 0 then some .sub
  else if f7 = 32 ∧ f3 = 5 then some .sra
  else none

/-- A word of the 32-bit forms of a 64-bit core exists: add, sub, shifts, mul and the divisions. -/
def rvNarrow : RvAlu → Bool
  | .add | .sub | .sll | .srl | .sra | .mul | .div | .divu | .rem | .remu => true
  | .slt | .sltu | .xor | .or | .and | .mulh | .mulhsu | .mulhu => false

/-- The immediate form: shifts hold their amount, of 5 bits or of 6. -/
def rvOpImm (w : BitVec 32) (narrow big : Bool) : Rv :=
  let rd := rvField w 7 5
  let rs1 := rvField w 15 5
  let f3 := (rvField w 12 3).toNat
  let long := big && !narrow
  let top := (if long then (rvField w 26 6).toNat * 2 else (rvField w 25 7).toNat)
  let sh : Word := if long then (rvField w 20 6).setWidth 64 else (rvField w 20 5).setWidth 64
  let op (f : RvAlu) (v : Word) : Rv := .op f narrow rd rs1 (.imm v)
  match f3 with
  | 1 => if top = 0 then op .sll sh else .illegal
  | 5 => if top = 0 then op .srl sh else if top = 32 then op .sra sh else .illegal
  | 0 => op .add (immI w)
  | k => if narrow then .illegal else op (rvAlu k) (immI w)

/-- The A words. -/
def rvAtomic (w : BitVec 32) : Rv :=
  let rd := rvField w 7 5
  let rs1 := rvField w 15 5
  let rs2 := rvField w 20 5
  let f3 := (rvField w 12 3).toNat
  let n := if f3 = 2 then 4 else 8
  if f3 ≠ 2 ∧ f3 ≠ 3 then .illegal
  else match (rvField w 27 5).toNat with
    | 2 => if rs2 = 0 then .lr rd rs1 n else .illegal
    | 3 => .sc rd rs1 rs2 n
    | 1 => .amo .swap rd rs1 rs2 n
    | 0 => .amo .add rd rs1 rs2 n
    | 4 => .amo .xor rd rs1 rs2 n
    | 12 => .amo .and rd rs1 rs2 n
    | 8 => .amo .or rd rs1 rs2 n
    | 16 => .amo .min rd rs1 rs2 n
    | 20 => .amo .max rd rs1 rs2 n
    | 24 => .amo .minu rd rs1 rs2 n
    | 28 => .amo .maxu rd rs1 rs2 n
    | _ => .illegal

/-- The SYSTEM words: of the privileged ones, those of a core with machine mode alone. -/
def rvSystem (w : BitVec 32) : Rv :=
  let f3 := (rvField w 12 3).toNat
  let n := (rvField w 20 12).toNat
  let rs1 := rvField w 15 5
  if f3 = 0 then
    (if w = 0x00000073 then .ecall else if w = 0x00100073 then .ebreak else if w = 0x30200073 then .mret
     else if w = 0x10500073 then .nop else .illegal)
  else if f3 = 4 then .illegal
  else .csr (f3 % 4) (rvField w 7 5) (if f3 < 4 then .reg rs1 else .imm (rs1.setWidth 64)) n

/-- A word of 32 bits; `big` says a 64-bit core, which alone has the A words and FENCE.I. -/
def rvDecode32 (big : Bool) (w : BitVec 32) : Rv :=
  let rd := rvField w 7 5
  let rs1 := rvField w 15 5
  let rs2 := rvField w 20 5
  let f3 := (rvField w 12 3).toNat
  match (rvField w 0 7).toNat with
  | 0x37 => .lui rd (immU w)
  | 0x17 => .auipc rd (immU w)
  | 0x6F => .jal rd (immJ w)
  | 0x67 => if f3 = 0 then .jalr rd rs1 (immI w) else .illegal
  | 0x63 =>
    match f3 with
    | 0 => .branch .eq rs1 rs2 (immB w)
    | 1 => .branch .ne rs1 rs2 (immB w)
    | 4 => .branch .lt rs1 rs2 (immB w)
    | 5 => .branch .ge rs1 rs2 (immB w)
    | 6 => .branch .ltu rs1 rs2 (immB w)
    | 7 => .branch .geu rs1 rs2 (immB w)
    | _ => .illegal
  | 0x03 =>
    if f3 = 7 ∨ ((f3 = 3 ∨ f3 = 6) ∧ big = false) then .illegal
    else .load rd rs1 (immI w) (2 ^ (f3 % 4)) (decide (f3 < 4))
  | 0x23 => if 4 ≤ f3 ∨ (f3 = 3 ∧ big = false) then .illegal else .store rs1 rs2 (immS w) (2 ^ f3)
  | 0x13 => rvOpImm w false big
  | 0x1B => if big then rvOpImm w true big else .illegal
  | 0x33 =>
    match rvOp (rvField w 25 7).toNat f3 with
    | some f => .op f false rd rs1 (.reg rs2)
    | none => .illegal
  | 0x3B =>
    match rvOp (rvField w 25 7).toNat f3 with
    | some f => if big && rvNarrow f then .op f true rd rs1 (.reg rs2) else .illegal
    | none => .illegal
  | 0x0F => if f3 = 0 ∨ (f3 = 1 ∧ big = true) then .nop else .illegal
  | 0x2F => if big then rvAtomic w else .illegal
  | 0x73 => rvSystem w
  | _ => .illegal

/-! ### Words of 16 bits (C) -/

/-- A register of three bits. -/
def rvShort (w : BitVec 32) (lo : Nat) : BitVec 5 := 1#2 ++ rvField w lo 3

/-- The immediate of 6 bits. -/
def immC (w : BitVec 32) : Word := (rvField w 12 1 ++ rvField w 2 5).signExtend 64

/-- The shift amount of 6 bits. -/
def shamtC (w : BitVec 32) : Word := (rvField w 12 1 ++ rvField w 2 5).setWidth 64

/-- The offset of c.j and c.jal. -/
def immCJ (w : BitVec 32) : Word :=
  (rvField w 12 1 ++ rvField w 8 1 ++ rvField w 9 2 ++ rvField w 6 1 ++ rvField w 7 1 ++ rvField w 2 1 ++ rvField w 11 1 ++
    rvField w 3 3 ++ 0#1).signExtend 64

/-- The offset of c.beqz and c.bnez. -/
def immCB (w : BitVec 32) : Word :=
  (rvField w 12 1 ++ rvField w 5 2 ++ rvField w 2 1 ++ rvField w 10 2 ++ rvField w 3 2 ++ 0#1).signExtend 64

/-- The offset of c.lw and c.sw. -/
def immCW (w : BitVec 32) : Word := (rvField w 5 1 ++ rvField w 10 3 ++ rvField w 6 1 ++ 0#2).setWidth 64

/-- The offset of c.ld and c.sd. -/
def immCD (w : BitVec 32) : Word := (rvField w 5 2 ++ rvField w 10 3 ++ 0#3).setWidth 64

/-- Quadrant 0. -/
def rvC0 (big : Bool) (w : BitVec 32) : Rv :=
  let rd := rvShort w 2
  let rs1 := rvShort w 7
  match (rvField w 13 3).toNat with
  | 0 =>
    let v : Word := (rvField w 7 4 ++ rvField w 11 2 ++ rvField w 5 1 ++ rvField w 6 1 ++ 0#2).setWidth 64
    if v = 0 then .illegal else .op .add false rd 2 (.imm v)
  | 2 => .load rd rs1 (immCW w) 4 true
  | 3 => if big then .load rd rs1 (immCD w) 8 true else .illegal
  | 6 => .store rs1 rd (immCW w) 4
  | 7 => if big then .store rs1 rd (immCD w) 8 else .illegal
  | _ => .illegal

/-- The arithmetic of quadrant 1. -/
def rvC1Alu (big : Bool) (w : BitVec 32) : Rv :=
  let rd := rvShort w 7
  let wide := !big && w.getLsbD 12
  let two (f : RvAlu) (narrow : Bool) : Rv := .op f narrow rd rd (.reg (rvShort w 2))
  match (rvField w 10 2).toNat with
  | 0 => if wide then .illegal else .op .srl false rd rd (.imm (shamtC w))
  | 1 => if wide then .illegal else .op .sra false rd rd (.imm (shamtC w))
  | 2 => .op .and false rd rd (.imm (immC w))
  | _ =>
    match (rvField w 12 1).toNat, (rvField w 5 2).toNat with
    | 0, 0 => two .sub false
    | 0, 1 => two .xor false
    | 0, 2 => two .or false
    | 0, _ => two .and false
    | _, 0 => if big then two .sub true else .illegal
    | _, 1 => if big then two .add true else .illegal
    | _, _ => .illegal

/-- Quadrant 1. -/
def rvC1 (big : Bool) (w : BitVec 32) : Rv :=
  let rd := rvField w 7 5
  match (rvField w 13 3).toNat with
  | 0 => .op .add false rd rd (.imm (immC w))
  | 1 => if big then (if rd = 0 then .illegal else .op .add true rd rd (.imm (immC w))) else .jal 1 (immCJ w)
  | 2 => .op .add false rd 0 (.imm (immC w))
  | 3 =>
    if immC w = 0 then .illegal
    else if rd = 2 then
      .op .add false 2 2 (.imm
        ((rvField w 12 1 ++ rvField w 3 2 ++ rvField w 5 1 ++ rvField w 2 1 ++ rvField w 6 1 ++ 0#4).signExtend 64))
    else .lui rd (immC w <<< 12)
  | 4 => rvC1Alu big w
  | 5 => .jal 0 (immCJ w)
  | 6 => .branch .eq (rvShort w 7) 0 (immCB w)
  | _ => .branch .ne (rvShort w 7) 0 (immCB w)

/-- Quadrant 2. -/
def rvC2 (big : Bool) (w : BitVec 32) : Rv :=
  let rd := rvField w 7 5
  let rs2 := rvField w 2 5
  match (rvField w 13 3).toNat with
  | 0 => if !big && w.getLsbD 12 then .illegal else .op .sll false rd rd (.imm (shamtC w))
  | 2 =>
    if rd = 0 then .illegal
    else .load rd 2 ((rvField w 2 2 ++ rvField w 12 1 ++ rvField w 4 3 ++ 0#2).setWidth 64) 4 true
  | 3 =>
    if rd = 0 ∨ big = false then .illegal
    else .load rd 2 ((rvField w 2 3 ++ rvField w 12 1 ++ rvField w 5 2 ++ 0#3).setWidth 64) 8 true
  | 4 =>
    if w.getLsbD 12 = false then
      (if rs2 ≠ 0 then .op .add false rd 0 (.reg rs2) else if rd = 0 then .illegal else .jalr 0 rd 0)
    else if rs2 ≠ 0 then .op .add false rd rd (.reg rs2)
    else if rd = 0 then .ebreak
    else .jalr 1 rd 0
  | 6 => .store 2 rs2 ((rvField w 7 2 ++ rvField w 9 4 ++ 0#2).setWidth 64) 4
  | 7 => if big then .store 2 rs2 ((rvField w 7 3 ++ rvField w 10 3 ++ 0#3).setWidth 64) 8 else .illegal
  | _ => .illegal

/-- A word is of 16 bits. -/
def rvIsShort (w : BitVec 32) : Bool := w.extractLsb' 0 2 ≠ 3#2

/-- The base word in 32 bits of SRAM. -/
def rvDecode (big : Bool) (w : BitVec 32) : Rv :=
  match (rvField w 0 2).toNat with
  | 0 => rvC0 big w
  | 1 => rvC1 big w
  | 2 => rvC2 big w
  | _ => rvDecode32 big w

end Sys2Proof.Machine
end

