-- ==== Sys2Proof/Machine/Riscv.lean ====
section
/-! DEFINITION. The base instructions of a scheduler core and of Vesper's core (15 R371 to R373): arithmetic, the accesses of
their address maps, CSRs, and interrupts. 00 scope gives what they do to the RISC-V specifications.
PRESUMED, unsafe: log 12. -/
namespace Sys2Proof.Machine

/-! ### The two kinds of core -/

/-- A core of the control complex. -/
def State.agent (s : State) (w : Writer) : FwCore :=
  match w with
  | .sched n => s.fwCore n
  | .vesper => s.vesper.core
  | .host _ => FwCore.empty

/-- A core of the control complex replaced. -/
def State.setAgent (s : State) (w : Writer) (c : FwCore) : State :=
  match w with
  | .sched n => s.setFw n c
  | .vesper => { s with vesper := { s.vesper with core := c } }
  | .host _ => s

/-- A core of 64 bits: Vesper's has 32 (R371, R373). -/
def rvBig : Writer → Bool
  | .sched _ => true
  | .vesper | .host _ => false

/-- Bits of a core's registers. A register of 32 bits stands in State sign-extended. -/
def rvBits (w : Writer) : Nat := if rvBig w then 64 else 32

/-- Bytes of a core's SRAM (Tables 15.1 and 15.1b). -/
def rvSram (w : Writer) : Nat := if rvBig w then sramSize else 2 ^ 18

/-- An address of a core: its registers' bits alone. -/
def rvAddr (w : Writer) (v : Word) : Nat := v.toNat % 2 ^ rvBits w

/-- A core raises an exception. PRESUMED, unsafe: log 13. -/
def State.rvRaise (s : State) (w : Writer) (cause : Nat) (mtval : Word) : State :=
  s.setAgent w ((s.agent w).raise cause mtval)

/-- A base instruction ends: its result, the next pc, and minstret. -/
def State.rvDone (s : State) (w : Writer) (rd : BitVec 5) (v : Word) (next : Nat) : State :=
  let s := { s with power := { s.power with quietSince := s.time } }
  let c := s.agent w
  s.setAgent w { c.setX rd v with pc := BitVec.ofNat 64 (next % 2 ^ rvBits w), minstret := c.minstret + 1, asleep := false }

/-! ### Arithmetic -/

/-- An arithmetic word on operands of some bits; the result is sign-extended. -/
def RvAlu.res (n : Nat) (f : RvAlu) (a b : Word) : Word :=
  let x := a.setWidth n
  let y := b.setWidth n
  let k := y.toNat % n
  let high (p q : BitVec (2 * n)) : BitVec n := (p * q).extractLsb' n n
  let r : BitVec n := match f with
    | .add => x + y
    | .sub => x - y
    | .sll => x <<< k
    | .slt => if x.slt y then 1 else 0
    | .sltu => if x.ult y then 1 else 0
    | .xor => x ^^^ y
    | .srl => x >>> k
    | .sra => x.sshiftRight k
    | .or => x ||| y
    | .and => x &&& y
    | .mul => x * y
    | .mulh => high (x.signExtend (2 * n)) (y.signExtend (2 * n))
    | .mulhsu => high (x.signExtend (2 * n)) (y.setWidth (2 * n))
    | .mulhu => high (x.setWidth (2 * n)) (y.setWidth (2 * n))
    | .div => if y = 0 then BitVec.allOnes n else x.sdiv y
    | .divu => if y = 0 then BitVec.allOnes n else x / y
    | .rem => if y = 0 then x else x.srem y
    | .remu => if y = 0 then x else x % y
  r.signExtend 64

/-- What an AMO of some bits stores. -/
def RvAmo.res (n : Nat) (f : RvAmo) (old v : Word) : Word :=
  let x := old.setWidth n
  let y := v.setWidth n
  let r : BitVec n := match f with
    | .swap => y
    | .add => x + y
    | .xor => x ^^^ y
    | .and => x &&& y
    | .or => x ||| y
    | .min => if y.slt x then y else x
    | .max => if x.slt y then y else x
    | .minu => if y.ult x then y else x
    | .maxu => if x.ult y then y else x
  r.signExtend 64

/-- A branch is taken, on registers held sign-extended. -/
def RvCond.holds (f : RvCond) (a b : Word) : Bool :=
  match f with
  | .eq => a == b
  | .ne => a != b
  | .lt => a.slt b
  | .ge => !a.slt b
  | .ltu => a.ult b
  | .geu => !a.ult b

/-! ### Address maps (Tables 15.1 and 15.1b) -/

/-- What stands at an address of a core's map. -/
inductive RvPlace where
  | sram
  | reg (r : VReg)
  | device (pa : Nat)
  | none
  deriving DecidableEq, Repr, Inhabited

/-- The place at an address: the aperture is a scheduler core's, and holds the memory that is fitted. -/
def rvPlace (w : Writer) (a : Nat) : RvPlace :=
  if a < rvSram w then .sram
  else match w with
    | .sched _ =>
      if 2 ^ 40 ≤ a then (if fitted (a - 2 ^ 40) then .device (a - 2 ^ 40) else .none)
      else match regAt a with
        | some r => .reg (.control r)
        | Option.none => .none
    | .vesper =>
      match vregAt a with
      | some r => .reg r
      | Option.none => .none
    | .host _ => .none

/-- A register read by a core. -/
def State.rvRegRead (s : State) (w : Writer) (r : VReg) (a n : Nat) : Option (State × Word) :=
  match w, r with
  | .sched k, .control r => s.readReg (.sched k) r a n
  | .vesper, r => s.readVReg r a n
  | _, _ => none

/-- A register written by a core. -/
def State.rvRegWrite (s : State) (w : Writer) (r : VReg) (a n : Nat) (v : Word) : Out :=
  match w, r with
  | .sched k, .control r => writeReg (.sched k) r a n v s
  | .vesper, r => writeVReg r a n v s
  | _, _ => .next s

/-- Device memory at its home, as the aperture reaches it. -/
def State.rvHome (s : State) (pa : Nat) : Dram := s.home (s.partOfPa pa) pa

/-- A load of a core: the state after it and the number read; none where the access raises the access fault. A load
through the aperture is a load of T by the core, served at home (R372), and reads a free value of a word that is
uncorrectable. DESIGN CHOICE, safe: log 106. -/
def State.rvLoad (s : State) (w : Writer) (a n : Nat) : Option (State × Nat) :=
  match rvPlace w a with
  | .sram => some (s, (s.agent w).sram.num a n)
  | .reg r => (s.rvRegRead w r a n).map fun e => (e.1, e.2.toNat)
  | .device pa =>
    let (d, t) := (s.rvHome pa).homeLoad (s.agent w).pts 32 pa
    let v := if s.dram.badIn pa n then (Config.freeWord s.free).toNat % 2 ^ (8 * n) else s.dram.bytes.num pa n
    some (({ s with dram := d } : State).fresh.setAgent w { s.agent w with pts := t }, v)
  | .none => none

/-- An access of T at an address waits: its page holds writes (07 R153). -/
def State.rvHeld (s : State) (w : Writer) (a : Nat) : Bool :=
  match rvPlace w a with
  | .device pa => s.locked pa
  | .sram | .reg _ | .none => false

/-- A store of a core, and what follows it; `chain` says an atomic, which extends the releases of its bytes (07 R159). One that
raises the access fault does nothing else. -/
def State.rvStore (s : State) (w : Writer) (a n : Nat) (v : Word) (chain : Bool) (k : State → State) : Out :=
  match rvPlace w a with
  | .sram =>
    let c := s.agent w
    .next (k (s.setAgent w { c with sram := c.sram.write a (leBytes n v.toNat) }))
  | .reg r =>
    if (s.rvRegRead w r a n).isSome then afterNext (s.rvRegWrite w r a n v) k
    else .next (s.rvRaise w 7 (BitVec.ofNat 64 a))
  | .device pa =>
    let (d, t) := (s.rvHome pa).write (s.agent w).pts pa (leBytes n v.toNat) [] chain
    .next (k ((({ s with dram := d } : State).noteCounters).setAgent w { s.agent w with pts := t }))
  | .none => .next (s.rvRaise w 7 (BitVec.ofNat 64 a))

/-- The write time of the line that a reservation holds, zero outside device memory. -/
def State.rvStamp (s : State) (w : Writer) (a : Nat) : Nat :=
  match rvPlace w a with
  | .device pa => ((s.rvHome pa).line pa).wts
  | .sram | .reg _ | .none => 0

/-! ### CSRs (machine level) -/

/-- A word as a core's CSR holds it. -/
def rvWord (w : Writer) (v : Word) : Word := if rvBig w then v else (v.setWidth 32).signExtend 64

/-- The bits of mie and mip that machine mode has: software, timer and external. -/
def rvIrqs : Word := 0x888

/-- A CSR that a core has, as it reads; none for one of the supervisor or user level (R371) and for one that it has not.
mstatus.MPP reads 3. -/
def FwCore.csr (c : FwCore) (w : Writer) (n : Nat) : Option Word :=
  let small := !rvBig w
  let out (v : Word) : Option Word := some (rvWord w v)
  if n = 0x300 then out ((c.mstatus &&& 0x88) ||| 0x1800)
  else if n = 0x301 then out (if small then 0x40001104 else 0x8000000000001105)
  else if n = 0x304 then out c.mie
  else if n = 0x305 then out c.mtvec
  else if n = 0x310 ∧ small = true then out 0
  else if 0x323 ≤ n ∧ n ≤ 0x33F then out 0
  else if n = 0x340 then out c.mscratch
  else if n = 0x341 then out c.mepc
  else if n = 0x342 then out c.mcause
  else if n = 0x343 then out c.mtval
  else if n = 0x344 then out c.mip
  else if n = 0xB00 then out c.mcycle
  else if n = 0xB02 then out c.minstret
  else if 0xB03 ≤ n ∧ n ≤ 0xB1F then out 0
  else if n = 0xB80 ∧ small = true then out (c.mcycle >>> 32)
  else if n = 0xB82 ∧ small = true then out (c.minstret >>> 32)
  else if 0xB83 ≤ n ∧ n ≤ 0xB9F ∧ small = true then out 0
  else if 0xF11 ≤ n ∧ n ≤ 0xF14 then
    out (Config.rvIdentity (match w with | .sched k => k | .vesper | .host _ => 4) n)
  else if n = 0xF15 then out 0
  else none

/-- A CSR written: its writable bits alone. -/
def FwCore.setCsr (c : FwCore) (w : Writer) (n : Nat) (v : Word) : FwCore :=
  let part (old : Word) (high : Bool) : Word :=
    if rvBig w then v
    else if high then (old &&& 0xFFFFFFFF) ||| (v <<< 32)
    else (old &&& ~~~0xFFFFFFFF#64) ||| (v &&& 0xFFFFFFFF)
  if n = 0x300 then { c with mstatus := (v &&& 0x88) ||| 0x1800 }
  else if n = 0x304 then { c with mie := v &&& rvIrqs }
  else if n = 0x305 then { c with mtvec := v &&& ~~~2#64 }
  else if n = 0x340 then { c with mscratch := v }
  else if n = 0x341 then { c with mepc := v &&& ~~~1#64 }
  else if n = 0x342 then { c with mcause := v }
  else if n = 0x343 then { c with mtval := v }
  else if n = 0xB00 then { c with mcycle := part c.mcycle false }
  else if n = 0xB02 then { c with minstret := part c.minstret false }
  else if n = 0xB80 then { c with mcycle := part c.mcycle true }
  else if n = 0xB82 then { c with minstret := part c.minstret true }
  else c

/-- MRET: back to mepc with MIE from MPIE; the mode stays machine (R371). -/
def FwCore.mret (c : FwCore) : FwCore :=
  { c with
    pc := c.mepc
    mstatus := 0x1880 ||| (if c.mstatus.getLsbD 7 then 8 else 0)
    minstret := c.minstret + 1
    asleep := false }

/-- The interrupt that a core takes before its next instruction, where one is pending and enabled: external, software,
timer. -/
def FwCore.interrupt (c : FwCore) : Option Nat :=
  let p := c.mip &&& c.mie
  if !c.mstatus.getLsbD 3 || c.asleep then none
  else if p.getLsbD 11 then some 11
  else if p.getLsbD 3 then some 3
  else if p.getLsbD 7 then some 7
  else none

/-- An interrupt taken: as an exception, with the top bit of mcause, and in the vectored mode of mtvec at the entry of its
cause. -/
def FwCore.takeInterrupt (c : FwCore) (w : Writer) (cause : Nat) : FwCore :=
  let r := c.raise 0 0
  { r with
    mcause := rvWord w (BitVec.ofNat 64 (2 ^ (rvBits w - 1) + cause))
    pc := if c.mtvec.getLsbD 0 then r.pc + BitVec.ofNat 64 (4 * cause) else r.pc }

/-! ### The instructions -/

/-- A load, with the widening of its result. -/
def State.rvExecLoad (s : State) (w : Writer) (rd : BitVec 5) (a n : Nat) (signed : Bool) (next : Nat) : Out :=
  if a % n ≠ 0 then .next (s.rvRaise w 4 (BitVec.ofNat 64 a))
  else match s.rvLoad w a n with
    | none => .next (s.rvRaise w 5 (BitVec.ofNat 64 a))
    | some (s, v) => .next (s.rvDone w rd (if signed then sext64 (8 * n) v else BitVec.ofNat 64 v) next)

/-- A store. -/
def State.rvExecStore (s : State) (w : Writer) (a n : Nat) (v : Word) (next : Nat) : Out :=
  if a % n ≠ 0 then .next (s.rvRaise w 6 (BitVec.ofNat 64 a))
  else if s.rvHeld w a then .next s
  else s.rvStore w a n v false fun s => s.rvDone w 0 0 next

/-- LR: a load that reserves what it reads. -/
def State.rvExecLr (s : State) (w : Writer) (rd : BitVec 5) (a n : Nat) (next : Nat) : Out :=
  if a % n ≠ 0 then .next (s.rvRaise w 4 (BitVec.ofNat 64 a))
  else match s.rvLoad w a n with
    | none => .next (s.rvRaise w 5 (BitVec.ofNat 64 a))
    | some (t, v) =>
      let t := t.setAgent w { t.agent w with reservation := some (a, n, s.rvStamp w a) }
      .next (t.rvDone w rd (sext64 (8 * n) v) next)

/-- SC: it stores where the reservation names its address and size and nothing has written the line since; it ends the
reservation in any case. -/
def State.rvExecSc (s : State) (w : Writer) (rd : BitVec 5) (a n : Nat) (v : Word) (next : Nat) : Out :=
  let ends (z : State) : State := z.setAgent w { z.agent w with reservation := none }
  if a % n ≠ 0 then .next (s.rvRaise w 6 (BitVec.ofNat 64 a))
  else if rvPlace w a = .none then .next (s.rvRaise w 7 (BitVec.ofNat 64 a))
  else if (s.agent w).reservation ≠ some (a, n, s.rvStamp w a) then .next ((ends s).rvDone w rd 1 next)
  else if s.rvHeld w a then .next s
  else s.rvStore w a n v true fun s => (ends s).rvDone w rd 0 next

/-- AMO: one atomic access of T through the aperture (R372); elsewhere a read and a write. -/
def State.rvExecAmo (s : State) (w : Writer) (f : RvAmo) (rd : BitVec 5) (a n : Nat) (v : Word) (next : Nat) : Out :=
  let go (s : State) (old : Nat) : Out :=
    s.rvStore w a n (f.res (8 * n) (BitVec.ofNat 64 old) v) true fun s => s.rvDone w rd (sext64 (8 * n) old) next
  if a % n ≠ 0 then .next (s.rvRaise w 6 (BitVec.ofNat 64 a))
  else if s.rvHeld w a then .next s
  else match rvPlace w a with
    | .device pa =>
      if s.dram.badIn pa n then go s.fresh ((Config.freeWord s.free).toNat % 2 ^ (8 * n)) else go s (s.dram.bytes.num pa n)
    | .sram | .reg _ | .none =>
      match s.rvLoad w a n with
      | none => .next (s.rvRaise w 7 (BitVec.ofNat 64 a))
      | some (s, old) => go s old

/-- A CSR word: illegal where the core has no such CSR, or where it would write one that is read-only. -/
def State.rvExecCsr (s : State) (w : Writer) (word : Word) (kind : Nat) (rd : BitVec 5) (src : RvSrc) (n next : Nat) : Out :=
  let c := s.agent w
  let v := match src with | .reg r => c.reg r | .imm v => v
  let writes := decide (kind = 1) || (match src with | .reg r => r != 0 | .imm v => v != 0)
  match c.csr w n with
  | none => .next (s.rvRaise w 2 word)
  | some old =>
    if writes && decide (n / 2 ^ 10 = 3) then .next (s.rvRaise w 2 word)
    else
      let s := s.rvDone w rd old next
      let new := if kind = 1 then v else if kind = 2 then old ||| v else old &&& ~~~v
      .next (if writes then s.setAgent w ((s.agent w).setCsr w n new) else s)

/-- A base instruction of a core; `word` are its bits and `len` its bytes. A result of a core of 32 bits is kept
sign-extended. -/
def State.rvExec (s : State) (w : Writer) (word : Word) (len : Nat) (i : Rv) : Out :=
  let c := s.agent w
  let pc := rvAddr w c.pc
  let next := pc + len
  let n := rvBits w
  let at_ (r : BitVec 5) (off : Word) : Nat := rvAddr w (c.reg r + off)
  let link : Word := rvWord w (BitVec.ofNat 64 next)
  match i with
  | .lui rd v => .next (s.rvDone w rd v next)
  | .auipc rd v => .next (s.rvDone w rd (rvWord w (BitVec.ofNat 64 pc + v)) next)
  | .jal rd off => .next (s.rvDone w rd link (rvAddr w (BitVec.ofNat 64 pc + off)))
  | .jalr rd rs1 off => .next (s.rvDone w rd link (at_ rs1 off / 2 * 2))
  | .branch f rs1 rs2 off =>
    .next (s.rvDone w 0 0 (if f.holds (c.reg rs1) (c.reg rs2) then rvAddr w (BitVec.ofNat 64 pc + off) else next))
  | .load rd rs1 off k signed => s.rvExecLoad w rd (at_ rs1 off) k signed next
  | .store rs1 rs2 off k => s.rvExecStore w (at_ rs1 off) k (c.reg rs2) next
  | .op f narrow rd rs1 src =>
    let b := match src with | .reg r => c.reg r | .imm v => v
    .next (s.rvDone w rd (f.res (if narrow then 32 else n) (c.reg rs1) b) next)
  | .lr rd rs1 k => s.rvExecLr w rd (at_ rs1 0) k next
  | .sc rd rs1 rs2 k => s.rvExecSc w rd (at_ rs1 0) k (c.reg rs2) next
  | .amo f rd rs1 rs2 k => s.rvExecAmo w f rd (at_ rs1 0) k (c.reg rs2) next
  | .csr kind rd src k => s.rvExecCsr w word kind rd src k next
  | .nop => .next (s.rvDone w 0 0 next)
  | .ecall => .next (s.rvRaise w 11 0)
  | .ebreak => .next (s.rvRaise w 3 c.pc)
  | .mret => .next (s.setAgent w c.mret)
  | .illegal => .next (s.rvRaise w 2 word)

/-- The base word in some bits of SRAM, executed. -/
def State.rvRun (s : State) (w : Writer) (bits : BitVec 32) : Out :=
  if rvIsShort bits then s.rvExec w (bits.setWidth 64 &&& 0xFFFF) 2 (rvDecode (rvBig w) bits)
  else s.rvExec w (bits.setWidth 64) 4 (rvDecode (rvBig w) bits)

/-! ### Fetch (R371, R373) -/

/-- What a core meets at its pc. -/
inductive RvFetch where
  | word (w : BitVec 32)
  | done (s : State)

/-- The fetch of a core, from its SRAM alone, after an interrupt that it takes: a word of 32 bits may end outside it. -/
def State.rvFetch (s : State) (w : Writer) : RvFetch :=
  let c := s.agent w
  let pc := rvAddr w c.pc
  match c.interrupt with
  | some k => .done (s.setAgent w (c.takeInterrupt w k))
  | none =>
    if rvSram w ≤ pc then .done (s.rvRaise w 1 c.pc)
    else
      let bits := BitVec.ofNat 32 (c.sram.num pc 4)
      if !rvIsShort bits && decide (rvSram w ≤ pc + 2) then .done (s.rvRaise w 1 (BitVec.ofNat 64 (pc + 2)))
      else .word bits

/-- What a scheduler core meets at its pc: an instruction of the extension, a word of the base, or a state in which it has
waited or raised an exception. -/
inductive FwHead where
  | run (i : Instr)
  | base (w : BitVec 32)
  | done (s : State)

/-- The head of the executing scheduler core (R371, R380). DEDUCED, unsafe: log 81. -/
def State.fwHead (s : State) : FwHead :=
  if !s.fwMe.released || s.power.state == .off || s.power.state == .retention then .done s
  else match s.rvFetch (.sched s.fw) with
    | .done s => .done s
    | .word w =>
      match decodeFw w with
      | some i => .run i
      | none => if isExtFw w then .done (s.rvRaise (.sched s.fw) 2 (w.setWidth 64)) else .base w

/-- A move of Vesper's core: it stands in the always-on domain, and runs once boot has loaded it (23 R433). -/
def State.vesperMove (s : State) : Out :=
  if !s.vesper.core.released || s.power.state == .off then .next s
  else match s.rvFetch .vesper with
    | .done s => .next s
    | .word w => s.rvRun .vesper w

end Sys2Proof.Machine
end

