-- ==== Sys2Proof/Machine/Step.lean ====
section
/-! DEFINITION. One step: the next move of `State.moves`, or a free one where it names none. -/
namespace Sys2Proof.Machine

/-- One move: the time that passes before it, and its act. DEDUCED, safe: log 1. DESIGN CHOICE, safe: log 2. -/
def runMove (m : Move) (s : State) : Host.Outcome State Fault Refusal :=
  let s := s.pass m
  match m.act with
  | .issue core slot y =>
    let u := s.asWho ⟨core, slot, y⟩
    match u.head with
    | .run i => afterNext (exec i u) u.settled
    | .done s' => .next (u.settled s')
  | .fw core =>
    match (s.asFw core).fwHead with
    | .run i => exec i (s.asFw core)
    | .base w => (s.asFw core).rvRun (.sched core) w
    | .done s' => .next s'
  | .vesper => s.vesperMove
  | .event i => if isEvent i then exec i s else .next s

/-- The step of the part. -/
def step (s : State) : Host.Outcome State Fault Refusal :=
  match s.moves with
  | [] => runMove (Config.freeMove s.free) { s with free := s.free + 1 }
  | m :: r => runMove m { s with moves := r }

/-- The state with an instruction stored where the next step fetches. A word of 64 bits or more goes into
the code ring of a sequencer that may run it, in a context bound at core 0, slot 0; a word of 32 bits
into the SRAM of scheduler core 0 at its pc. The next move is that sequencer's, or that core's.
DESIGN CHOICE, safe: log 16. -/
def State.withFetchWord (s : State) (nbits w : Nat) : State :=
  if nbits = 32 then s.placeFw w else s.placeWord w

end Sys2Proof.Machine
end

