-- ==== Sys2Proof/Laws/Codec.lean ====
section
/-! SUPPORT. Fields of concatenated bits, and what each field decoder reads from its encoder. -/
namespace Sys2Proof

/-! ### Bit fields of concatenations -/

theorem ext_lo {a b : Nat} (x : BitVec a) (y : BitVec b) (lo n : Nat) (h : lo + n ≤ b) :
    (x ++ y).extractLsb' lo n = y.extractLsb' lo n := by
  apply BitVec.eq_of_getLsbD_eq
  intro i hi
  simp only [BitVec.getLsbD_extractLsb', BitVec.getLsbD_append]
  rw [if_pos (by omega)]

theorem ext_hi {a b : Nat} (x : BitVec a) (y : BitVec b) (lo n : Nat) (h : b ≤ lo) :
    (x ++ y).extractLsb' lo n = x.extractLsb' (lo - b) n := by
  apply BitVec.eq_of_getLsbD_eq
  intro i hi
  simp only [BitVec.getLsbD_extractLsb', BitVec.getLsbD_append]
  rw [if_neg (by omega)]
  congr 2; omega

theorem ext_all {a : Nat} (x : BitVec a) : x.extractLsb' 0 a = x := by
  apply BitVec.eq_of_getLsbD_eq
  intro i hi
  simp [hi]

theorem get_lo {a b : Nat} (x : BitVec a) (y : BitVec b) (i : Nat) (h : i < b) :
    (x ++ y).getLsbD i = y.getLsbD i := by
  rw [BitVec.getLsbD_append, if_pos h]

theorem get_hi {a b : Nat} (x : BitVec a) (y : BitVec b) (i : Nat) (h : b ≤ i) :
    (x ++ y).getLsbD i = x.getLsbD (i - b) := by
  rw [BitVec.getLsbD_append, if_neg (by omega)]

theorem get_bool (b : Bool) : (BitVec.ofBool b).getLsbD 0 = b := by cases b <;> rfl

/-! ### Field decoders after their encoders -/

theorem decSpec_encSpec (d : Spec) : decSpec (encSpec d) = some d := by
  cases d with
  | s n => revert n; decide
  | q y => cases y <;> decide
  | li n => revert n; decide

theorem decDir_encDir (d : Dir) : decDir (encDir d) = d := by cases d <;> decide

theorem decSq_encSq (y : Sq) : decSq (encSq y) = y := by cases y <;> decide

theorem decAmo_encAmo (o : AmoOp) : decAmo (encAmo o) = some o := by cases o <;> decide

theorem decRed_encRed (o : RedOp) : decRed (encRed o) = some o := by cases o <;> decide

theorem decIRed_encIRed (o : IRedOp) : decIRed (encIRed o) = some o := by cases o <;> decide

theorem decTile_encTile (t : TileLine) : decTile (encTile t) = some t := by
  obtain ⟨tile, dir, idx⟩ := t
  have h : (0#1 ++ tile ++ encDir dir ++ idx).getLsbD 11 = false := by
    simp (disch := omega) only [get_hi, Nat.reduceSub]
    rfl
  simp only [decTile, encTile, h]
  simp (disch := omega) only [ext_lo, ext_hi, ext_all, Nat.reduceSub, decDir_encDir]
  rfl

theorem decLine_encLine (t : Line) : decLine (encLine t) = t := by
  cases t with
  | tile t =>
    obtain ⟨tile, dir, idx⟩ := t
    have h : (0#1 ++ tile ++ encDir dir ++ idx).getLsbD 11 = false := by
      simp (disch := omega) only [get_hi, Nat.reduceSub]
      rfl
    simp only [decLine, encTile, encLine, h]
    simp (disch := omega) only [ext_lo, ext_hi, ext_all, Nat.reduceSub, decDir_encDir]
    rfl
  | gen g =>
    have h : (1#1 ++ g ++ 0#8).getLsbD 11 = true := by
      simp (disch := omega) only [get_hi, Nat.reduceSub]
      rfl
    simp only [decLine, encLine, h]
    simp (disch := omega) only [ext_lo, ext_hi, ext_all, Nat.reduceSub]
    rfl

/-! ### The compute-core word -/

theorem opcOf_mkWord (cm : Common) (o : BitVec 8) (op : BitVec 40) : opcOf (mkWord cm o op) = o.toNat := by
  simp only [opcOf, fld, mkWord]
  simp (disch := omega) only [ext_lo, ext_hi, ext_all, Nat.reduceSub]

theorem decCommon_mkWord (cm : Common) (o : BitVec 8) (op : BitVec 40) : decCommon (mkWord cm o op) = cm := by
  simp only [decCommon, fld, mkWord]
  simp (disch := omega) only [ext_lo, ext_hi, ext_all, Nat.reduceSub]

theorem fld_mkWord (cm : Common) (o : BitVec 8) (op : BitVec 40) (lo n : Nat) (h : lo + n ≤ 40) :
    fld (mkWord cm o op) lo n = op.extractLsb' lo n := by
  simp only [fld, mkWord]; rw [ext_lo _ _ _ _ h]

theorem get_mkWord (cm : Common) (o : BitVec 8) (op : BitVec 40) (i : Nat) (h : i < 40) :
    (mkWord cm o op).getLsbD i = op.getLsbD i := by
  simp only [mkWord]; rw [get_lo _ _ _ h]

/-- Decoding a word from the fields read of it. -/
theorem decode_of_fields (i : Instr) (cm : Common) (o : BitVec 8) (op : BitVec 40) (e : Option Word) (x : Word)
    (ho : assigned o.toNat = true) (hf : decFields (mkWord cm o op) x = some i)
    (he : encode i = some (mkWord cm o op, e)) (hw : i.wellFormed = true)
    (hx : e = if (o.toNat = 0x1E || o.toNat = 0xB0) = true then some x else none) :
    decode (mkWord cm o op) x = .ok i := by
  unfold decode
  rw [opcOf_mkWord, ho, hf]
  simp [he, hw, isLong, opcOf_mkWord] at hx ⊢
  exact hx

/-- What a word decodes to is encoded as that word, with the next word where the form is long. -/
theorem encode_of_decode (w x : Word) (i : Instr) (h : decode w x = .ok i) :
    encode i = some (w, if isLong w then some x else none) ∧ i.wellFormed = true := by
  unfold decode at h
  split at h
  · cases h
  · split at h
    · cases h
    · rename_i j _
      by_cases hc : (decide (encode j = some (w, if isLong w then some x else none)) && j.wellFormed) = true
      · rw [if_pos hc] at h
        cases h
        simpa only [Bool.and_eq_true, decide_eq_true_eq] using hc
      · rw [if_neg hc] at h
        cases h

/-! ### The scheduler-core word -/

/-- What a scheduler-core word decodes to is encoded as that word. -/
theorem encodeFw_of_decodeFw (w : BitVec 32) (i : Instr) (h : decodeFw w = some i) : encodeFw i = some w := by
  unfold decodeFw at h
  split at h
  · cases h
  · split at h
    · rename_i hc; cases h; exact hc
    · cases h

/-- Decoding a scheduler-core word from the fields read of it. -/
theorem decodeFw_of_fields (i : Instr) (w : BitVec 32) (he : encodeFw i = some w) (hf : decFwFields w = some i) :
    decodeFw w = some i := by
  unfold decodeFw
  rw [hf]
  simp [he]

/-- No word decodes to a row without an encoding. -/
theorem none_of_event (i : Instr) (h1 : encode i = none) (h2 : encodeFw i = none) (w x : Word) (v : BitVec 32) :
    decode w x ≠ .ok i ∧ decodeFw v ≠ some i := by
  refine ⟨fun h => ?_, fun h => ?_⟩
  · have := (encode_of_decode w x i h).1
    rw [h1] at this; cases this
  · have := encodeFw_of_decodeFw v i h
    rw [h2] at this; cases this

end Sys2Proof
end

