-- ==== Sys2Proof/Laws/PerInstr.lean ====
section
/-! SUPPORT. One lemma per row of the table: the words of a well-formed instruction decode to it, whatever word
stands after a short form, and a row without an encoding is what no word decodes to. -/
set_option linter.unusedSimpArgs false
set_option maxRecDepth 10000
namespace Sys2Proof.Laws

/-- The words that an instruction is encoded as decode to it (02 R23, R25, R35, 15 R380); no word decodes to a row
without an encoding. -/
def Codec.Statement (i : Instr) : Prop :=
  i.wellFormed = true →
    match encode i, encodeFw i with
    | some (w, some e), _ => decode w e = .ok i
    | some (w, none), _ => ∀ x, decode w x = .ok i
    | none, some w => decodeFw w = some i
    | none, none => ∀ w x v, decode w x ≠ .ok i ∧ decodeFw v ≠ some i

theorem Codec.add (cm d a b) : Codec.Statement (.add cm d a b) := by
  intro h x
  have f (w : Word) (hw : opcOf w = 0x01) : decFields w x = (do some (.add (decCommon w) (← decSpec (fld w 34 6)) (← decSpec (fld w 28 6)) (← decSpec (fld w 22 6)))) := by
    unfold decFields; rw [hw]; rfl
  refine decode_of_fields _ cm 0x01 _ _ x (by decide) ?_ rfl h rfl
  rw [f _ (opcOf_mkWord _ _ _)]
  simp (disch := omega) only [fld_mkWord, get_mkWord, decCommon_mkWord, ext_lo, ext_hi, ext_all, get_lo, get_hi, get_bool, Nat.reduceSub,
    decSpec_encSpec, decLine_encLine, decTile_encTile, decSq_encSq, decAmo_encAmo, decRed_encRed, decIRed_encIRed]
  rfl

theorem Codec.sub (cm d a b) : Codec.Statement (.sub cm d a b) := by
  intro h x
  have f (w : Word) (hw : opcOf w = 0x02) : decFields w x = (do some (.sub (decCommon w) (← decSpec (fld w 34 6)) (← decSpec (fld w 28 6)) (← decSpec (fld w 22 6)))) := by
    unfold decFields; rw [hw]; rfl
  refine decode_of_fields _ cm 0x02 _ _ x (by decide) ?_ rfl h rfl
  rw [f _ (opcOf_mkWord _ _ _)]
  simp (disch := omega) only [fld_mkWord, get_mkWord, decCommon_mkWord, ext_lo, ext_hi, ext_all, get_lo, get_hi, get_bool, Nat.reduceSub,
    decSpec_encSpec, decLine_encLine, decTile_encTile, decSq_encSq, decAmo_encAmo, decRed_encRed, decIRed_encIRed]
  rfl

theorem Codec.mul (cm d a b) : Codec.Statement (.mul cm d a b) := by
  intro h x
  have f (w : Word) (hw : opcOf w = 0x03) : decFields w x = (do some (.mul (decCommon w) (← decSpec (fld w 34 6)) (← decSpec (fld w 28 6)) (← decSpec (fld w 22 6)))) := by
    unfold decFields; rw [hw]; rfl
  refine decode_of_fields _ cm 0x03 _ _ x (by decide) ?_ rfl h rfl
  rw [f _ (opcOf_mkWord _ _ _)]
  simp (disch := omega) only [fld_mkWord, get_mkWord, decCommon_mkWord, ext_lo, ext_hi, ext_all, get_lo, get_hi, get_bool, Nat.reduceSub,
    decSpec_encSpec, decLine_encLine, decTile_encTile, decSq_encSq, decAmo_encAmo, decRed_encRed, decIRed_encIRed]
  rfl

theorem Codec.mulh (cm d a b) : Codec.Statement (.mulh cm d a b) := by
  intro h x
  have f (w : Word) (hw : opcOf w = 0x04) : decFields w x = (do some (.mulh (decCommon w) (← decSpec (fld w 34 6)) (← decSpec (fld w 28 6)) (← decSpec (fld w 22 6)))) := by
    unfold decFields; rw [hw]; rfl
  refine decode_of_fields _ cm 0x04 _ _ x (by decide) ?_ rfl h rfl
  rw [f _ (opcOf_mkWord _ _ _)]
  simp (disch := omega) only [fld_mkWord, get_mkWord, decCommon_mkWord, ext_lo, ext_hi, ext_all, get_lo, get_hi, get_bool, Nat.reduceSub,
    decSpec_encSpec, decLine_encLine, decTile_encTile, decSq_encSq, decAmo_encAmo, decRed_encRed, decIRed_encIRed]
  rfl

theorem Codec.mulhu (cm d a b) : Codec.Statement (.mulhu cm d a b) := by
  intro h x
  have f (w : Word) (hw : opcOf w = 0x05) : decFields w x = (do some (.mulhu (decCommon w) (← decSpec (fld w 34 6)) (← decSpec (fld w 28 6)) (← decSpec (fld w 22 6)))) := by
    unfold decFields; rw [hw]; rfl
  refine decode_of_fields _ cm 0x05 _ _ x (by decide) ?_ rfl h rfl
  rw [f _ (opcOf_mkWord _ _ _)]
  simp (disch := omega) only [fld_mkWord, get_mkWord, decCommon_mkWord, ext_lo, ext_hi, ext_all, get_lo, get_hi, get_bool, Nat.reduceSub,
    decSpec_encSpec, decLine_encLine, decTile_encTile, decSq_encSq, decAmo_encAmo, decRed_encRed, decIRed_encIRed]
  rfl

theorem Codec.div (cm d a b) : Codec.Statement (.div cm d a b) := by
  intro h x
  have f (w : Word) (hw : opcOf w = 0x06) : decFields w x = (do some (.div (decCommon w) (← decSpec (fld w 34 6)) (← decSpec (fld w 28 6)) (← decSpec (fld w 22 6)))) := by
    unfold decFields; rw [hw]; rfl
  refine decode_of_fields _ cm 0x06 _ _ x (by decide) ?_ rfl h rfl
  rw [f _ (opcOf_mkWord _ _ _)]
  simp (disch := omega) only [fld_mkWord, get_mkWord, decCommon_mkWord, ext_lo, ext_hi, ext_all, get_lo, get_hi, get_bool, Nat.reduceSub,
    decSpec_encSpec, decLine_encLine, decTile_encTile, decSq_encSq, decAmo_encAmo, decRed_encRed, decIRed_encIRed]
  rfl

theorem Codec.divu (cm d a b) : Codec.Statement (.divu cm d a b) := by
  intro h x
  have f (w : Word) (hw : opcOf w = 0x07) : decFields w x = (do some (.divu (decCommon w) (← decSpec (fld w 34 6)) (← decSpec (fld w 28 6)) (← decSpec (fld w 22 6)))) := by
    unfold decFields; rw [hw]; rfl
  refine decode_of_fields _ cm 0x07 _ _ x (by decide) ?_ rfl h rfl
  rw [f _ (opcOf_mkWord _ _ _)]
  simp (disch := omega) only [fld_mkWord, get_mkWord, decCommon_mkWord, ext_lo, ext_hi, ext_all, get_lo, get_hi, get_bool, Nat.reduceSub,
    decSpec_encSpec, decLine_encLine, decTile_encTile, decSq_encSq, decAmo_encAmo, decRed_encRed, decIRed_encIRed]
  rfl

theorem Codec.rem (cm d a b) : Codec.Statement (.rem cm d a b) := by
  intro h x
  have f (w : Word) (hw : opcOf w = 0x08) : decFields w x = (do some (.rem (decCommon w) (← decSpec (fld w 34 6)) (← decSpec (fld w 28 6)) (← decSpec (fld w 22 6)))) := by
    unfold decFields; rw [hw]; rfl
  refine decode_of_fields _ cm 0x08 _ _ x (by decide) ?_ rfl h rfl
  rw [f _ (opcOf_mkWord _ _ _)]
  simp (disch := omega) only [fld_mkWord, get_mkWord, decCommon_mkWord, ext_lo, ext_hi, ext_all, get_lo, get_hi, get_bool, Nat.reduceSub,
    decSpec_encSpec, decLine_encLine, decTile_encTile, decSq_encSq, decAmo_encAmo, decRed_encRed, decIRed_encIRed]
  rfl

theorem Codec.remu (cm d a b) : Codec.Statement (.remu cm d a b) := by
  intro h x
  have f (w : Word) (hw : opcOf w = 0x09) : decFields w x = (do some (.remu (decCommon w) (← decSpec (fld w 34 6)) (← decSpec (fld w 28 6)) (← decSpec (fld w 22 6)))) := by
    unfold decFields; rw [hw]; rfl
  refine decode_of_fields _ cm 0x09 _ _ x (by decide) ?_ rfl h rfl
  rw [f _ (opcOf_mkWord _ _ _)]
  simp (disch := omega) only [fld_mkWord, get_mkWord, decCommon_mkWord, ext_lo, ext_hi, ext_all, get_lo, get_hi, get_bool, Nat.reduceSub,
    decSpec_encSpec, decLine_encLine, decTile_encTile, decSq_encSq, decAmo_encAmo, decRed_encRed, decIRed_encIRed]
  rfl

theorem Codec.andR (cm d a b) : Codec.Statement (.andR cm d a b) := by
  intro h x
  have f (w : Word) (hw : opcOf w = 0x0a) : decFields w x = (do some (.andR (decCommon w) (← decSpec (fld w 34 6)) (← decSpec (fld w 28 6)) (← decSpec (fld w 22 6)))) := by
    unfold decFields; rw [hw]; rfl
  refine decode_of_fields _ cm 0x0a _ _ x (by decide) ?_ rfl h rfl
  rw [f _ (opcOf_mkWord _ _ _)]
  simp (disch := omega) only [fld_mkWord, get_mkWord, decCommon_mkWord, ext_lo, ext_hi, ext_all, get_lo, get_hi, get_bool, Nat.reduceSub,
    decSpec_encSpec, decLine_encLine, decTile_encTile, decSq_encSq, decAmo_encAmo, decRed_encRed, decIRed_encIRed]
  rfl

theorem Codec.orR (cm d a b) : Codec.Statement (.orR cm d a b) := by
  intro h x
  have f (w : Word) (hw : opcOf w = 0x0b) : decFields w x = (do some (.orR (decCommon w) (← decSpec (fld w 34 6)) (← decSpec (fld w 28 6)) (← decSpec (fld w 22 6)))) := by
    unfold decFields; rw [hw]; rfl
  refine decode_of_fields _ cm 0x0b _ _ x (by decide) ?_ rfl h rfl
  rw [f _ (opcOf_mkWord _ _ _)]
  simp (disch := omega) only [fld_mkWord, get_mkWord, decCommon_mkWord, ext_lo, ext_hi, ext_all, get_lo, get_hi, get_bool, Nat.reduceSub,
    decSpec_encSpec, decLine_encLine, decTile_encTile, decSq_encSq, decAmo_encAmo, decRed_encRed, decIRed_encIRed]
  rfl

theorem Codec.xorR (cm d a b) : Codec.Statement (.xorR cm d a b) := by
  intro h x
  have f (w : Word) (hw : opcOf w = 0x0c) : decFields w x = (do some (.xorR (decCommon w) (← decSpec (fld w 34 6)) (← decSpec (fld w 28 6)) (← decSpec (fld w 22 6)))) := by
    unfold decFields; rw [hw]; rfl
  refine decode_of_fields _ cm 0x0c _ _ x (by decide) ?_ rfl h rfl
  rw [f _ (opcOf_mkWord _ _ _)]
  simp (disch := omega) only [fld_mkWord, get_mkWord, decCommon_mkWord, ext_lo, ext_hi, ext_all, get_lo, get_hi, get_bool, Nat.reduceSub,
    decSpec_encSpec, decLine_encLine, decTile_encTile, decSq_encSq, decAmo_encAmo, decRed_encRed, decIRed_encIRed]
  rfl

theorem Codec.sll (cm d a b) : Codec.Statement (.sll cm d a b) := by
  intro h x
  have f (w : Word) (hw : opcOf w = 0x0d) : decFields w x = (do some (.sll (decCommon w) (← decSpec (fld w 34 6)) (← decSpec (fld w 28 6)) (← decSpec (fld w 22 6)))) := by
    unfold decFields; rw [hw]; rfl
  refine decode_of_fields _ cm 0x0d _ _ x (by decide) ?_ rfl h rfl
  rw [f _ (opcOf_mkWord _ _ _)]
  simp (disch := omega) only [fld_mkWord, get_mkWord, decCommon_mkWord, ext_lo, ext_hi, ext_all, get_lo, get_hi, get_bool, Nat.reduceSub,
    decSpec_encSpec, decLine_encLine, decTile_encTile, decSq_encSq, decAmo_encAmo, decRed_encRed, decIRed_encIRed]
  rfl

theorem Codec.srl (cm d a b) : Codec.Statement (.srl cm d a b) := by
  intro h x
  have f (w : Word) (hw : opcOf w = 0x0e) : decFields w x = (do some (.srl (decCommon w) (← decSpec (fld w 34 6)) (← decSpec (fld w 28 6)) (← decSpec (fld w 22 6)))) := by
    unfold decFields; rw [hw]; rfl
  refine decode_of_fields _ cm 0x0e _ _ x (by decide) ?_ rfl h rfl
  rw [f _ (opcOf_mkWord _ _ _)]
  simp (disch := omega) only [fld_mkWord, get_mkWord, decCommon_mkWord, ext_lo, ext_hi, ext_all, get_lo, get_hi, get_bool, Nat.reduceSub,
    decSpec_encSpec, decLine_encLine, decTile_encTile, decSq_encSq, decAmo_encAmo, decRed_encRed, decIRed_encIRed]
  rfl

theorem Codec.sra (cm d a b) : Codec.Statement (.sra cm d a b) := by
  intro h x
  have f (w : Word) (hw : opcOf w = 0x0f) : decFields w x = (do some (.sra (decCommon w) (← decSpec (fld w 34 6)) (← decSpec (fld w 28 6)) (← decSpec (fld w 22 6)))) := by
    unfold decFields; rw [hw]; rfl
  refine decode_of_fields _ cm 0x0f _ _ x (by decide) ?_ rfl h rfl
  rw [f _ (opcOf_mkWord _ _ _)]
  simp (disch := omega) only [fld_mkWord, get_mkWord, decCommon_mkWord, ext_lo, ext_hi, ext_all, get_lo, get_hi, get_bool, Nat.reduceSub,
    decSpec_encSpec, decLine_encLine, decTile_encTile, decSq_encSq, decAmo_encAmo, decRed_encRed, decIRed_encIRed]
  rfl

theorem Codec.minR (cm d a b) : Codec.Statement (.minR cm d a b) := by
  intro h x
  have f (w : Word) (hw : opcOf w = 0x10) : decFields w x = (do some (.minR (decCommon w) (← decSpec (fld w 34 6)) (← decSpec (fld w 28 6)) (← decSpec (fld w 22 6)))) := by
    unfold decFields; rw [hw]; rfl
  refine decode_of_fields _ cm 0x10 _ _ x (by decide) ?_ rfl h rfl
  rw [f _ (opcOf_mkWord _ _ _)]
  simp (disch := omega) only [fld_mkWord, get_mkWord, decCommon_mkWord, ext_lo, ext_hi, ext_all, get_lo, get_hi, get_bool, Nat.reduceSub,
    decSpec_encSpec, decLine_encLine, decTile_encTile, decSq_encSq, decAmo_encAmo, decRed_encRed, decIRed_encIRed]
  rfl

theorem Codec.maxR (cm d a b) : Codec.Statement (.maxR cm d a b) := by
  intro h x
  have f (w : Word) (hw : opcOf w = 0x11) : decFields w x = (do some (.maxR (decCommon w) (← decSpec (fld w 34 6)) (← decSpec (fld w 28 6)) (← decSpec (fld w 22 6)))) := by
    unfold decFields; rw [hw]; rfl
  refine decode_of_fields _ cm 0x11 _ _ x (by decide) ?_ rfl h rfl
  rw [f _ (opcOf_mkWord _ _ _)]
  simp (disch := omega) only [fld_mkWord, get_mkWord, decCommon_mkWord, ext_lo, ext_hi, ext_all, get_lo, get_hi, get_bool, Nat.reduceSub,
    decSpec_encSpec, decLine_encLine, decTile_encTile, decSq_encSq, decAmo_encAmo, decRed_encRed, decIRed_encIRed]
  rfl

theorem Codec.minu (cm d a b) : Codec.Statement (.minu cm d a b) := by
  intro h x
  have f (w : Word) (hw : opcOf w = 0x12) : decFields w x = (do some (.minu (decCommon w) (← decSpec (fld w 34 6)) (← decSpec (fld w 28 6)) (← decSpec (fld w 22 6)))) := by
    unfold decFields; rw [hw]; rfl
  refine decode_of_fields _ cm 0x12 _ _ x (by decide) ?_ rfl h rfl
  rw [f _ (opcOf_mkWord _ _ _)]
  simp (disch := omega) only [fld_mkWord, get_mkWord, decCommon_mkWord, ext_lo, ext_hi, ext_all, get_lo, get_hi, get_bool, Nat.reduceSub,
    decSpec_encSpec, decLine_encLine, decTile_encTile, decSq_encSq, decAmo_encAmo, decRed_encRed, decIRed_encIRed]
  rfl

theorem Codec.maxu (cm d a b) : Codec.Statement (.maxu cm d a b) := by
  intro h x
  have f (w : Word) (hw : opcOf w = 0x13) : decFields w x = (do some (.maxu (decCommon w) (← decSpec (fld w 34 6)) (← decSpec (fld w 28 6)) (← decSpec (fld w 22 6)))) := by
    unfold decFields; rw [hw]; rfl
  refine decode_of_fields _ cm 0x13 _ _ x (by decide) ?_ rfl h rfl
  rw [f _ (opcOf_mkWord _ _ _)]
  simp (disch := omega) only [fld_mkWord, get_mkWord, decCommon_mkWord, ext_lo, ext_hi, ext_all, get_lo, get_hi, get_bool, Nat.reduceSub,
    decSpec_encSpec, decLine_encLine, decTile_encTile, decSq_encSq, decAmo_encAmo, decRed_encRed, decIRed_encIRed]
  rfl

theorem Codec.slt (cm d a b) : Codec.Statement (.slt cm d a b) := by
  intro h x
  have f (w : Word) (hw : opcOf w = 0x14) : decFields w x = (do some (.slt (decCommon w) (← decSpec (fld w 34 6)) (← decSpec (fld w 28 6)) (← decSpec (fld w 22 6)))) := by
    unfold decFields; rw [hw]; rfl
  refine decode_of_fields _ cm 0x14 _ _ x (by decide) ?_ rfl h rfl
  rw [f _ (opcOf_mkWord _ _ _)]
  simp (disch := omega) only [fld_mkWord, get_mkWord, decCommon_mkWord, ext_lo, ext_hi, ext_all, get_lo, get_hi, get_bool, Nat.reduceSub,
    decSpec_encSpec, decLine_encLine, decTile_encTile, decSq_encSq, decAmo_encAmo, decRed_encRed, decIRed_encIRed]
  rfl

theorem Codec.sltu (cm d a b) : Codec.Statement (.sltu cm d a b) := by
  intro h x
  have f (w : Word) (hw : opcOf w = 0x15) : decFields w x = (do some (.sltu (decCommon w) (← decSpec (fld w 34 6)) (← decSpec (fld w 28 6)) (← decSpec (fld w 22 6)))) := by
    unfold decFields; rw [hw]; rfl
  refine decode_of_fields _ cm 0x15 _ _ x (by decide) ?_ rfl h rfl
  rw [f _ (opcOf_mkWord _ _ _)]
  simp (disch := omega) only [fld_mkWord, get_mkWord, decCommon_mkWord, ext_lo, ext_hi, ext_all, get_lo, get_hi, get_bool, Nat.reduceSub,
    decSpec_encSpec, decLine_encLine, decTile_encTile, decSq_encSq, decAmo_encAmo, decRed_encRed, decIRed_encIRed]
  rfl

theorem Codec.addi (cm d a imm) : Codec.Statement (.addi cm d a imm) := by
  intro h x
  have f (w : Word) (hw : opcOf w = 0x16) : decFields w x = (do some (.addi (decCommon w) (← decSpec (fld w 34 6)) (← decSpec (fld w 28 6)) (fld w 0 28))) := by
    unfold decFields; rw [hw]; rfl
  refine decode_of_fields _ cm 0x16 _ _ x (by decide) ?_ rfl h rfl
  rw [f _ (opcOf_mkWord _ _ _)]
  simp (disch := omega) only [fld_mkWord, get_mkWord, decCommon_mkWord, ext_lo, ext_hi, ext_all, get_lo, get_hi, get_bool, Nat.reduceSub,
    decSpec_encSpec, decLine_encLine, decTile_encTile, decSq_encSq, decAmo_encAmo, decRed_encRed, decIRed_encIRed]
  rfl

theorem Codec.andi (cm d a imm) : Codec.Statement (.andi cm d a imm) := by
  intro h x
  have f (w : Word) (hw : opcOf w = 0x17) : decFields w x = (do some (.andi (decCommon w) (← decSpec (fld w 34 6)) (← decSpec (fld w 28 6)) (fld w 0 28))) := by
    unfold decFields; rw [hw]; rfl
  refine decode_of_fields _ cm 0x17 _ _ x (by decide) ?_ rfl h rfl
  rw [f _ (opcOf_mkWord _ _ _)]
  simp (disch := omega) only [fld_mkWord, get_mkWord, decCommon_mkWord, ext_lo, ext_hi, ext_all, get_lo, get_hi, get_bool, Nat.reduceSub,
    decSpec_encSpec, decLine_encLine, decTile_encTile, decSq_encSq, decAmo_encAmo, decRed_encRed, decIRed_encIRed]
  rfl

theorem Codec.ori (cm d a imm) : Codec.Statement (.ori cm d a imm) := by
  intro h x
  have f (w : Word) (hw : opcOf w = 0x18) : decFields w x = (do some (.ori (decCommon w) (← decSpec (fld w 34 6)) (← decSpec (fld w 28 6)) (fld w 0 28))) := by
    unfold decFields; rw [hw]; rfl
  refine decode_of_fields _ cm 0x18 _ _ x (by decide) ?_ rfl h rfl
  rw [f _ (opcOf_mkWord _ _ _)]
  simp (disch := omega) only [fld_mkWord, get_mkWord, decCommon_mkWord, ext_lo, ext_hi, ext_all, get_lo, get_hi, get_bool, Nat.reduceSub,
    decSpec_encSpec, decLine_encLine, decTile_encTile, decSq_encSq, decAmo_encAmo, decRed_encRed, decIRed_encIRed]
  rfl

theorem Codec.xori (cm d a imm) : Codec.Statement (.xori cm d a imm) := by
  intro h x
  have f (w : Word) (hw : opcOf w = 0x19) : decFields w x = (do some (.xori (decCommon w) (← decSpec (fld w 34 6)) (← decSpec (fld w 28 6)) (fld w 0 28))) := by
    unfold decFields; rw [hw]; rfl
  refine decode_of_fields _ cm 0x19 _ _ x (by decide) ?_ rfl h rfl
  rw [f _ (opcOf_mkWord _ _ _)]
  simp (disch := omega) only [fld_mkWord, get_mkWord, decCommon_mkWord, ext_lo, ext_hi, ext_all, get_lo, get_hi, get_bool, Nat.reduceSub,
    decSpec_encSpec, decLine_encLine, decTile_encTile, decSq_encSq, decAmo_encAmo, decRed_encRed, decIRed_encIRed]
  rfl

theorem Codec.slli (cm d a sh) : Codec.Statement (.slli cm d a sh) := by
  intro h x
  have f (w : Word) (hw : opcOf w = 0x1a) : decFields w x = (do some (.slli (decCommon w) (← decSpec (fld w 34 6)) (← decSpec (fld w 28 6)) (fld w 0 6))) := by
    unfold decFields; rw [hw]; rfl
  refine decode_of_fields _ cm 0x1a _ _ x (by decide) ?_ rfl h rfl
  rw [f _ (opcOf_mkWord _ _ _)]
  simp (disch := omega) only [fld_mkWord, get_mkWord, decCommon_mkWord, ext_lo, ext_hi, ext_all, get_lo, get_hi, get_bool, Nat.reduceSub,
    decSpec_encSpec, decLine_encLine, decTile_encTile, decSq_encSq, decAmo_encAmo, decRed_encRed, decIRed_encIRed]
  rfl

theorem Codec.srli (cm d a sh) : Codec.Statement (.srli cm d a sh) := by
  intro h x
  have f (w : Word) (hw : opcOf w = 0x1b) : decFields w x = (do some (.srli (decCommon w) (← decSpec (fld w 34 6)) (← decSpec (fld w 28 6)) (fld w 0 6))) := by
    unfold decFields; rw [hw]; rfl
  refine decode_of_fields _ cm 0x1b _ _ x (by decide) ?_ rfl h rfl
  rw [f _ (opcOf_mkWord _ _ _)]
  simp (disch := omega) only [fld_mkWord, get_mkWord, decCommon_mkWord, ext_lo, ext_hi, ext_all, get_lo, get_hi, get_bool, Nat.reduceSub,
    decSpec_encSpec, decLine_encLine, decTile_encTile, decSq_encSq, decAmo_encAmo, decRed_encRed, decIRed_encIRed]
  rfl

theorem Codec.srai (cm d a sh) : Codec.Statement (.srai cm d a sh) := by
  intro h x
  have f (w : Word) (hw : opcOf w = 0x1c) : decFields w x = (do some (.srai (decCommon w) (← decSpec (fld w 34 6)) (← decSpec (fld w 28 6)) (fld w 0 6))) := by
    unfold decFields; rw [hw]; rfl
  refine decode_of_fields _ cm 0x1c _ _ x (by decide) ?_ rfl h rfl
  rw [f _ (opcOf_mkWord _ _ _)]
  simp (disch := omega) only [fld_mkWord, get_mkWord, decCommon_mkWord, ext_lo, ext_hi, ext_all, get_lo, get_hi, get_bool, Nat.reduceSub,
    decSpec_encSpec, decLine_encLine, decTile_encTile, decSq_encSq, decAmo_encAmo, decRed_encRed, decIRed_encIRed]
  rfl

theorem Codec.slti (cm d a imm) : Codec.Statement (.slti cm d a imm) := by
  intro h x
  have f (w : Word) (hw : opcOf w = 0x1d) : decFields w x = (do some (.slti (decCommon w) (← decSpec (fld w 34 6)) (← decSpec (fld w 28 6)) (fld w 0 28))) := by
    unfold decFields; rw [hw]; rfl
  refine decode_of_fields _ cm 0x1d _ _ x (by decide) ?_ rfl h rfl
  rw [f _ (opcOf_mkWord _ _ _)]
  simp (disch := omega) only [fld_mkWord, get_mkWord, decCommon_mkWord, ext_lo, ext_hi, ext_all, get_lo, get_hi, get_bool, Nat.reduceSub,
    decSpec_encSpec, decLine_encLine, decTile_encTile, decSq_encSq, decAmo_encAmo, decRed_encRed, decIRed_encIRed]
  rfl

theorem Codec.li (cm d v) : Codec.Statement (.li cm d v) := by
  intro h
  have f (w : Word) (hw : opcOf w = 0x1e) : decFields w v = (do some (.li (decCommon w) (← decSpec (fld w 34 6)) v)) := by
    unfold decFields; rw [hw]; rfl
  refine decode_of_fields _ cm 0x1e _ _ v (by decide) ?_ rfl h rfl
  rw [f _ (opcOf_mkWord _ _ _)]
  simp (disch := omega) only [fld_mkWord, get_mkWord, decCommon_mkWord, ext_lo, ext_hi, ext_all, get_lo, get_hi, get_bool, Nat.reduceSub,
    decSpec_encSpec, decLine_encLine, decTile_encTile, decSq_encSq, decAmo_encAmo, decRed_encRed, decIRed_encIRed]
  rfl

theorem Codec.bfx (cm d a pos lenM1 sx) : Codec.Statement (.bfx cm d a pos lenM1 sx) := by
  intro h x
  have f (w : Word) (hw : opcOf w = 0x1f) : decFields w x = (do some (.bfx (decCommon w) (← decSpec (fld w 34 6)) (← decSpec (fld w 28 6)) (fld w 0 6) (fld w 6 6) (w.getLsbD 12))) := by
    unfold decFields; rw [hw]; rfl
  refine decode_of_fields _ cm 0x1f _ _ x (by decide) ?_ rfl h rfl
  rw [f _ (opcOf_mkWord _ _ _)]
  simp (disch := omega) only [fld_mkWord, get_mkWord, decCommon_mkWord, ext_lo, ext_hi, ext_all, get_lo, get_hi, get_bool, Nat.reduceSub,
    decSpec_encSpec, decLine_encLine, decTile_encTile, decSq_encSq, decAmo_encAmo, decRed_encRed, decIRed_encIRed]
  rfl

theorem Codec.bfi (cm d a pos lenM1) : Codec.Statement (.bfi cm d a pos lenM1) := by
  intro h x
  have f (w : Word) (hw : opcOf w = 0x20) : decFields w x = (do some (.bfi (decCommon w) (← decSpec (fld w 34 6)) (← decSpec (fld w 28 6)) (fld w 0 6) (fld w 6 6))) := by
    unfold decFields; rw [hw]; rfl
  refine decode_of_fields _ cm 0x20 _ _ x (by decide) ?_ rfl h rfl
  rw [f _ (opcOf_mkWord _ _ _)]
  simp (disch := omega) only [fld_mkWord, get_mkWord, decCommon_mkWord, ext_lo, ext_hi, ext_all, get_lo, get_hi, get_bool, Nat.reduceSub,
    decSpec_encSpec, decLine_encLine, decTile_encTile, decSq_encSq, decAmo_encAmo, decRed_encRed, decIRed_encIRed]
  rfl

theorem Codec.clz (cm d a) : Codec.Statement (.clz cm d a) := by
  intro h x
  have f (w : Word) (hw : opcOf w = 0x21) : decFields w x = (do some (.clz (decCommon w) (← decSpec (fld w 34 6)) (← decSpec (fld w 28 6)))) := by
    unfold decFields; rw [hw]; rfl
  refine decode_of_fields _ cm 0x21 _ _ x (by decide) ?_ rfl h rfl
  rw [f _ (opcOf_mkWord _ _ _)]
  simp (disch := omega) only [fld_mkWord, get_mkWord, decCommon_mkWord, ext_lo, ext_hi, ext_all, get_lo, get_hi, get_bool, Nat.reduceSub,
    decSpec_encSpec, decLine_encLine, decTile_encTile, decSq_encSq, decAmo_encAmo, decRed_encRed, decIRed_encIRed]
  rfl

theorem Codec.ctz (cm d a) : Codec.Statement (.ctz cm d a) := by
  intro h x
  have f (w : Word) (hw : opcOf w = 0x22) : decFields w x = (do some (.ctz (decCommon w) (← decSpec (fld w 34 6)) (← decSpec (fld w 28 6)))) := by
    unfold decFields; rw [hw]; rfl
  refine decode_of_fields _ cm 0x22 _ _ x (by decide) ?_ rfl h rfl
  rw [f _ (opcOf_mkWord _ _ _)]
  simp (disch := omega) only [fld_mkWord, get_mkWord, decCommon_mkWord, ext_lo, ext_hi, ext_all, get_lo, get_hi, get_bool, Nat.reduceSub,
    decSpec_encSpec, decLine_encLine, decTile_encTile, decSq_encSq, decAmo_encAmo, decRed_encRed, decIRed_encIRed]
  rfl

theorem Codec.popc (cm d a) : Codec.Statement (.popc cm d a) := by
  intro h x
  have f (w : Word) (hw : opcOf w = 0x23) : decFields w x = (do some (.popc (decCommon w) (← decSpec (fld w 34 6)) (← decSpec (fld w 28 6)))) := by
    unfold decFields; rw [hw]; rfl
  refine decode_of_fields _ cm 0x23 _ _ x (by decide) ?_ rfl h rfl
  rw [f _ (opcOf_mkWord _ _ _)]
  simp (disch := omega) only [fld_mkWord, get_mkWord, decCommon_mkWord, ext_lo, ext_hi, ext_all, get_lo, get_hi, get_bool, Nat.reduceSub,
    decSpec_encSpec, decLine_encLine, decTile_encTile, decSq_encSq, decAmo_encAmo, decRed_encRed, decIRed_encIRed]
  rfl

theorem Codec.cmp (cm kd a b cond) : Codec.Statement (.cmp cm kd a b cond) := by
  intro h x
  have f (w : Word) (hw : opcOf w = 0x24) : decFields w x = (do some (.cmp (decCommon w) (fld w 34 3) (← decSpec (fld w 28 6)) (← decSpec (fld w 22 6)) (fld w 10 3))) := by
    unfold decFields; rw [hw]; rfl
  refine decode_of_fields _ cm 0x24 _ _ x (by decide) ?_ rfl h rfl
  rw [f _ (opcOf_mkWord _ _ _)]
  simp (disch := omega) only [fld_mkWord, get_mkWord, decCommon_mkWord, ext_lo, ext_hi, ext_all, get_lo, get_hi, get_bool, Nat.reduceSub,
    decSpec_encSpec, decLine_encLine, decTile_encTile, decSq_encSq, decAmo_encAmo, decRed_encRed, decIRed_encIRed]
  rfl

theorem Codec.cmpi (cm kd a cond imm) : Codec.Statement (.cmpi cm kd a cond imm) := by
  intro h x
  have f (w : Word) (hw : opcOf w = 0x25) : decFields w x = (do some (.cmpi (decCommon w) (fld w 34 3) (← decSpec (fld w 28 6)) (fld w 24 3) (fld w 0 24))) := by
    unfold decFields; rw [hw]; rfl
  refine decode_of_fields _ cm 0x25 _ _ x (by decide) ?_ rfl h rfl
  rw [f _ (opcOf_mkWord _ _ _)]
  simp (disch := omega) only [fld_mkWord, get_mkWord, decCommon_mkWord, ext_lo, ext_hi, ext_all, get_lo, get_hi, get_bool, Nat.reduceSub,
    decSpec_encSpec, decLine_encLine, decTile_encTile, decSq_encSq, decAmo_encAmo, decRed_encRed, decIRed_encIRed]
  rfl

theorem Codec.kop (cm kd ka kb table) : Codec.Statement (.kop cm kd ka kb table) := by
  intro h x
  have f (w : Word) (hw : opcOf w = 0x26) : decFields w x = (some (.kop (decCommon w) (fld w 34 3) (fld w 28 3) (fld w 22 3) (fld w 10 4))) := by
    unfold decFields; rw [hw]; rfl
  refine decode_of_fields _ cm 0x26 _ _ x (by decide) ?_ rfl h rfl
  rw [f _ (opcOf_mkWord _ _ _)]
  simp (disch := omega) only [fld_mkWord, get_mkWord, decCommon_mkWord, ext_lo, ext_hi, ext_all, get_lo, get_hi, get_bool, Nat.reduceSub,
    decSpec_encSpec, decLine_encLine, decTile_encTile, decSq_encSq, decAmo_encAmo, decRed_encRed, decIRed_encIRed]

theorem Codec.sel (cm d a b k neg) : Codec.Statement (.sel cm d a b k neg) := by
  intro h x
  have f (w : Word) (hw : opcOf w = 0x27) : decFields w x = (do some (.sel (decCommon w) (← decSpec (fld w 34 6)) (← decSpec (fld w 28 6)) (← decSpec (fld w 22 6)) (fld w 10 3) (w.getLsbD 13))) := by
    unfold decFields; rw [hw]; rfl
  refine decode_of_fields _ cm 0x27 _ _ x (by decide) ?_ rfl h rfl
  rw [f _ (opcOf_mkWord _ _ _)]
  simp (disch := omega) only [fld_mkWord, get_mkWord, decCommon_mkWord, ext_lo, ext_hi, ext_all, get_lo, get_hi, get_bool, Nat.reduceSub,
    decSpec_encSpec, decLine_encLine, decTile_encTile, decSq_encSq, decAmo_encAmo, decRed_encRed, decIRed_encIRed]
  rfl

theorem Codec.pbr (cm bn off) : Codec.Statement (.pbr cm bn off) := by
  intro h x
  have f (w : Word) (hw : opcOf w = 0x28) : decFields w x = (some (.pbr (decCommon w) (fld w 37 3) (fld w 0 33))) := by
    unfold decFields; rw [hw]; rfl
  refine decode_of_fields _ cm 0x28 _ _ x (by decide) ?_ rfl h rfl
  rw [f _ (opcOf_mkWord _ _ _)]
  simp (disch := omega) only [fld_mkWord, get_mkWord, decCommon_mkWord, ext_lo, ext_hi, ext_all, get_lo, get_hi, get_bool, Nat.reduceSub,
    decSpec_encSpec, decLine_encLine, decTile_encTile, decSq_encSq, decAmo_encAmo, decRed_encRed, decIRed_encIRed]

theorem Codec.pbrr (cm bn a) : Codec.Statement (.pbrr cm bn a) := by
  intro h x
  have f (w : Word) (hw : opcOf w = 0x29) : decFields w x = (do some (.pbrr (decCommon w) (fld w 34 3) (← decSpec (fld w 28 6)))) := by
    unfold decFields; rw [hw]; rfl
  refine decode_of_fields _ cm 0x29 _ _ x (by decide) ?_ rfl h rfl
  rw [f _ (opcOf_mkWord _ _ _)]
  simp (disch := omega) only [fld_mkWord, get_mkWord, decCommon_mkWord, ext_lo, ext_hi, ext_all, get_lo, get_hi, get_bool, Nat.reduceSub,
    decSpec_encSpec, decLine_encLine, decTile_encTile, decSq_encSq, decAmo_encAmo, decRed_encRed, decIRed_encIRed]
  rfl

theorem Codec.br (cm bn k neg) : Codec.Statement (.br cm bn k neg) := by
  intro h x
  have f (w : Word) (hw : opcOf w = 0x2a) : decFields w x = (some (.br (decCommon w) (fld w 37 3) (fld w 34 3) (w.getLsbD 33))) := by
    unfold decFields; rw [hw]; rfl
  refine decode_of_fields _ cm 0x2a _ _ x (by decide) ?_ rfl h rfl
  rw [f _ (opcOf_mkWord _ _ _)]
  simp (disch := omega) only [fld_mkWord, get_mkWord, decCommon_mkWord, ext_lo, ext_hi, ext_all, get_lo, get_hi, get_bool, Nat.reduceSub,
    decSpec_encSpec, decLine_encLine, decTile_encTile, decSq_encSq, decAmo_encAmo, decRed_encRed, decIRed_encIRed]

theorem Codec.call (cm bn k neg) : Codec.Statement (.call cm bn k neg) := by
  intro h x
  have f (w : Word) (hw : opcOf w = 0x2b) : decFields w x = (some (.call (decCommon w) (fld w 37 3) (fld w 34 3) (w.getLsbD 33))) := by
    unfold decFields; rw [hw]; rfl
  refine decode_of_fields _ cm 0x2b _ _ x (by decide) ?_ rfl h rfl
  rw [f _ (opcOf_mkWord _ _ _)]
  simp (disch := omega) only [fld_mkWord, get_mkWord, decCommon_mkWord, ext_lo, ext_hi, ext_all, get_lo, get_hi, get_bool, Nat.reduceSub,
    decSpec_encSpec, decLine_encLine, decTile_encTile, decSq_encSq, decAmo_encAmo, decRed_encRed, decIRed_encIRed]

theorem Codec.loop (cm level count body) : Codec.Statement (.loop cm level count body) := by
  intro h x
  have f (w : Word) (hw : opcOf w = 0x2c) : decFields w x = (do some (.loop (decCommon w) (fld w 37 3) (← decSpec (fld w 31 6)) (fld w 0 31))) := by
    unfold decFields; rw [hw]; rfl
  refine decode_of_fields _ cm 0x2c _ _ x (by decide) ?_ rfl h rfl
  rw [f _ (opcOf_mkWord _ _ _)]
  simp (disch := omega) only [fld_mkWord, get_mkWord, decCommon_mkWord, ext_lo, ext_hi, ext_all, get_lo, get_hi, get_bool, Nat.reduceSub,
    decSpec_encSpec, decLine_encLine, decTile_encTile, decSq_encSq, decAmo_encAmo, decRed_encRed, decIRed_encIRed]
  rfl

theorem Codec.endl (cm level k neg) : Codec.Statement (.endl cm level k neg) := by
  intro h x
  have f (w : Word) (hw : opcOf w = 0x2d) : decFields w x = (some (.endl (decCommon w) (fld w 37 3) (fld w 34 3) (w.getLsbD 33))) := by
    unfold decFields; rw [hw]; rfl
  refine decode_of_fields _ cm 0x2d _ _ x (by decide) ?_ rfl h rfl
  rw [f _ (opcOf_mkWord _ _ _)]
  simp (disch := omega) only [fld_mkWord, get_mkWord, decCommon_mkWord, ext_lo, ext_hi, ext_all, get_lo, get_hi, get_bool, Nat.reduceSub,
    decSpec_encSpec, decLine_encLine, decTile_encTile, decSq_encSq, decAmo_encAmo, decRed_encRed, decIRed_encIRed]

theorem Codec.mfs (cm d num) : Codec.Statement (.mfs cm d num) := by
  intro h x
  have f (w : Word) (hw : opcOf w = 0x2e) : decFields w x = (do some (.mfs (decCommon w) (← decSpec (fld w 34 6)) (fld w 0 9))) := by
    unfold decFields; rw [hw]; rfl
  refine decode_of_fields _ cm 0x2e _ _ x (by decide) ?_ rfl h rfl
  rw [f _ (opcOf_mkWord _ _ _)]
  simp (disch := omega) only [fld_mkWord, get_mkWord, decCommon_mkWord, ext_lo, ext_hi, ext_all, get_lo, get_hi, get_bool, Nat.reduceSub,
    decSpec_encSpec, decLine_encLine, decTile_encTile, decSq_encSq, decAmo_encAmo, decRed_encRed, decIRed_encIRed]
  rfl

theorem Codec.mts (cm num a) : Codec.Statement (.mts cm num a) := by
  intro h x
  have f (w : Word) (hw : opcOf w = 0x2f) : decFields w x = (do some (.mts (decCommon w) (fld w 0 9) (← decSpec (fld w 28 6)))) := by
    unfold decFields; rw [hw]; rfl
  refine decode_of_fields _ cm 0x2f _ _ x (by decide) ?_ rfl h rfl
  rw [f _ (opcOf_mkWord _ _ _)]
  simp (disch := omega) only [fld_mkWord, get_mkWord, decCommon_mkWord, ext_lo, ext_hi, ext_all, get_lo, get_hi, get_bool, Nat.reduceSub,
    decSpec_encSpec, decLine_encLine, decTile_encTile, decSq_encSq, decAmo_encAmo, decRed_encRed, decIRed_encIRed]
  rfl

theorem Codec.nop (cm) : Codec.Statement (.nop cm) := by
  intro h x
  have f (w : Word) (hw : opcOf w = 0x30) : decFields w x = (some (.nop (decCommon w))) := by
    unfold decFields; rw [hw]; rfl
  refine decode_of_fields _ cm 0x30 _ _ x (by decide) ?_ rfl h rfl
  rw [f _ (opcOf_mkWord _ _ _)]
  simp (disch := omega) only [fld_mkWord, get_mkWord, decCommon_mkWord, ext_lo, ext_hi, ext_all, get_lo, get_hi, get_bool, Nat.reduceSub,
    decSpec_encSpec, decLine_encLine, decTile_encTile, decSq_encSq, decAmo_encAmo, decRed_encRed, decIRed_encIRed]

theorem Codec.endSeq (cm) : Codec.Statement (.endSeq cm) := by
  intro h x
  have f (w : Word) (hw : opcOf w = 0x31) : decFields w x = (some (.endSeq (decCommon w))) := by
    unfold decFields; rw [hw]; rfl
  refine decode_of_fields _ cm 0x31 _ _ x (by decide) ?_ rfl h rfl
  rw [f _ (opcOf_mkWord _ _ _)]
  simp (disch := omega) only [fld_mkWord, get_mkWord, decCommon_mkWord, ext_lo, ext_hi, ext_all, get_lo, get_hi, get_bool, Nat.reduceSub,
    decSpec_encSpec, decLine_encLine, decTile_encTile, decSq_encSq, decAmo_encAmo, decRed_encRed, decIRed_encIRed]

theorem Codec.qdisc (cm srcs kinds) : Codec.Statement (.qdisc cm srcs kinds) := by
  intro h x
  have f (w : Word) (hw : opcOf w = 0x40) : decFields w x = (some (.qdisc (decCommon w) (fld w 36 4) (fld w 0 3))) := by
    unfold decFields; rw [hw]; rfl
  refine decode_of_fields _ cm 0x40 _ _ x (by decide) ?_ rfl h rfl
  rw [f _ (opcOf_mkWord _ _ _)]
  simp (disch := omega) only [fld_mkWord, get_mkWord, decCommon_mkWord, ext_lo, ext_hi, ext_all, get_lo, get_hi, get_bool, Nat.reduceSub,
    decSpec_encSpec, decLine_encLine, decTile_encTile, decSq_encSq, decAmo_encAmo, decRed_encRed, decIRed_encIRed]

theorem Codec.qstat (cm d ch) : Codec.Statement (.qstat cm d ch) := by
  intro h x
  have f (w : Word) (hw : opcOf w = 0x41) : decFields w x = (do some (.qstat (decCommon w) (← decSpec (fld w 24 6)) (fld w 36 4))) := by
    unfold decFields; rw [hw]; rfl
  refine decode_of_fields _ cm 0x41 _ _ x (by decide) ?_ rfl h rfl
  rw [f _ (opcOf_mkWord _ _ _)]
  simp (disch := omega) only [fld_mkWord, get_mkWord, decCommon_mkWord, ext_lo, ext_hi, ext_all, get_lo, get_hi, get_bool, Nat.reduceSub,
    decSpec_encSpec, decLine_encLine, decTile_encTile, decSq_encSq, decAmo_encAmo, decRed_encRed, decIRed_encIRed]
  rfl

theorem Codec.evset (cm a mask) : Codec.Statement (.evset cm a mask) := by
  intro h x
  have f (w : Word) (hw : opcOf w = 0x42) : decFields w x = (do some (.evset (decCommon w) (← decSpec (fld w 30 6)) (fld w 1 15))) := by
    unfold decFields; rw [hw]; rfl
  refine decode_of_fields _ cm 0x42 _ _ x (by decide) ?_ rfl h rfl
  rw [f _ (opcOf_mkWord _ _ _)]
  simp (disch := omega) only [fld_mkWord, get_mkWord, decCommon_mkWord, ext_lo, ext_hi, ext_all, get_lo, get_hi, get_bool, Nat.reduceSub,
    decSpec_encSpec, decLine_encLine, decTile_encTile, decSq_encSq, decAmo_encAmo, decRed_encRed, decIRed_encIRed]
  rfl

theorem Codec.evclr (cm a mask) : Codec.Statement (.evclr cm a mask) := by
  intro h x
  have f (w : Word) (hw : opcOf w = 0x43) : decFields w x = (do some (.evclr (decCommon w) (← decSpec (fld w 30 6)) (fld w 1 15))) := by
    unfold decFields; rw [hw]; rfl
  refine decode_of_fields _ cm 0x43 _ _ x (by decide) ?_ rfl h rfl
  rw [f _ (opcOf_mkWord _ _ _)]
  simp (disch := omega) only [fld_mkWord, get_mkWord, decCommon_mkWord, ext_lo, ext_hi, ext_all, get_lo, get_hi, get_bool, Nat.reduceSub,
    decSpec_encSpec, decLine_encLine, decTile_encTile, decSq_encSq, decAmo_encAmo, decRed_encRed, decIRed_encIRed]
  rfl

theorem Codec.evwaitm (cm d mask any) : Codec.Statement (.evwaitm cm d mask any) := by
  intro h x
  have f (w : Word) (hw : opcOf w = 0x44) : decFields w x = (do some (.evwaitm (decCommon w) (← decSpec (fld w 24 6)) (fld w 1 15) (w.getLsbD 16))) := by
    unfold decFields; rw [hw]; rfl
  refine decode_of_fields _ cm 0x44 _ _ x (by decide) ?_ rfl h rfl
  rw [f _ (opcOf_mkWord _ _ _)]
  simp (disch := omega) only [fld_mkWord, get_mkWord, decCommon_mkWord, ext_lo, ext_hi, ext_all, get_lo, get_hi, get_bool, Nat.reduceSub,
    decSpec_encSpec, decLine_encLine, decTile_encTile, decSq_encSq, decAmo_encAmo, decRed_encRed, decIRed_encIRed]
  rfl

theorem Codec.bopush (cm dest k neg) : Codec.Statement (.bopush cm dest k neg) := by
  intro h x
  have f (w : Word) (hw : opcOf w = 0x45) : decFields w x = (some (.bopush (decCommon w) (decSq (fld w 36 2)) (fld w 0 3) (w.getLsbD 3))) := by
    unfold decFields; rw [hw]; rfl
  refine decode_of_fields _ cm 0x45 _ _ x (by decide) ?_ rfl h rfl
  rw [f _ (opcOf_mkWord _ _ _)]
  simp (disch := omega) only [fld_mkWord, get_mkWord, decCommon_mkWord, ext_lo, ext_hi, ext_all, get_lo, get_hi, get_bool, Nat.reduceSub,
    decSpec_encSpec, decLine_encLine, decTile_encTile, decSq_encSq, decAmo_encAmo, decRed_encRed, decIRed_encIRed]

theorem Codec.brq (cm bn src neg) : Codec.Statement (.brq cm bn src neg) := by
  intro h x
  have f (w : Word) (hw : opcOf w = 0x46) : decFields w x = (some (.brq (decCommon w) (fld w 37 3) (decSq (fld w 34 2)) (w.getLsbD 33))) := by
    unfold decFields; rw [hw]; rfl
  refine decode_of_fields _ cm 0x46 _ _ x (by decide) ?_ rfl h rfl
  rw [f _ (opcOf_mkWord _ _ _)]
  simp (disch := omega) only [fld_mkWord, get_mkWord, decCommon_mkWord, ext_lo, ext_hi, ext_all, get_lo, get_hi, get_bool, Nat.reduceSub,
    decSpec_encSpec, decLine_encLine, decTile_encTile, decSq_encSq, decAmo_encAmo, decRed_encRed, decIRed_encIRed]

theorem Codec.rinit (cm rg a) : Codec.Statement (.rinit cm rg a) := by
  intro h x
  have f (w : Word) (hw : opcOf w = 0x47) : decFields w x = (do some (.rinit (decCommon w) (fld w 36 4) (← decSpec (fld w 30 6)))) := by
    unfold decFields; rw [hw]; rfl
  refine decode_of_fields _ cm 0x47 _ _ x (by decide) ?_ rfl h rfl
  rw [f _ (opcOf_mkWord _ _ _)]
  simp (disch := omega) only [fld_mkWord, get_mkWord, decCommon_mkWord, ext_lo, ext_hi, ext_all, get_lo, get_hi, get_bool, Nat.reduceSub,
    decSpec_encSpec, decLine_encLine, decTile_encTile, decSq_encSq, decAmo_encAmo, decRed_encRed, decIRed_encIRed]
  rfl

theorem Codec.racq (cm d rg) : Codec.Statement (.racq cm d rg) := by
  intro h x
  have f (w : Word) (hw : opcOf w = 0x48) : decFields w x = (do some (.racq (decCommon w) (← decSpec (fld w 24 6)) (fld w 36 4))) := by
    unfold decFields; rw [hw]; rfl
  refine decode_of_fields _ cm 0x48 _ _ x (by decide) ?_ rfl h rfl
  rw [f _ (opcOf_mkWord _ _ _)]
  simp (disch := omega) only [fld_mkWord, get_mkWord, decCommon_mkWord, ext_lo, ext_hi, ext_all, get_lo, get_hi, get_bool, Nat.reduceSub,
    decSpec_encSpec, decLine_encLine, decTile_encTile, decSq_encSq, decAmo_encAmo, decRed_encRed, decIRed_encIRed]
  rfl

theorem Codec.rput (cm rg) : Codec.Statement (.rput cm rg) := by
  intro h x
  have f (w : Word) (hw : opcOf w = 0x49) : decFields w x = (some (.rput (decCommon w) (fld w 36 4))) := by
    unfold decFields; rw [hw]; rfl
  refine decode_of_fields _ cm 0x49 _ _ x (by decide) ?_ rfl h rfl
  rw [f _ (opcOf_mkWord _ _ _)]
  simp (disch := omega) only [fld_mkWord, get_mkWord, decCommon_mkWord, ext_lo, ext_hi, ext_all, get_lo, get_hi, get_bool, Nat.reduceSub,
    decSpec_encSpec, decLine_encLine, decTile_encTile, decSq_encSq, decAmo_encAmo, decRed_encRed, decIRed_encIRed]

theorem Codec.rget (cm d rg) : Codec.Statement (.rget cm d rg) := by
  intro h x
  have f (w : Word) (hw : opcOf w = 0x4a) : decFields w x = (do some (.rget (decCommon w) (← decSpec (fld w 24 6)) (fld w 36 4))) := by
    unfold decFields; rw [hw]; rfl
  refine decode_of_fields _ cm 0x4a _ _ x (by decide) ?_ rfl h rfl
  rw [f _ (opcOf_mkWord _ _ _)]
  simp (disch := omega) only [fld_mkWord, get_mkWord, decCommon_mkWord, ext_lo, ext_hi, ext_all, get_lo, get_hi, get_bool, Nat.reduceSub,
    decSpec_encSpec, decLine_encLine, decTile_encTile, decSq_encSq, decAmo_encAmo, decRed_encRed, decIRed_encIRed]
  rfl

theorem Codec.rrel (cm rg) : Codec.Statement (.rrel cm rg) := by
  intro h x
  have f (w : Word) (hw : opcOf w = 0x4b) : decFields w x = (some (.rrel (decCommon w) (fld w 36 4))) := by
    unfold decFields; rw [hw]; rfl
  refine decode_of_fields _ cm 0x4b _ _ x (by decide) ?_ rfl h rfl
  rw [f _ (opcOf_mkWord _ _ _)]
  simp (disch := omega) only [fld_mkWord, get_mkWord, decCommon_mkWord, ext_lo, ext_hi, ext_all, get_lo, get_hi, get_bool, Nat.reduceSub,
    decSpec_encSpec, decLine_encLine, decTile_encTile, decSq_encSq, decAmo_encAmo, decRed_encRed, decIRed_encIRed]

theorem Codec.rstat (cm d rg) : Codec.Statement (.rstat cm d rg) := by
  intro h x
  have f (w : Word) (hw : opcOf w = 0x4c) : decFields w x = (do some (.rstat (decCommon w) (← decSpec (fld w 24 6)) (fld w 36 4))) := by
    unfold decFields; rw [hw]; rfl
  refine decode_of_fields _ cm 0x4c _ _ x (by decide) ?_ rfl h rfl
  rw [f _ (opcOf_mkWord _ _ _)]
  simp (disch := omega) only [fld_mkWord, get_mkWord, decCommon_mkWord, ext_lo, ext_hi, ext_all, get_lo, get_hi, get_bool, Nat.reduceSub,
    decSpec_encSpec, decLine_encLine, decTile_encTile, decSq_encSq, decAmo_encAmo, decRed_encRed, decIRed_encIRed]
  rfl

theorem Codec.wdog (cm d n) : Codec.Statement (.wdog cm d n) := by
  intro h x
  have f (w : Word) (hw : opcOf w = 0x4d) : decFields w x = (do some (.wdog (decCommon w) (← decSpec (fld w 34 6)) (fld w 0 24))) := by
    unfold decFields; rw [hw]; rfl
  refine decode_of_fields _ cm 0x4d _ _ x (by decide) ?_ rfl h rfl
  rw [f _ (opcOf_mkWord _ _ _)]
  simp (disch := omega) only [fld_mkWord, get_mkWord, decCommon_mkWord, ext_lo, ext_hi, ext_all, get_lo, get_hi, get_bool, Nat.reduceSub,
    decSpec_encSpec, decLine_encLine, decTile_encTile, decSq_encSq, decAmo_encAmo, decRed_encRed, decIRed_encIRed]
  rfl

theorem Codec.lds (cm d a size sx off) : Codec.Statement (.lds cm d a size sx off) := by
  intro h x
  have f (w : Word) (hw : opcOf w = 0x50) : decFields w x = (do some (.lds (decCommon w) (← decSpec (fld w 34 6)) (← decSpec (fld w 28 6)) (fld w 26 2) (w.getLsbD 25) (fld w 0 22))) := by
    unfold decFields; rw [hw]; rfl
  refine decode_of_fields _ cm 0x50 _ _ x (by decide) ?_ rfl h rfl
  rw [f _ (opcOf_mkWord _ _ _)]
  simp (disch := omega) only [fld_mkWord, get_mkWord, decCommon_mkWord, ext_lo, ext_hi, ext_all, get_lo, get_hi, get_bool, Nat.reduceSub,
    decSpec_encSpec, decLine_encLine, decTile_encTile, decSq_encSq, decAmo_encAmo, decRed_encRed, decIRed_encIRed]
  rfl

theorem Codec.sts (cm d a size off) : Codec.Statement (.sts cm d a size off) := by
  intro h x
  have f (w : Word) (hw : opcOf w = 0x51) : decFields w x = (do some (.sts (decCommon w) (← decSpec (fld w 34 6)) (← decSpec (fld w 28 6)) (fld w 26 2) (fld w 0 22))) := by
    unfold decFields; rw [hw]; rfl
  refine decode_of_fields _ cm 0x51 _ _ x (by decide) ?_ rfl h rfl
  rw [f _ (opcOf_mkWord _ _ _)]
  simp (disch := omega) only [fld_mkWord, get_mkWord, decCommon_mkWord, ext_lo, ext_hi, ext_all, get_lo, get_hi, get_bool, Nat.reduceSub,
    decSpec_encSpec, decLine_encLine, decTile_encTile, decSq_encSq, decAmo_encAmo, decRed_encRed, decIRed_encIRed]
  rfl

theorem Codec.vldAddress (cm d a tag off) : Codec.Statement (.vldAddress cm d a tag off) := by
  intro h x
  have f (w : Word) (hw : opcOf w = 0x52) : decFields w x = (if w.getLsbD 27 then do some (.vldGenerator (decCommon w) (← decTile (fld w 28 12)) (fld w 24 3) (fld w 4 5)) else do some (.vldAddress (decCommon w) (← decTile (fld w 28 12)) (← decSpec (fld w 16 6)) (fld w 4 5) (fld w 9 7))) := by
    unfold decFields; rw [hw]; rfl
  refine decode_of_fields _ cm 0x52 _ _ x (by decide) ?_ rfl h rfl
  rw [f _ (opcOf_mkWord _ _ _)]
  simp (disch := omega) only [fld_mkWord, get_mkWord, decCommon_mkWord, ext_lo, ext_hi, ext_all, get_lo, get_hi, get_bool, Nat.reduceSub,
    decSpec_encSpec, decLine_encLine, decTile_encTile, decSq_encSq, decAmo_encAmo, decRed_encRed, decIRed_encIRed]
  rfl

theorem Codec.vldGenerator (cm d g tag) : Codec.Statement (.vldGenerator cm d g tag) := by
  intro h x
  have f (w : Word) (hw : opcOf w = 0x52) : decFields w x = (if w.getLsbD 27 then do some (.vldGenerator (decCommon w) (← decTile (fld w 28 12)) (fld w 24 3) (fld w 4 5)) else do some (.vldAddress (decCommon w) (← decTile (fld w 28 12)) (← decSpec (fld w 16 6)) (fld w 4 5) (fld w 9 7))) := by
    unfold decFields; rw [hw]; rfl
  refine decode_of_fields _ cm 0x52 _ _ x (by decide) ?_ rfl h rfl
  rw [f _ (opcOf_mkWord _ _ _)]
  simp (disch := omega) only [fld_mkWord, get_mkWord, decCommon_mkWord, ext_lo, ext_hi, ext_all, get_lo, get_hi, get_bool, Nat.reduceSub,
    decSpec_encSpec, decLine_encLine, decTile_encTile, decSq_encSq, decAmo_encAmo, decRed_encRed, decIRed_encIRed]
  rfl

theorem Codec.vstAddress (cm d a off) : Codec.Statement (.vstAddress cm d a off) := by
  intro h x
  have f (w : Word) (hw : opcOf w = 0x53) : decFields w x = (if w.getLsbD 39 then do some (.vstGenerator (decCommon w) (fld w 36 3) (← decTile (fld w 16 12))) else do some (.vstAddress (decCommon w) (← decSpec (fld w 28 6)) (← decTile (fld w 16 12)) (fld w 9 7))) := by
    unfold decFields; rw [hw]; rfl
  refine decode_of_fields _ cm 0x53 _ _ x (by decide) ?_ rfl h rfl
  rw [f _ (opcOf_mkWord _ _ _)]
  simp (disch := omega) only [fld_mkWord, get_mkWord, decCommon_mkWord, ext_lo, ext_hi, ext_all, get_lo, get_hi, get_bool, Nat.reduceSub,
    decSpec_encSpec, decLine_encLine, decTile_encTile, decSq_encSq, decAmo_encAmo, decRed_encRed, decIRed_encIRed]
  rfl

theorem Codec.vstGenerator (cm g a) : Codec.Statement (.vstGenerator cm g a) := by
  intro h x
  have f (w : Word) (hw : opcOf w = 0x53) : decFields w x = (if w.getLsbD 39 then do some (.vstGenerator (decCommon w) (fld w 36 3) (← decTile (fld w 16 12))) else do some (.vstAddress (decCommon w) (← decSpec (fld w 28 6)) (← decTile (fld w 16 12)) (fld w 9 7))) := by
    unfold decFields; rw [hw]; rfl
  refine decode_of_fields _ cm 0x53 _ _ x (by decide) ?_ rfl h rfl
  rw [f _ (opcOf_mkWord _ _ _)]
  simp (disch := omega) only [fld_mkWord, get_mkWord, decCommon_mkWord, ext_lo, ext_hi, ext_all, get_lo, get_hi, get_bool, Nat.reduceSub,
    decSpec_encSpec, decLine_encLine, decTile_encTile, decSq_encSq, decAmo_encAmo, decRed_encRed, decIRed_encIRed]
  rfl

theorem Codec.gset (cm g a) : Codec.Statement (.gset cm g a) := by
  intro h x
  have f (w : Word) (hw : opcOf w = 0x54) : decFields w x = (do some (.gset (decCommon w) (fld w 36 4) (← decSpec (fld w 30 6)))) := by
    unfold decFields; rw [hw]; rfl
  refine decode_of_fields _ cm 0x54 _ _ x (by decide) ?_ rfl h rfl
  rw [f _ (opcOf_mkWord _ _ _)]
  simp (disch := omega) only [fld_mkWord, get_mkWord, decCommon_mkWord, ext_lo, ext_hi, ext_all, get_lo, get_hi, get_bool, Nat.reduceSub,
    decSpec_encSpec, decLine_encLine, decTile_encTile, decSq_encSq, decAmo_encAmo, decRed_encRed, decIRed_encIRed]
  rfl

theorem Codec.gpos (cm g a) : Codec.Statement (.gpos cm g a) := by
  intro h x
  have f (w : Word) (hw : opcOf w = 0x55) : decFields w x = (do some (.gpos (decCommon w) (fld w 36 4) (← decSpec (fld w 30 6)))) := by
    unfold decFields; rw [hw]; rfl
  refine decode_of_fields _ cm 0x55 _ _ x (by decide) ?_ rfl h rfl
  rw [f _ (opcOf_mkWord _ _ _)]
  simp (disch := omega) only [fld_mkWord, get_mkWord, decCommon_mkWord, ext_lo, ext_hi, ext_all, get_lo, get_hi, get_bool, Nat.reduceSub,
    decSpec_encSpec, decLine_encLine, decTile_encTile, decSq_encSq, decAmo_encAmo, decRed_encRed, decIRed_encIRed]
  rfl

theorem Codec.genstat (cm d g) : Codec.Statement (.genstat cm d g) := by
  intro h x
  have f (w : Word) (hw : opcOf w = 0x56) : decFields w x = (do some (.genstat (decCommon w) (← decSpec (fld w 24 6)) (fld w 36 4))) := by
    unfold decFields; rw [hw]; rfl
  refine decode_of_fields _ cm 0x56 _ _ x (by decide) ?_ rfl h rfl
  rw [f _ (opcOf_mkWord _ _ _)]
  simp (disch := omega) only [fld_mkWord, get_mkWord, decCommon_mkWord, ext_lo, ext_hi, ext_all, get_lo, get_hi, get_bool, Nat.reduceSub,
    decSpec_encSpec, decLine_encLine, decTile_encTile, decSq_encSq, decAmo_encAmo, decRed_encRed, decIRed_encIRed]
  rfl

theorem Codec.zzero (cm tile countM1) : Codec.Statement (.zzero cm tile countM1) := by
  intro h x
  have f (w : Word) (hw : opcOf w = 0x57) : decFields w x = (some (.zzero (decCommon w) (fld w 33 6) (fld w 4 6))) := by
    unfold decFields; rw [hw]; rfl
  refine decode_of_fields _ cm 0x57 _ _ x (by decide) ?_ rfl h rfl
  rw [f _ (opcOf_mkWord _ _ _)]
  simp (disch := omega) only [fld_mkWord, get_mkWord, decCommon_mkWord, ext_lo, ext_hi, ext_all, get_lo, get_hi, get_bool, Nat.reduceSub,
    decSpec_encSpec, decLine_encLine, decTile_encTile, decSq_encSq, decAmo_encAmo, decRed_encRed, decIRed_encIRed]

theorem Codec.zinfo (cm d tile) : Codec.Statement (.zinfo cm d tile) := by
  intro h x
  have f (w : Word) (hw : opcOf w = 0x58) : decFields w x = (do some (.zinfo (decCommon w) (← decSpec (fld w 34 6)) (fld w 0 6))) := by
    unfold decFields; rw [hw]; rfl
  refine decode_of_fields _ cm 0x58 _ _ x (by decide) ?_ rfl h rfl
  rw [f _ (opcOf_mkWord _ _ _)]
  simp (disch := omega) only [fld_mkWord, get_mkWord, decCommon_mkWord, ext_lo, ext_hi, ext_all, get_lo, get_hi, get_bool, Nat.reduceSub,
    decSpec_encSpec, decLine_encLine, decTile_encTile, decSq_encSq, decAmo_encAmo, decRed_encRed, decIRed_encIRed]
  rfl

theorem Codec.ld (cm d a size sx off) : Codec.Statement (.ld cm d a size sx off) := by
  intro h x
  have f (w : Word) (hw : opcOf w = 0x60) : decFields w x = (do some (.ld (decCommon w) (← decSpec (fld w 34 6)) (← decSpec (fld w 28 6)) (fld w 26 2) (w.getLsbD 25) (fld w 0 22))) := by
    unfold decFields; rw [hw]; rfl
  refine decode_of_fields _ cm 0x60 _ _ x (by decide) ?_ rfl h rfl
  rw [f _ (opcOf_mkWord _ _ _)]
  simp (disch := omega) only [fld_mkWord, get_mkWord, decCommon_mkWord, ext_lo, ext_hi, ext_all, get_lo, get_hi, get_bool, Nat.reduceSub,
    decSpec_encSpec, decLine_encLine, decTile_encTile, decSq_encSq, decAmo_encAmo, decRed_encRed, decIRed_encIRed]
  rfl

theorem Codec.st (cm d a size off) : Codec.Statement (.st cm d a size off) := by
  intro h x
  have f (w : Word) (hw : opcOf w = 0x61) : decFields w x = (do some (.st (decCommon w) (← decSpec (fld w 34 6)) (← decSpec (fld w 28 6)) (fld w 26 2) (fld w 0 22))) := by
    unfold decFields; rw [hw]; rfl
  refine decode_of_fields _ cm 0x61 _ _ x (by decide) ?_ rfl h rfl
  rw [f _ (opcOf_mkWord _ _ _)]
  simp (disch := omega) only [fld_mkWord, get_mkWord, decCommon_mkWord, ext_lo, ext_hi, ext_all, get_lo, get_hi, get_bool, Nat.reduceSub,
    decSpec_encSpec, decLine_encLine, decTile_encTile, decSq_encSq, decAmo_encAmo, decRed_encRed, decIRed_encIRed]
  rfl

theorem Codec.lda (cm d a scope width) : Codec.Statement (.lda cm d a scope width) := by
  intro h x
  have f (w : Word) (hw : opcOf w = 0x62) : decFields w x = (do some (.lda (decCommon w) (← decSpec (fld w 34 6)) (← decSpec (fld w 28 6)) (fld w 18 4) (fld w 10 2))) := by
    unfold decFields; rw [hw]; rfl
  refine decode_of_fields _ cm 0x62 _ _ x (by decide) ?_ rfl h rfl
  rw [f _ (opcOf_mkWord _ _ _)]
  simp (disch := omega) only [fld_mkWord, get_mkWord, decCommon_mkWord, ext_lo, ext_hi, ext_all, get_lo, get_hi, get_bool, Nat.reduceSub,
    decSpec_encSpec, decLine_encLine, decTile_encTile, decSq_encSq, decAmo_encAmo, decRed_encRed, decIRed_encIRed]
  rfl

theorem Codec.stl (cm a b scope width) : Codec.Statement (.stl cm a b scope width) := by
  intro h x
  have f (w : Word) (hw : opcOf w = 0x63) : decFields w x = (do some (.stl (decCommon w) (← decSpec (fld w 28 6)) (← decSpec (fld w 22 6)) (fld w 18 4) (fld w 10 2))) := by
    unfold decFields; rw [hw]; rfl
  refine decode_of_fields _ cm 0x63 _ _ x (by decide) ?_ rfl h rfl
  rw [f _ (opcOf_mkWord _ _ _)]
  simp (disch := omega) only [fld_mkWord, get_mkWord, decCommon_mkWord, ext_lo, ext_hi, ext_all, get_lo, get_hi, get_bool, Nat.reduceSub,
    decSpec_encSpec, decLine_encLine, decTile_encTile, decSq_encSq, decAmo_encAmo, decRed_encRed, decIRed_encIRed]
  rfl

theorem Codec.amo (cm d a b scope op width) : Codec.Statement (.amo cm d a b scope op width) := by
  intro h x
  have f (w : Word) (hw : opcOf w = 0x64) : decFields w x = (do some (.amo (decCommon w) (← decSpec (fld w 34 6)) (← decSpec (fld w 28 6)) (← decSpec (fld w 22 6)) (fld w 18 4) (← decAmo (fld w 12 6)) (fld w 10 2))) := by
    unfold decFields; rw [hw]; rfl
  refine decode_of_fields _ cm 0x64 _ _ x (by decide) ?_ rfl h rfl
  rw [f _ (opcOf_mkWord _ _ _)]
  simp (disch := omega) only [fld_mkWord, get_mkWord, decCommon_mkWord, ext_lo, ext_hi, ext_all, get_lo, get_hi, get_bool, Nat.reduceSub,
    decSpec_encSpec, decLine_encLine, decTile_encTile, decSq_encSq, decAmo_encAmo, decRed_encRed, decIRed_encIRed]
  rfl

theorem Codec.cas (cm d a b scope width) : Codec.Statement (.cas cm d a b scope width) := by
  intro h x
  have f (w : Word) (hw : opcOf w = 0x65) : decFields w x = (do some (.cas (decCommon w) (fld w 34 5) (← decSpec (fld w 28 6)) (← decSpec (fld w 22 6)) (fld w 18 4) (fld w 10 2))) := by
    unfold decFields; rw [hw]; rfl
  refine decode_of_fields _ cm 0x65 _ _ x (by decide) ?_ rfl h rfl
  rw [f _ (opcOf_mkWord _ _ _)]
  simp (disch := omega) only [fld_mkWord, get_mkWord, decCommon_mkWord, ext_lo, ext_hi, ext_all, get_lo, get_hi, get_bool, Nat.reduceSub,
    decSpec_encSpec, decLine_encLine, decTile_encTile, decSq_encSq, decAmo_encAmo, decRed_encRed, decIRed_encIRed]
  rfl

theorem Codec.red (cm a b scope op width) : Codec.Statement (.red cm a b scope op width) := by
  intro h x
  have f (w : Word) (hw : opcOf w = 0x66) : decFields w x = (do some (.red (decCommon w) (← decSpec (fld w 28 6)) (← decSpec (fld w 22 6)) (fld w 18 4) (← decAmo (fld w 12 6)) (fld w 10 2))) := by
    unfold decFields; rw [hw]; rfl
  refine decode_of_fields _ cm 0x66 _ _ x (by decide) ?_ rfl h rfl
  rw [f _ (opcOf_mkWord _ _ _)]
  simp (disch := omega) only [fld_mkWord, get_mkWord, decCommon_mkWord, ext_lo, ext_hi, ext_all, get_lo, get_hi, get_bool, Nat.reduceSub,
    decSpec_encSpec, decLine_encLine, decTile_encTile, decSq_encSq, decAmo_encAmo, decRed_encRed, decIRed_encIRed]
  rfl

theorem Codec.fence (cm scope kinds) : Codec.Statement (.fence cm scope kinds) := by
  intro h x
  have f (w : Word) (hw : opcOf w = 0x67) : decFields w x = (some (.fence (decCommon w) (fld w 18 4) (fld w 12 3))) := by
    unfold decFields; rw [hw]; rfl
  refine decode_of_fields _ cm 0x67 _ _ x (by decide) ?_ rfl h rfl
  rw [f _ (opcOf_mkWord _ _ _)]
  simp (disch := omega) only [fld_mkWord, get_mkWord, decCommon_mkWord, ext_lo, ext_hi, ext_all, get_lo, get_hi, get_bool, Nat.reduceSub,
    decSpec_encSpec, decLine_encLine, decTile_encTile, decSq_encSq, decAmo_encAmo, decRed_encRed, decIRed_encIRed]

theorem Codec.scset (cm n a d) : Codec.Statement (.scset cm n a d) := by
  intro h x
  have f (w : Word) (hw : opcOf w = 0x68) : decFields w x = (do some (.scset (decCommon w) (fld w 36 4) (← decSpec (fld w 30 6)) (← decSpec (fld w 24 6)))) := by
    unfold decFields; rw [hw]; rfl
  refine decode_of_fields _ cm 0x68 _ _ x (by decide) ?_ rfl h rfl
  rw [f _ (opcOf_mkWord _ _ _)]
  simp (disch := omega) only [fld_mkWord, get_mkWord, decCommon_mkWord, ext_lo, ext_hi, ext_all, get_lo, get_hi, get_bool, Nat.reduceSub,
    decSpec_encSpec, decLine_encLine, decTile_encTile, decSq_encSq, decAmo_encAmo, decRed_encRed, decIRed_encIRed]
  rfl

theorem Codec.scget (cm d n slices) : Codec.Statement (.scget cm d n slices) := by
  intro h x
  have f (w : Word) (hw : opcOf w = 0x69) : decFields w x = (do some (.scget (decCommon w) (← decSpec (fld w 24 6)) (fld w 36 4) (w.getLsbD 0))) := by
    unfold decFields; rw [hw]; rfl
  refine decode_of_fields _ cm 0x69 _ _ x (by decide) ?_ rfl h rfl
  rw [f _ (opcOf_mkWord _ _ _)]
  simp (disch := omega) only [fld_mkWord, get_mkWord, decCommon_mkWord, ext_lo, ext_hi, ext_all, get_lo, get_hi, get_bool, Nat.reduceSub,
    decSpec_encSpec, decLine_encLine, decTile_encTile, decSq_encSq, decAmo_encAmo, decRed_encRed, decIRed_encIRed]
  rfl

theorem Codec.cpush (cm d q a) : Codec.Statement (.cpush cm d q a) := by
  intro h x
  have f (w : Word) (hw : opcOf w = 0x70) : decFields w x = (do some (.cpush (decCommon w) (← decSpec (fld w 24 6)) (w.getLsbD 36) (← decSpec (fld w 30 6)))) := by
    unfold decFields; rw [hw]; rfl
  refine decode_of_fields _ cm 0x70 _ _ x (by decide) ?_ rfl h rfl
  rw [f _ (opcOf_mkWord _ _ _)]
  simp (disch := omega) only [fld_mkWord, get_mkWord, decCommon_mkWord, ext_lo, ext_hi, ext_all, get_lo, get_hi, get_bool, Nat.reduceSub,
    decSpec_encSpec, decLine_encLine, decTile_encTile, decSq_encSq, decAmo_encAmo, decRed_encRed, decIRed_encIRed]
  rfl

theorem Codec.cpop (cm d q) : Codec.Statement (.cpop cm d q) := by
  intro h x
  have f (w : Word) (hw : opcOf w = 0x71) : decFields w x = (do some (.cpop (decCommon w) (← decSpec (fld w 24 6)) (w.getLsbD 36))) := by
    unfold decFields; rw [hw]; rfl
  refine decode_of_fields _ cm 0x71 _ _ x (by decide) ?_ rfl h rfl
  rw [f _ (opcOf_mkWord _ _ _)]
  simp (disch := omega) only [fld_mkWord, get_mkWord, decCommon_mkWord, ext_lo, ext_hi, ext_all, get_lo, get_hi, get_bool, Nat.reduceSub,
    decSpec_encSpec, decLine_encLine, decTile_encTile, decSq_encSq, decAmo_encAmo, decRed_encRed, decIRed_encIRed]
  rfl

theorem Codec.cpeek (cm d q) : Codec.Statement (.cpeek cm d q) := by
  intro h x
  have f (w : Word) (hw : opcOf w = 0x72) : decFields w x = (do some (.cpeek (decCommon w) (← decSpec (fld w 24 6)) (w.getLsbD 36))) := by
    unfold decFields; rw [hw]; rfl
  refine decode_of_fields _ cm 0x72 _ _ x (by decide) ?_ rfl h rfl
  rw [f _ (opcOf_mkWord _ _ _)]
  simp (disch := omega) only [fld_mkWord, get_mkWord, decCommon_mkWord, ext_lo, ext_hi, ext_all, get_lo, get_hi, get_bool, Nat.reduceSub,
    decSpec_encSpec, decLine_encLine, decTile_encTile, decSq_encSq, decAmo_encAmo, decRed_encRed, decIRed_encIRed]
  rfl

theorem Codec.cchain (cm q a spad) : Codec.Statement (.cchain cm q a spad) := by
  intro h x
  have f (w : Word) (hw : opcOf w = 0x73) : decFields w x = (do some (.cchain (decCommon w) (w.getLsbD 36) (← decSpec (fld w 30 6)) (w.getLsbD 0))) := by
    unfold decFields; rw [hw]; rfl
  refine decode_of_fields _ cm 0x73 _ _ x (by decide) ?_ rfl h rfl
  rw [f _ (opcOf_mkWord _ _ _)]
  simp (disch := omega) only [fld_mkWord, get_mkWord, decCommon_mkWord, ext_lo, ext_hi, ext_all, get_lo, get_hi, get_bool, Nat.reduceSub,
    decSpec_encSpec, decLine_encLine, decTile_encTile, decSq_encSq, decAmo_encAmo, decRed_encRed, decIRed_encIRed]
  rfl

theorem Codec.ckick (cm q a n) : Codec.Statement (.ckick cm q a n) := by
  intro h x
  have f (w : Word) (hw : opcOf w = 0x74) : decFields w x = (do some (.ckick (decCommon w) (w.getLsbD 36) (← decSpec (fld w 30 6)) (fld w 0 16))) := by
    unfold decFields; rw [hw]; rfl
  refine decode_of_fields _ cm 0x74 _ _ x (by decide) ?_ rfl h rfl
  rw [f _ (opcOf_mkWord _ _ _)]
  simp (disch := omega) only [fld_mkWord, get_mkWord, decCommon_mkWord, ext_lo, ext_hi, ext_all, get_lo, get_hi, get_bool, Nat.reduceSub,
    decSpec_encSpec, decLine_encLine, decTile_encTile, decSq_encSq, decAmo_encAmo, decRed_encRed, decIRed_encIRed]
  rfl

theorem Codec.cqstat (cm d q) : Codec.Statement (.cqstat cm d q) := by
  intro h x
  have f (w : Word) (hw : opcOf w = 0x75) : decFields w x = (do some (.cqstat (decCommon w) (← decSpec (fld w 24 6)) (w.getLsbD 36))) := by
    unfold decFields; rw [hw]; rfl
  refine decode_of_fields _ cm 0x75 _ _ x (by decide) ?_ rfl h rfl
  rw [f _ (opcOf_mkWord _ _ _)]
  simp (disch := omega) only [fld_mkWord, get_mkWord, decCommon_mkWord, ext_lo, ext_hi, ext_all, get_lo, get_hi, get_bool, Nat.reduceSub,
    decSpec_encSpec, decLine_encLine, decTile_encTile, decSq_encSq, decAmo_encAmo, decRed_encRed, decIRed_encIRed]
  rfl

theorem Codec.cabort (cm q a) : Codec.Statement (.cabort cm q a) := by
  intro h x
  have f (w : Word) (hw : opcOf w = 0x76) : decFields w x = (do some (.cabort (decCommon w) (w.getLsbD 36) (← decSpec (fld w 30 6)))) := by
    unfold decFields; rw [hw]; rfl
  refine decode_of_fields _ cm 0x76 _ _ x (by decide) ?_ rfl h rfl
  rw [f _ (opcOf_mkWord _ _ _)]
  simp (disch := omega) only [fld_mkWord, get_mkWord, decCommon_mkWord, ext_lo, ext_hi, ext_all, get_lo, get_hi, get_bool, Nat.reduceSub,
    decSpec_encSpec, decLine_encLine, decTile_encTile, decSq_encSq, decAmo_encAmo, decRed_encRed, decIRed_encIRed]
  rfl

theorem Codec.cvt (cm d a tag part sat p) : Codec.Statement (.cvt cm d a tag part sat p) := by
  intro h x
  have f (w : Word) (hw : opcOf w = 0x78) : decFields w x = (do some (.cvt (decCommon w) (← decTile (fld w 28 12)) (← decTile (fld w 16 12)) (fld w 4 5) (fld w 9 3) (w.getLsbD 12) (fld w 1 3))) := by
    unfold decFields; rw [hw]; rfl
  refine decode_of_fields _ cm 0x78 _ _ x (by decide) ?_ rfl h rfl
  rw [f _ (opcOf_mkWord _ _ _)]
  simp (disch := omega) only [fld_mkWord, get_mkWord, decCommon_mkWord, ext_lo, ext_hi, ext_all, get_lo, get_hi, get_bool, Nat.reduceSub,
    decSpec_encSpec, decLine_encLine, decTile_encTile, decSq_encSq, decAmo_encAmo, decRed_encRed, decIRed_encIRed]
  rfl

theorem Codec.cvtr (cm d a b p) : Codec.Statement (.cvtr cm d a b p) := by
  intro h x
  have f (w : Word) (hw : opcOf w = 0x79) : decFields w x = (do some (.cvtr (decCommon w) (← decTile (fld w 28 12)) (← decTile (fld w 16 12)) (← decTile (fld w 4 12)) (fld w 1 3))) := by
    unfold decFields; rw [hw]; rfl
  refine decode_of_fields _ cm 0x79 _ _ x (by decide) ?_ rfl h rfl
  rw [f _ (opcOf_mkWord _ _ _)]
  simp (disch := omega) only [fld_mkWord, get_mkWord, decCommon_mkWord, ext_lo, ext_hi, ext_all, get_lo, get_hi, get_bool, Nat.reduceSub,
    decSpec_encSpec, decLine_encLine, decTile_encTile, decSq_encSq, decAmo_encAmo, decRed_encRed, decIRed_encIRed]
  rfl

theorem Codec.qmx (cm d a sc prec part fit) : Codec.Statement (.qmx cm d a sc prec part fit) := by
  intro h x
  have f (w : Word) (hw : opcOf w = 0x7a) : decFields w x = (do some (.qmx (decCommon w) (← decTile (fld w 28 12)) (← decTile (fld w 16 12)) (fld w 4 5) (fld w 10 3) (fld w 13 2) (w.getLsbD 15))) := by
    unfold decFields; rw [hw]; rfl
  refine decode_of_fields _ cm 0x7a _ _ x (by decide) ?_ rfl h rfl
  rw [f _ (opcOf_mkWord _ _ _)]
  simp (disch := omega) only [fld_mkWord, get_mkWord, decCommon_mkWord, ext_lo, ext_hi, ext_all, get_lo, get_hi, get_bool, Nat.reduceSub,
    decSpec_encSpec, decLine_encLine, decTile_encTile, decSq_encSq, decAmo_encAmo, decRed_encRed, decIRed_encIRed]
  rfl

theorem Codec.dqmx (cm d a sc fmt part p) : Codec.Statement (.dqmx cm d a sc fmt part p) := by
  intro h x
  have f (w : Word) (hw : opcOf w = 0x7b) : decFields w x = (do some (.dqmx (decCommon w) (← decTile (fld w 28 12)) (← decTile (fld w 16 12)) (← decSpec (fld w 4 6)) (fld w 10 2) (fld w 12 2) (fld w 1 3))) := by
    unfold decFields; rw [hw]; rfl
  refine decode_of_fields _ cm 0x7b _ _ x (by decide) ?_ rfl h rfl
  rw [f _ (opcOf_mkWord _ _ _)]
  simp (disch := omega) only [fld_mkWord, get_mkWord, decCommon_mkWord, ext_lo, ext_hi, ext_all, get_lo, get_hi, get_bool, Nat.reduceSub,
    decSpec_encSpec, decLine_encLine, decTile_encTile, decSq_encSq, decAmo_encAmo, decRed_encRed, decIRed_encIRed]
  rfl

theorem Codec.pack (cm d a b p) : Codec.Statement (.pack cm d a b p) := by
  intro h x
  have f (w : Word) (hw : opcOf w = 0x7c) : decFields w x = (do some (.pack (decCommon w) (← decTile (fld w 28 12)) (← decTile (fld w 16 12)) (← decTile (fld w 4 12)) (fld w 1 3))) := by
    unfold decFields; rw [hw]; rfl
  refine decode_of_fields _ cm 0x7c _ _ x (by decide) ?_ rfl h rfl
  rw [f _ (opcOf_mkWord _ _ _)]
  simp (disch := omega) only [fld_mkWord, get_mkWord, decCommon_mkWord, ext_lo, ext_hi, ext_all, get_lo, get_hi, get_bool, Nat.reduceSub,
    decSpec_encSpec, decLine_encLine, decTile_encTile, decSq_encSq, decAmo_encAmo, decRed_encRed, decIRed_encIRed]
  rfl

theorem Codec.unpack (cm d a tag hi p) : Codec.Statement (.unpack cm d a tag hi p) := by
  intro h x
  have f (w : Word) (hw : opcOf w = 0x7d) : decFields w x = (do some (.unpack (decCommon w) (← decTile (fld w 28 12)) (← decTile (fld w 16 12)) (fld w 4 5) (w.getLsbD 9) (fld w 1 3))) := by
    unfold decFields; rw [hw]; rfl
  refine decode_of_fields _ cm 0x7d _ _ x (by decide) ?_ rfl h rfl
  rw [f _ (opcOf_mkWord _ _ _)]
  simp (disch := omega) only [fld_mkWord, get_mkWord, decCommon_mkWord, ext_lo, ext_hi, ext_all, get_lo, get_hi, get_bool, Nat.reduceSub,
    decSpec_encSpec, decLine_encLine, decTile_encTile, decSq_encSq, decAmo_encAmo, decRed_encRed, decIRed_encIRed]
  rfl

theorem Codec.ztag (cm tile tag) : Codec.Statement (.ztag cm tile tag) := by
  intro h x
  have f (w : Word) (hw : opcOf w = 0x7e) : decFields w x = (some (.ztag (decCommon w) (fld w 0 6) (fld w 6 5))) := by
    unfold decFields; rw [hw]; rfl
  refine decode_of_fields _ cm 0x7e _ _ x (by decide) ?_ rfl h rfl
  rw [f _ (opcOf_mkWord _ _ _)]
  simp (disch := omega) only [fld_mkWord, get_mkWord, decCommon_mkWord, ext_lo, ext_hi, ext_all, get_lo, get_hi, get_bool, Nat.reduceSub,
    decSpec_encSpec, decLine_encLine, decTile_encTile, decSq_encSq, decAmo_encAmo, decRed_encRed, decIRed_encIRed]

theorem Codec.ztagr (cm d a b) : Codec.Statement (.ztagr cm d a b) := by
  intro h x
  have f (w : Word) (hw : opcOf w = 0x7f) : decFields w x = (do some (.ztagr (decCommon w) (← decSpec (fld w 34 6)) (← decSpec (fld w 28 6)) (← decSpec (fld w 22 6)))) := by
    unfold decFields; rw [hw]; rfl
  refine decode_of_fields _ cm 0x7f _ _ x (by decide) ?_ rfl h rfl
  rw [f _ (opcOf_mkWord _ _ _)]
  simp (disch := omega) only [fld_mkWord, get_mkWord, decCommon_mkWord, ext_lo, ext_hi, ext_all, get_lo, get_hi, get_bool, Nat.reduceSub,
    decSpec_encSpec, decLine_encLine, decTile_encTile, decSq_encSq, decAmo_encAmo, decRed_encRed, decIRed_encIRed]
  rfl

theorem Codec.vfadd (cm d a b p) : Codec.Statement (.vfadd cm d a b p) := by
  intro h x
  have f (w : Word) (hw : opcOf w = 0x80) : decFields w x = (some (.vfadd (decCommon w) (decLine (fld w 28 12)) (decLine (fld w 16 12)) (decLine (fld w 4 12)) (fld w 1 3))) := by
    unfold decFields; rw [hw]; rfl
  refine decode_of_fields _ cm 0x80 _ _ x (by decide) ?_ rfl h rfl
  rw [f _ (opcOf_mkWord _ _ _)]
  simp (disch := omega) only [fld_mkWord, get_mkWord, decCommon_mkWord, ext_lo, ext_hi, ext_all, get_lo, get_hi, get_bool, Nat.reduceSub,
    decSpec_encSpec, decLine_encLine, decTile_encTile, decSq_encSq, decAmo_encAmo, decRed_encRed, decIRed_encIRed]

theorem Codec.vfsub (cm d a b p) : Codec.Statement (.vfsub cm d a b p) := by
  intro h x
  have f (w : Word) (hw : opcOf w = 0x81) : decFields w x = (some (.vfsub (decCommon w) (decLine (fld w 28 12)) (decLine (fld w 16 12)) (decLine (fld w 4 12)) (fld w 1 3))) := by
    unfold decFields; rw [hw]; rfl
  refine decode_of_fields _ cm 0x81 _ _ x (by decide) ?_ rfl h rfl
  rw [f _ (opcOf_mkWord _ _ _)]
  simp (disch := omega) only [fld_mkWord, get_mkWord, decCommon_mkWord, ext_lo, ext_hi, ext_all, get_lo, get_hi, get_bool, Nat.reduceSub,
    decSpec_encSpec, decLine_encLine, decTile_encTile, decSq_encSq, decAmo_encAmo, decRed_encRed, decIRed_encIRed]

theorem Codec.vfmul (cm d a b p) : Codec.Statement (.vfmul cm d a b p) := by
  intro h x
  have f (w : Word) (hw : opcOf w = 0x82) : decFields w x = (some (.vfmul (decCommon w) (decLine (fld w 28 12)) (decLine (fld w 16 12)) (decLine (fld w 4 12)) (fld w 1 3))) := by
    unfold decFields; rw [hw]; rfl
  refine decode_of_fields _ cm 0x82 _ _ x (by decide) ?_ rfl h rfl
  rw [f _ (opcOf_mkWord _ _ _)]
  simp (disch := omega) only [fld_mkWord, get_mkWord, decCommon_mkWord, ext_lo, ext_hi, ext_all, get_lo, get_hi, get_bool, Nat.reduceSub,
    decSpec_encSpec, decLine_encLine, decTile_encTile, decSq_encSq, decAmo_encAmo, decRed_encRed, decIRed_encIRed]

theorem Codec.vfma (cm d a b p) : Codec.Statement (.vfma cm d a b p) := by
  intro h x
  have f (w : Word) (hw : opcOf w = 0x83) : decFields w x = (do some (.vfma (decCommon w) (← decTile (fld w 28 12)) (decLine (fld w 16 12)) (decLine (fld w 4 12)) (fld w 1 3))) := by
    unfold decFields; rw [hw]; rfl
  refine decode_of_fields _ cm 0x83 _ _ x (by decide) ?_ rfl h rfl
  rw [f _ (opcOf_mkWord _ _ _)]
  simp (disch := omega) only [fld_mkWord, get_mkWord, decCommon_mkWord, ext_lo, ext_hi, ext_all, get_lo, get_hi, get_bool, Nat.reduceSub,
    decSpec_encSpec, decLine_encLine, decTile_encTile, decSq_encSq, decAmo_encAmo, decRed_encRed, decIRed_encIRed]
  rfl

theorem Codec.vfms (cm d a b p) : Codec.Statement (.vfms cm d a b p) := by
  intro h x
  have f (w : Word) (hw : opcOf w = 0x84) : decFields w x = (do some (.vfms (decCommon w) (← decTile (fld w 28 12)) (decLine (fld w 16 12)) (decLine (fld w 4 12)) (fld w 1 3))) := by
    unfold decFields; rw [hw]; rfl
  refine decode_of_fields _ cm 0x84 _ _ x (by decide) ?_ rfl h rfl
  rw [f _ (opcOf_mkWord _ _ _)]
  simp (disch := omega) only [fld_mkWord, get_mkWord, decCommon_mkWord, ext_lo, ext_hi, ext_all, get_lo, get_hi, get_bool, Nat.reduceSub,
    decSpec_encSpec, decLine_encLine, decTile_encTile, decSq_encSq, decAmo_encAmo, decRed_encRed, decIRed_encIRed]
  rfl

theorem Codec.vfnma (cm d a b p) : Codec.Statement (.vfnma cm d a b p) := by
  intro h x
  have f (w : Word) (hw : opcOf w = 0x85) : decFields w x = (do some (.vfnma (decCommon w) (← decTile (fld w 28 12)) (decLine (fld w 16 12)) (decLine (fld w 4 12)) (fld w 1 3))) := by
    unfold decFields; rw [hw]; rfl
  refine decode_of_fields _ cm 0x85 _ _ x (by decide) ?_ rfl h rfl
  rw [f _ (opcOf_mkWord _ _ _)]
  simp (disch := omega) only [fld_mkWord, get_mkWord, decCommon_mkWord, ext_lo, ext_hi, ext_all, get_lo, get_hi, get_bool, Nat.reduceSub,
    decSpec_encSpec, decLine_encLine, decTile_encTile, decSq_encSq, decAmo_encAmo, decRed_encRed, decIRed_encIRed]
  rfl

theorem Codec.vfmin (cm d a b p) : Codec.Statement (.vfmin cm d a b p) := by
  intro h x
  have f (w : Word) (hw : opcOf w = 0x86) : decFields w x = (some (.vfmin (decCommon w) (decLine (fld w 28 12)) (decLine (fld w 16 12)) (decLine (fld w 4 12)) (fld w 1 3))) := by
    unfold decFields; rw [hw]; rfl
  refine decode_of_fields _ cm 0x86 _ _ x (by decide) ?_ rfl h rfl
  rw [f _ (opcOf_mkWord _ _ _)]
  simp (disch := omega) only [fld_mkWord, get_mkWord, decCommon_mkWord, ext_lo, ext_hi, ext_all, get_lo, get_hi, get_bool, Nat.reduceSub,
    decSpec_encSpec, decLine_encLine, decTile_encTile, decSq_encSq, decAmo_encAmo, decRed_encRed, decIRed_encIRed]

theorem Codec.vfmax (cm d a b p) : Codec.Statement (.vfmax cm d a b p) := by
  intro h x
  have f (w : Word) (hw : opcOf w = 0x87) : decFields w x = (some (.vfmax (decCommon w) (decLine (fld w 28 12)) (decLine (fld w 16 12)) (decLine (fld w 4 12)) (fld w 1 3))) := by
    unfold decFields; rw [hw]; rfl
  refine decode_of_fields _ cm 0x87 _ _ x (by decide) ?_ rfl h rfl
  rw [f _ (opcOf_mkWord _ _ _)]
  simp (disch := omega) only [fld_mkWord, get_mkWord, decCommon_mkWord, ext_lo, ext_hi, ext_all, get_lo, get_hi, get_bool, Nat.reduceSub,
    decSpec_encSpec, decLine_encLine, decTile_encTile, decSq_encSq, decAmo_encAmo, decRed_encRed, decIRed_encIRed]

theorem Codec.vfabs (cm d a p) : Codec.Statement (.vfabs cm d a p) := by
  intro h x
  have f (w : Word) (hw : opcOf w = 0x88) : decFields w x = (some (.vfabs (decCommon w) (decLine (fld w 28 12)) (decLine (fld w 16 12)) (fld w 1 3))) := by
    unfold decFields; rw [hw]; rfl
  refine decode_of_fields _ cm 0x88 _ _ x (by decide) ?_ rfl h rfl
  rw [f _ (opcOf_mkWord _ _ _)]
  simp (disch := omega) only [fld_mkWord, get_mkWord, decCommon_mkWord, ext_lo, ext_hi, ext_all, get_lo, get_hi, get_bool, Nat.reduceSub,
    decSpec_encSpec, decLine_encLine, decTile_encTile, decSq_encSq, decAmo_encAmo, decRed_encRed, decIRed_encIRed]

theorem Codec.vfneg (cm d a p) : Codec.Statement (.vfneg cm d a p) := by
  intro h x
  have f (w : Word) (hw : opcOf w = 0x89) : decFields w x = (some (.vfneg (decCommon w) (decLine (fld w 28 12)) (decLine (fld w 16 12)) (fld w 1 3))) := by
    unfold decFields; rw [hw]; rfl
  refine decode_of_fields _ cm 0x89 _ _ x (by decide) ?_ rfl h rfl
  rw [f _ (opcOf_mkWord _ _ _)]
  simp (disch := omega) only [fld_mkWord, get_mkWord, decCommon_mkWord, ext_lo, ext_hi, ext_all, get_lo, get_hi, get_bool, Nat.reduceSub,
    decSpec_encSpec, decLine_encLine, decTile_encTile, decSq_encSq, decAmo_encAmo, decRed_encRed, decIRed_encIRed]

theorem Codec.vfscale (cm d a b p) : Codec.Statement (.vfscale cm d a b p) := by
  intro h x
  have f (w : Word) (hw : opcOf w = 0x8a) : decFields w x = (some (.vfscale (decCommon w) (decLine (fld w 28 12)) (decLine (fld w 16 12)) (decLine (fld w 4 12)) (fld w 1 3))) := by
    unfold decFields; rw [hw]; rfl
  refine decode_of_fields _ cm 0x8a _ _ x (by decide) ?_ rfl h rfl
  rw [f _ (opcOf_mkWord _ _ _)]
  simp (disch := omega) only [fld_mkWord, get_mkWord, decCommon_mkWord, ext_lo, ext_hi, ext_all, get_lo, get_hi, get_bool, Nat.reduceSub,
    decSpec_encSpec, decLine_encLine, decTile_encTile, decSq_encSq, decAmo_encAmo, decRed_encRed, decIRed_encIRed]

theorem Codec.vfrcp (cm d a p) : Codec.Statement (.vfrcp cm d a p) := by
  intro h x
  have f (w : Word) (hw : opcOf w = 0x8b) : decFields w x = (some (.vfrcp (decCommon w) (decLine (fld w 28 12)) (decLine (fld w 16 12)) (fld w 1 3))) := by
    unfold decFields; rw [hw]; rfl
  refine decode_of_fields _ cm 0x8b _ _ x (by decide) ?_ rfl h rfl
  rw [f _ (opcOf_mkWord _ _ _)]
  simp (disch := omega) only [fld_mkWord, get_mkWord, decCommon_mkWord, ext_lo, ext_hi, ext_all, get_lo, get_hi, get_bool, Nat.reduceSub,
    decSpec_encSpec, decLine_encLine, decTile_encTile, decSq_encSq, decAmo_encAmo, decRed_encRed, decIRed_encIRed]

theorem Codec.vfrsq (cm d a p) : Codec.Statement (.vfrsq cm d a p) := by
  intro h x
  have f (w : Word) (hw : opcOf w = 0x8c) : decFields w x = (some (.vfrsq (decCommon w) (decLine (fld w 28 12)) (decLine (fld w 16 12)) (fld w 1 3))) := by
    unfold decFields; rw [hw]; rfl
  refine decode_of_fields _ cm 0x8c _ _ x (by decide) ?_ rfl h rfl
  rw [f _ (opcOf_mkWord _ _ _)]
  simp (disch := omega) only [fld_mkWord, get_mkWord, decCommon_mkWord, ext_lo, ext_hi, ext_all, get_lo, get_hi, get_bool, Nat.reduceSub,
    decSpec_encSpec, decLine_encLine, decTile_encTile, decSq_encSq, decAmo_encAmo, decRed_encRed, decIRed_encIRed]

theorem Codec.vfsqrt (cm d a p) : Codec.Statement (.vfsqrt cm d a p) := by
  intro h x
  have f (w : Word) (hw : opcOf w = 0x8d) : decFields w x = (some (.vfsqrt (decCommon w) (decLine (fld w 28 12)) (decLine (fld w 16 12)) (fld w 1 3))) := by
    unfold decFields; rw [hw]; rfl
  refine decode_of_fields _ cm 0x8d _ _ x (by decide) ?_ rfl h rfl
  rw [f _ (opcOf_mkWord _ _ _)]
  simp (disch := omega) only [fld_mkWord, get_mkWord, decCommon_mkWord, ext_lo, ext_hi, ext_all, get_lo, get_hi, get_bool, Nat.reduceSub,
    decSpec_encSpec, decLine_encLine, decTile_encTile, decSq_encSq, decAmo_encAmo, decRed_encRed, decIRed_encIRed]

theorem Codec.vfexp2 (cm d a p) : Codec.Statement (.vfexp2 cm d a p) := by
  intro h x
  have f (w : Word) (hw : opcOf w = 0x8e) : decFields w x = (some (.vfexp2 (decCommon w) (decLine (fld w 28 12)) (decLine (fld w 16 12)) (fld w 1 3))) := by
    unfold decFields; rw [hw]; rfl
  refine decode_of_fields _ cm 0x8e _ _ x (by decide) ?_ rfl h rfl
  rw [f _ (opcOf_mkWord _ _ _)]
  simp (disch := omega) only [fld_mkWord, get_mkWord, decCommon_mkWord, ext_lo, ext_hi, ext_all, get_lo, get_hi, get_bool, Nat.reduceSub,
    decSpec_encSpec, decLine_encLine, decTile_encTile, decSq_encSq, decAmo_encAmo, decRed_encRed, decIRed_encIRed]

theorem Codec.vflog2 (cm d a p) : Codec.Statement (.vflog2 cm d a p) := by
  intro h x
  have f (w : Word) (hw : opcOf w = 0x8f) : decFields w x = (some (.vflog2 (decCommon w) (decLine (fld w 28 12)) (decLine (fld w 16 12)) (fld w 1 3))) := by
    unfold decFields; rw [hw]; rfl
  refine decode_of_fields _ cm 0x8f _ _ x (by decide) ?_ rfl h rfl
  rw [f _ (opcOf_mkWord _ _ _)]
  simp (disch := omega) only [fld_mkWord, get_mkWord, decCommon_mkWord, ext_lo, ext_hi, ext_all, get_lo, get_hi, get_bool, Nat.reduceSub,
    decSpec_encSpec, decLine_encLine, decTile_encTile, decSq_encSq, decAmo_encAmo, decRed_encRed, decIRed_encIRed]

theorem Codec.vftanh (cm d a p) : Codec.Statement (.vftanh cm d a p) := by
  intro h x
  have f (w : Word) (hw : opcOf w = 0x90) : decFields w x = (some (.vftanh (decCommon w) (decLine (fld w 28 12)) (decLine (fld w 16 12)) (fld w 1 3))) := by
    unfold decFields; rw [hw]; rfl
  refine decode_of_fields _ cm 0x90 _ _ x (by decide) ?_ rfl h rfl
  rw [f _ (opcOf_mkWord _ _ _)]
  simp (disch := omega) only [fld_mkWord, get_mkWord, decCommon_mkWord, ext_lo, ext_hi, ext_all, get_lo, get_hi, get_bool, Nat.reduceSub,
    decSpec_encSpec, decLine_encLine, decTile_encTile, decSq_encSq, decAmo_encAmo, decRed_encRed, decIRed_encIRed]

theorem Codec.vfsigm (cm d a p) : Codec.Statement (.vfsigm cm d a p) := by
  intro h x
  have f (w : Word) (hw : opcOf w = 0x91) : decFields w x = (some (.vfsigm (decCommon w) (decLine (fld w 28 12)) (decLine (fld w 16 12)) (fld w 1 3))) := by
    unfold decFields; rw [hw]; rfl
  refine decode_of_fields _ cm 0x91 _ _ x (by decide) ?_ rfl h rfl
  rw [f _ (opcOf_mkWord _ _ _)]
  simp (disch := omega) only [fld_mkWord, get_mkWord, decCommon_mkWord, ext_lo, ext_hi, ext_all, get_lo, get_hi, get_bool, Nat.reduceSub,
    decSpec_encSpec, decLine_encLine, decTile_encTile, decSq_encSq, decAmo_encAmo, decRed_encRed, decIRed_encIRed]

theorem Codec.vfcmp (cm pd cond a b p) : Codec.Statement (.vfcmp cm pd cond a b p) := by
  intro h x
  have f (w : Word) (hw : opcOf w = 0x92) : decFields w x = (some (.vfcmp (decCommon w) (fld w 28 3) (fld w 31 3) (decLine (fld w 16 12)) (decLine (fld w 4 12)) (fld w 1 3))) := by
    unfold decFields; rw [hw]; rfl
  refine decode_of_fields _ cm 0x92 _ _ x (by decide) ?_ rfl h rfl
  rw [f _ (opcOf_mkWord _ _ _)]
  simp (disch := omega) only [fld_mkWord, get_mkWord, decCommon_mkWord, ext_lo, ext_hi, ext_all, get_lo, get_hi, get_bool, Nat.reduceSub,
    decSpec_encSpec, decLine_encLine, decTile_encTile, decSq_encSq, decAmo_encAmo, decRed_encRed, decIRed_encIRed]

theorem Codec.vfred (cm d a op p) : Codec.Statement (.vfred cm d a op p) := by
  intro h x
  have f (w : Word) (hw : opcOf w = 0x93) : decFields w x = (do some (.vfred (decCommon w) (← decTile (fld w 28 12)) (decLine (fld w 16 12)) (← decRed (fld w 4 2)) (fld w 1 3))) := by
    unfold decFields; rw [hw]; rfl
  refine decode_of_fields _ cm 0x93 _ _ x (by decide) ?_ rfl h rfl
  rw [f _ (opcOf_mkWord _ _ _)]
  simp (disch := omega) only [fld_mkWord, get_mkWord, decCommon_mkWord, ext_lo, ext_hi, ext_all, get_lo, get_hi, get_bool, Nat.reduceSub,
    decSpec_encSpec, decLine_encLine, decTile_encTile, decSq_encSq, decAmo_encAmo, decRed_encRed, decIRed_encIRed]
  rfl

theorem Codec.vfscan (cm d a op p) : Codec.Statement (.vfscan cm d a op p) := by
  intro h x
  have f (w : Word) (hw : opcOf w = 0x94) : decFields w x = (do some (.vfscan (decCommon w) (decLine (fld w 28 12)) (decLine (fld w 16 12)) (← decRed (fld w 4 2)) (fld w 1 3))) := by
    unfold decFields; rw [hw]; rfl
  refine decode_of_fields _ cm 0x94 _ _ x (by decide) ?_ rfl h rfl
  rw [f _ (opcOf_mkWord _ _ _)]
  simp (disch := omega) only [fld_mkWord, get_mkWord, decCommon_mkWord, ext_lo, ext_hi, ext_all, get_lo, get_hi, get_bool, Nat.reduceSub,
    decSpec_encSpec, decLine_encLine, decTile_encTile, decSq_encSq, decAmo_encAmo, decRed_encRed, decIRed_encIRed]
  rfl

theorem Codec.viadd (cm d a b p) : Codec.Statement (.viadd cm d a b p) := by
  intro h x
  have f (w : Word) (hw : opcOf w = 0x95) : decFields w x = (some (.viadd (decCommon w) (decLine (fld w 28 12)) (decLine (fld w 16 12)) (decLine (fld w 4 12)) (fld w 1 3))) := by
    unfold decFields; rw [hw]; rfl
  refine decode_of_fields _ cm 0x95 _ _ x (by decide) ?_ rfl h rfl
  rw [f _ (opcOf_mkWord _ _ _)]
  simp (disch := omega) only [fld_mkWord, get_mkWord, decCommon_mkWord, ext_lo, ext_hi, ext_all, get_lo, get_hi, get_bool, Nat.reduceSub,
    decSpec_encSpec, decLine_encLine, decTile_encTile, decSq_encSq, decAmo_encAmo, decRed_encRed, decIRed_encIRed]

theorem Codec.visub (cm d a b p) : Codec.Statement (.visub cm d a b p) := by
  intro h x
  have f (w : Word) (hw : opcOf w = 0x96) : decFields w x = (some (.visub (decCommon w) (decLine (fld w 28 12)) (decLine (fld w 16 12)) (decLine (fld w 4 12)) (fld w 1 3))) := by
    unfold decFields; rw [hw]; rfl
  refine decode_of_fields _ cm 0x96 _ _ x (by decide) ?_ rfl h rfl
  rw [f _ (opcOf_mkWord _ _ _)]
  simp (disch := omega) only [fld_mkWord, get_mkWord, decCommon_mkWord, ext_lo, ext_hi, ext_all, get_lo, get_hi, get_bool, Nat.reduceSub,
    decSpec_encSpec, decLine_encLine, decTile_encTile, decSq_encSq, decAmo_encAmo, decRed_encRed, decIRed_encIRed]

theorem Codec.vimul (cm d a b p) : Codec.Statement (.vimul cm d a b p) := by
  intro h x
  have f (w : Word) (hw : opcOf w = 0x97) : decFields w x = (some (.vimul (decCommon w) (decLine (fld w 28 12)) (decLine (fld w 16 12)) (decLine (fld w 4 12)) (fld w 1 3))) := by
    unfold decFields; rw [hw]; rfl
  refine decode_of_fields _ cm 0x97 _ _ x (by decide) ?_ rfl h rfl
  rw [f _ (opcOf_mkWord _ _ _)]
  simp (disch := omega) only [fld_mkWord, get_mkWord, decCommon_mkWord, ext_lo, ext_hi, ext_all, get_lo, get_hi, get_bool, Nat.reduceSub,
    decSpec_encSpec, decLine_encLine, decTile_encTile, decSq_encSq, decAmo_encAmo, decRed_encRed, decIRed_encIRed]

theorem Codec.vimulh (cm d a b p) : Codec.Statement (.vimulh cm d a b p) := by
  intro h x
  have f (w : Word) (hw : opcOf w = 0x98) : decFields w x = (some (.vimulh (decCommon w) (decLine (fld w 28 12)) (decLine (fld w 16 12)) (decLine (fld w 4 12)) (fld w 1 3))) := by
    unfold decFields; rw [hw]; rfl
  refine decode_of_fields _ cm 0x98 _ _ x (by decide) ?_ rfl h rfl
  rw [f _ (opcOf_mkWord _ _ _)]
  simp (disch := omega) only [fld_mkWord, get_mkWord, decCommon_mkWord, ext_lo, ext_hi, ext_all, get_lo, get_hi, get_bool, Nat.reduceSub,
    decSpec_encSpec, decLine_encLine, decTile_encTile, decSq_encSq, decAmo_encAmo, decRed_encRed, decIRed_encIRed]

theorem Codec.vimin (cm d a b p) : Codec.Statement (.vimin cm d a b p) := by
  intro h x
  have f (w : Word) (hw : opcOf w = 0x99) : decFields w x = (some (.vimin (decCommon w) (decLine (fld w 28 12)) (decLine (fld w 16 12)) (decLine (fld w 4 12)) (fld w 1 3))) := by
    unfold decFields; rw [hw]; rfl
  refine decode_of_fields _ cm 0x99 _ _ x (by decide) ?_ rfl h rfl
  rw [f _ (opcOf_mkWord _ _ _)]
  simp (disch := omega) only [fld_mkWord, get_mkWord, decCommon_mkWord, ext_lo, ext_hi, ext_all, get_lo, get_hi, get_bool, Nat.reduceSub,
    decSpec_encSpec, decLine_encLine, decTile_encTile, decSq_encSq, decAmo_encAmo, decRed_encRed, decIRed_encIRed]

theorem Codec.vimax (cm d a b p) : Codec.Statement (.vimax cm d a b p) := by
  intro h x
  have f (w : Word) (hw : opcOf w = 0x9a) : decFields w x = (some (.vimax (decCommon w) (decLine (fld w 28 12)) (decLine (fld w 16 12)) (decLine (fld w 4 12)) (fld w 1 3))) := by
    unfold decFields; rw [hw]; rfl
  refine decode_of_fields _ cm 0x9a _ _ x (by decide) ?_ rfl h rfl
  rw [f _ (opcOf_mkWord _ _ _)]
  simp (disch := omega) only [fld_mkWord, get_mkWord, decCommon_mkWord, ext_lo, ext_hi, ext_all, get_lo, get_hi, get_bool, Nat.reduceSub,
    decSpec_encSpec, decLine_encLine, decTile_encTile, decSq_encSq, decAmo_encAmo, decRed_encRed, decIRed_encIRed]

theorem Codec.viand (cm d a b p) : Codec.Statement (.viand cm d a b p) := by
  intro h x
  have f (w : Word) (hw : opcOf w = 0x9b) : decFields w x = (some (.viand (decCommon w) (decLine (fld w 28 12)) (decLine (fld w 16 12)) (decLine (fld w 4 12)) (fld w 1 3))) := by
    unfold decFields; rw [hw]; rfl
  refine decode_of_fields _ cm 0x9b _ _ x (by decide) ?_ rfl h rfl
  rw [f _ (opcOf_mkWord _ _ _)]
  simp (disch := omega) only [fld_mkWord, get_mkWord, decCommon_mkWord, ext_lo, ext_hi, ext_all, get_lo, get_hi, get_bool, Nat.reduceSub,
    decSpec_encSpec, decLine_encLine, decTile_encTile, decSq_encSq, decAmo_encAmo, decRed_encRed, decIRed_encIRed]

theorem Codec.vior (cm d a b p) : Codec.Statement (.vior cm d a b p) := by
  intro h x
  have f (w : Word) (hw : opcOf w = 0x9c) : decFields w x = (some (.vior (decCommon w) (decLine (fld w 28 12)) (decLine (fld w 16 12)) (decLine (fld w 4 12)) (fld w 1 3))) := by
    unfold decFields; rw [hw]; rfl
  refine decode_of_fields _ cm 0x9c _ _ x (by decide) ?_ rfl h rfl
  rw [f _ (opcOf_mkWord _ _ _)]
  simp (disch := omega) only [fld_mkWord, get_mkWord, decCommon_mkWord, ext_lo, ext_hi, ext_all, get_lo, get_hi, get_bool, Nat.reduceSub,
    decSpec_encSpec, decLine_encLine, decTile_encTile, decSq_encSq, decAmo_encAmo, decRed_encRed, decIRed_encIRed]

theorem Codec.vixor (cm d a b p) : Codec.Statement (.vixor cm d a b p) := by
  intro h x
  have f (w : Word) (hw : opcOf w = 0x9d) : decFields w x = (some (.vixor (decCommon w) (decLine (fld w 28 12)) (decLine (fld w 16 12)) (decLine (fld w 4 12)) (fld w 1 3))) := by
    unfold decFields; rw [hw]; rfl
  refine decode_of_fields _ cm 0x9d _ _ x (by decide) ?_ rfl h rfl
  rw [f _ (opcOf_mkWord _ _ _)]
  simp (disch := omega) only [fld_mkWord, get_mkWord, decCommon_mkWord, ext_lo, ext_hi, ext_all, get_lo, get_hi, get_bool, Nat.reduceSub,
    decSpec_encSpec, decLine_encLine, decTile_encTile, decSq_encSq, decAmo_encAmo, decRed_encRed, decIRed_encIRed]

theorem Codec.vishl (cm d a b p) : Codec.Statement (.vishl cm d a b p) := by
  intro h x
  have f (w : Word) (hw : opcOf w = 0x9e) : decFields w x = (some (.vishl (decCommon w) (decLine (fld w 28 12)) (decLine (fld w 16 12)) (decLine (fld w 4 12)) (fld w 1 3))) := by
    unfold decFields; rw [hw]; rfl
  refine decode_of_fields _ cm 0x9e _ _ x (by decide) ?_ rfl h rfl
  rw [f _ (opcOf_mkWord _ _ _)]
  simp (disch := omega) only [fld_mkWord, get_mkWord, decCommon_mkWord, ext_lo, ext_hi, ext_all, get_lo, get_hi, get_bool, Nat.reduceSub,
    decSpec_encSpec, decLine_encLine, decTile_encTile, decSq_encSq, decAmo_encAmo, decRed_encRed, decIRed_encIRed]

theorem Codec.vishr (cm d a b p) : Codec.Statement (.vishr cm d a b p) := by
  intro h x
  have f (w : Word) (hw : opcOf w = 0x9f) : decFields w x = (some (.vishr (decCommon w) (decLine (fld w 28 12)) (decLine (fld w 16 12)) (decLine (fld w 4 12)) (fld w 1 3))) := by
    unfold decFields; rw [hw]; rfl
  refine decode_of_fields _ cm 0x9f _ _ x (by decide) ?_ rfl h rfl
  rw [f _ (opcOf_mkWord _ _ _)]
  simp (disch := omega) only [fld_mkWord, get_mkWord, decCommon_mkWord, ext_lo, ext_hi, ext_all, get_lo, get_hi, get_bool, Nat.reduceSub,
    decSpec_encSpec, decLine_encLine, decTile_encTile, decSq_encSq, decAmo_encAmo, decRed_encRed, decIRed_encIRed]

theorem Codec.vicmp (cm pd cond a b p) : Codec.Statement (.vicmp cm pd cond a b p) := by
  intro h x
  have f (w : Word) (hw : opcOf w = 0xa0) : decFields w x = (some (.vicmp (decCommon w) (fld w 28 3) (fld w 31 3) (decLine (fld w 16 12)) (decLine (fld w 4 12)) (fld w 1 3))) := by
    unfold decFields; rw [hw]; rfl
  refine decode_of_fields _ cm 0xa0 _ _ x (by decide) ?_ rfl h rfl
  rw [f _ (opcOf_mkWord _ _ _)]
  simp (disch := omega) only [fld_mkWord, get_mkWord, decCommon_mkWord, ext_lo, ext_hi, ext_all, get_lo, get_hi, get_bool, Nat.reduceSub,
    decSpec_encSpec, decLine_encLine, decTile_encTile, decSq_encSq, decAmo_encAmo, decRed_encRed, decIRed_encIRed]

theorem Codec.vired (cm d a op p) : Codec.Statement (.vired cm d a op p) := by
  intro h x
  have f (w : Word) (hw : opcOf w = 0xa1) : decFields w x = (do some (.vired (decCommon w) (← decTile (fld w 28 12)) (decLine (fld w 16 12)) (← decIRed (fld w 4 3)) (fld w 1 3))) := by
    unfold decFields; rw [hw]; rfl
  refine decode_of_fields _ cm 0xa1 _ _ x (by decide) ?_ rfl h rfl
  rw [f _ (opcOf_mkWord _ _ _)]
  simp (disch := omega) only [fld_mkWord, get_mkWord, decCommon_mkWord, ext_lo, ext_hi, ext_all, get_lo, get_hi, get_bool, Nat.reduceSub,
    decSpec_encSpec, decLine_encLine, decTile_encTile, decSq_encSq, decAmo_encAmo, decRed_encRed, decIRed_encIRed]
  rfl

theorem Codec.viadds (cm d a b p) : Codec.Statement (.viadds cm d a b p) := by
  intro h x
  have f (w : Word) (hw : opcOf w = 0xa2) : decFields w x = (some (.viadds (decCommon w) (decLine (fld w 28 12)) (decLine (fld w 16 12)) (decLine (fld w 4 12)) (fld w 1 3))) := by
    unfold decFields; rw [hw]; rfl
  refine decode_of_fields _ cm 0xa2 _ _ x (by decide) ?_ rfl h rfl
  rw [f _ (opcOf_mkWord _ _ _)]
  simp (disch := omega) only [fld_mkWord, get_mkWord, decCommon_mkWord, ext_lo, ext_hi, ext_all, get_lo, get_hi, get_bool, Nat.reduceSub,
    decSpec_encSpec, decLine_encLine, decTile_encTile, decSq_encSq, decAmo_encAmo, decRed_encRed, decIRed_encIRed]

theorem Codec.vsel (cm d a b p) : Codec.Statement (.vsel cm d a b p) := by
  intro h x
  have f (w : Word) (hw : opcOf w = 0xa3) : decFields w x = (some (.vsel (decCommon w) (decLine (fld w 28 12)) (decLine (fld w 16 12)) (decLine (fld w 4 12)) (fld w 1 3))) := by
    unfold decFields; rw [hw]; rfl
  refine decode_of_fields _ cm 0xa3 _ _ x (by decide) ?_ rfl h rfl
  rw [f _ (opcOf_mkWord _ _ _)]
  simp (disch := omega) only [fld_mkWord, get_mkWord, decCommon_mkWord, ext_lo, ext_hi, ext_all, get_lo, get_hi, get_bool, Nat.reduceSub,
    decSpec_encSpec, decLine_encLine, decTile_encTile, decSq_encSq, decAmo_encAmo, decRed_encRed, decIRed_encIRed]

theorem Codec.vmov (cm d a p) : Codec.Statement (.vmov cm d a p) := by
  intro h x
  have f (w : Word) (hw : opcOf w = 0xa4) : decFields w x = (some (.vmov (decCommon w) (decLine (fld w 28 12)) (decLine (fld w 16 12)) (fld w 1 3))) := by
    unfold decFields; rw [hw]; rfl
  refine decode_of_fields _ cm 0xa4 _ _ x (by decide) ?_ rfl h rfl
  rw [f _ (opcOf_mkWord _ _ _)]
  simp (disch := omega) only [fld_mkWord, get_mkWord, decCommon_mkWord, ext_lo, ext_hi, ext_all, get_lo, get_hi, get_bool, Nat.reduceSub,
    decSpec_encSpec, decLine_encLine, decTile_encTile, decSq_encSq, decAmo_encAmo, decRed_encRed, decIRed_encIRed]

theorem Codec.vbcastLine (cm d a index p) : Codec.Statement (.vbcastLine cm d a index p) := by
  intro h x
  have f (w : Word) (hw : opcOf w = 0xa5) : decFields w x = (if w.getLsbD 15 then do some (.vbcastScalar (decCommon w) (decLine (fld w 28 12)) (← decSpec (fld w 4 6)) (fld w 10 5) (fld w 1 3)) else some (.vbcastLine (decCommon w) (decLine (fld w 28 12)) (decLine (fld w 16 12)) (fld w 4 9) (fld w 1 3))) := by
    unfold decFields; rw [hw]; rfl
  refine decode_of_fields _ cm 0xa5 _ _ x (by decide) ?_ rfl h rfl
  rw [f _ (opcOf_mkWord _ _ _)]
  simp (disch := omega) only [fld_mkWord, get_mkWord, decCommon_mkWord, ext_lo, ext_hi, ext_all, get_lo, get_hi, get_bool, Nat.reduceSub,
    decSpec_encSpec, decLine_encLine, decTile_encTile, decSq_encSq, decAmo_encAmo, decRed_encRed, decIRed_encIRed]
  rfl

theorem Codec.vbcastScalar (cm d sc tag p) : Codec.Statement (.vbcastScalar cm d sc tag p) := by
  intro h x
  have f (w : Word) (hw : opcOf w = 0xa5) : decFields w x = (if w.getLsbD 15 then do some (.vbcastScalar (decCommon w) (decLine (fld w 28 12)) (← decSpec (fld w 4 6)) (fld w 10 5) (fld w 1 3)) else some (.vbcastLine (decCommon w) (decLine (fld w 28 12)) (decLine (fld w 16 12)) (fld w 4 9) (fld w 1 3))) := by
    unfold decFields; rw [hw]; rfl
  refine decode_of_fields _ cm 0xa5 _ _ x (by decide) ?_ rfl h rfl
  rw [f _ (opcOf_mkWord _ _ _)]
  simp (disch := omega) only [fld_mkWord, get_mkWord, decCommon_mkWord, ext_lo, ext_hi, ext_all, get_lo, get_hi, get_bool, Nat.reduceSub,
    decSpec_encSpec, decLine_encLine, decTile_encTile, decSq_encSq, decAmo_encAmo, decRed_encRed, decIRed_encIRed]
  rfl

theorem Codec.vextIndex (cm d a index) : Codec.Statement (.vextIndex cm d a index) := by
  intro h x
  have f (w : Word) (hw : opcOf w = 0xa6) : decFields w x = (if w.getLsbD 15 then do some (.vextScalar (decCommon w) (← decSpec (fld w 28 6)) (decLine (fld w 16 12)) (← decSpec (fld w 4 6))) else do some (.vextIndex (decCommon w) (← decSpec (fld w 28 6)) (decLine (fld w 16 12)) (fld w 4 9))) := by
    unfold decFields; rw [hw]; rfl
  refine decode_of_fields _ cm 0xa6 _ _ x (by decide) ?_ rfl h rfl
  rw [f _ (opcOf_mkWord _ _ _)]
  simp (disch := omega) only [fld_mkWord, get_mkWord, decCommon_mkWord, ext_lo, ext_hi, ext_all, get_lo, get_hi, get_bool, Nat.reduceSub,
    decSpec_encSpec, decLine_encLine, decTile_encTile, decSq_encSq, decAmo_encAmo, decRed_encRed, decIRed_encIRed]
  rfl

theorem Codec.vextScalar (cm d a sc) : Codec.Statement (.vextScalar cm d a sc) := by
  intro h x
  have f (w : Word) (hw : opcOf w = 0xa6) : decFields w x = (if w.getLsbD 15 then do some (.vextScalar (decCommon w) (← decSpec (fld w 28 6)) (decLine (fld w 16 12)) (← decSpec (fld w 4 6))) else do some (.vextIndex (decCommon w) (← decSpec (fld w 28 6)) (decLine (fld w 16 12)) (fld w 4 9))) := by
    unfold decFields; rw [hw]; rfl
  refine decode_of_fields _ cm 0xa6 _ _ x (by decide) ?_ rfl h rfl
  rw [f _ (opcOf_mkWord _ _ _)]
  simp (disch := omega) only [fld_mkWord, get_mkWord, decCommon_mkWord, ext_lo, ext_hi, ext_all, get_lo, get_hi, get_bool, Nat.reduceSub,
    decSpec_encSpec, decLine_encLine, decTile_encTile, decSq_encSq, decAmo_encAmo, decRed_encRed, decIRed_encIRed]
  rfl

theorem Codec.vinsIndex (cm d a index) : Codec.Statement (.vinsIndex cm d a index) := by
  intro h x
  have f (w : Word) (hw : opcOf w = 0xa7) : decFields w x = (if w.getLsbD 15 then do some (.vinsScalar (decCommon w) (← decTile (fld w 28 12)) (← decSpec (fld w 16 6)) (← decSpec (fld w 4 6))) else do some (.vinsIndex (decCommon w) (← decTile (fld w 28 12)) (← decSpec (fld w 16 6)) (fld w 4 9))) := by
    unfold decFields; rw [hw]; rfl
  refine decode_of_fields _ cm 0xa7 _ _ x (by decide) ?_ rfl h rfl
  rw [f _ (opcOf_mkWord _ _ _)]
  simp (disch := omega) only [fld_mkWord, get_mkWord, decCommon_mkWord, ext_lo, ext_hi, ext_all, get_lo, get_hi, get_bool, Nat.reduceSub,
    decSpec_encSpec, decLine_encLine, decTile_encTile, decSq_encSq, decAmo_encAmo, decRed_encRed, decIRed_encIRed]
  rfl

theorem Codec.vinsScalar (cm d a sc) : Codec.Statement (.vinsScalar cm d a sc) := by
  intro h x
  have f (w : Word) (hw : opcOf w = 0xa7) : decFields w x = (if w.getLsbD 15 then do some (.vinsScalar (decCommon w) (← decTile (fld w 28 12)) (← decSpec (fld w 16 6)) (← decSpec (fld w 4 6))) else do some (.vinsIndex (decCommon w) (← decTile (fld w 28 12)) (← decSpec (fld w 16 6)) (fld w 4 9))) := by
    unfold decFields; rw [hw]; rfl
  refine decode_of_fields _ cm 0xa7 _ _ x (by decide) ?_ rfl h rfl
  rw [f _ (opcOf_mkWord _ _ _)]
  simp (disch := omega) only [fld_mkWord, get_mkWord, decCommon_mkWord, ext_lo, ext_hi, ext_all, get_lo, get_hi, get_bool, Nat.reduceSub,
    decSpec_encSpec, decLine_encLine, decTile_encTile, decSq_encSq, decAmo_encAmo, decRed_encRed, decIRed_encIRed]
  rfl

theorem Codec.vshuf (cm d a b p) : Codec.Statement (.vshuf cm d a b p) := by
  intro h x
  have f (w : Word) (hw : opcOf w = 0xa8) : decFields w x = (some (.vshuf (decCommon w) (decLine (fld w 28 12)) (decLine (fld w 16 12)) (decLine (fld w 4 12)) (fld w 1 3))) := by
    unfold decFields; rw [hw]; rfl
  refine decode_of_fields _ cm 0xa8 _ _ x (by decide) ?_ rfl h rfl
  rw [f _ (opcOf_mkWord _ _ _)]
  simp (disch := omega) only [fld_mkWord, get_mkWord, decCommon_mkWord, ext_lo, ext_hi, ext_all, get_lo, get_hi, get_bool, Nat.reduceSub,
    decSpec_encSpec, decLine_encLine, decTile_encTile, decSq_encSq, decAmo_encAmo, decRed_encRed, decIRed_encIRed]

theorem Codec.vargmax (cm d a p) : Codec.Statement (.vargmax cm d a p) := by
  intro h x
  have f (w : Word) (hw : opcOf w = 0xa9) : decFields w x = (do some (.vargmax (decCommon w) (← decSpec (fld w 28 6)) (decLine (fld w 16 12)) (fld w 1 3))) := by
    unfold decFields; rw [hw]; rfl
  refine decode_of_fields _ cm 0xa9 _ _ x (by decide) ?_ rfl h rfl
  rw [f _ (opcOf_mkWord _ _ _)]
  simp (disch := omega) only [fld_mkWord, get_mkWord, decCommon_mkWord, ext_lo, ext_hi, ext_all, get_lo, get_hi, get_bool, Nat.reduceSub,
    decSpec_encSpec, decLine_encLine, decTile_encTile, decSq_encSq, decAmo_encAmo, decRed_encRed, decIRed_encIRed]
  rfl

theorem Codec.vrng (cm d p) : Codec.Statement (.vrng cm d p) := by
  intro h x
  have f (w : Word) (hw : opcOf w = 0xaa) : decFields w x = (some (.vrng (decCommon w) (decLine (fld w 28 12)) (fld w 1 3))) := by
    unfold decFields; rw [hw]; rfl
  refine decode_of_fields _ cm 0xaa _ _ x (by decide) ?_ rfl h rfl
  rw [f _ (opcOf_mkWord _ _ _)]
  simp (disch := omega) only [fld_mkWord, get_mkWord, decCommon_mkWord, ext_lo, ext_hi, ext_all, get_lo, get_hi, get_bool, Nat.reduceSub,
    decSpec_encSpec, decLine_encLine, decTile_encTile, decSq_encSq, decAmo_encAmo, decRed_encRed, decIRed_encIRed]

theorem Codec.plopLogical (cm pd pa pb table) : Codec.Statement (.plopLogical cm pd pa pb table) := by
  intro h x
  have f (w : Word) (hw : opcOf w = 0xab) : decFields w x = (if w.getLsbD 11 then do some (.plopFirst (decCommon w) (fld w 28 3) (← decSpec (fld w 16 6))) else some (.plopLogical (decCommon w) (fld w 28 3) (fld w 16 3) (fld w 4 3) (fld w 7 4))) := by
    unfold decFields; rw [hw]; rfl
  refine decode_of_fields _ cm 0xab _ _ x (by decide) ?_ rfl h rfl
  rw [f _ (opcOf_mkWord _ _ _)]
  simp (disch := omega) only [fld_mkWord, get_mkWord, decCommon_mkWord, ext_lo, ext_hi, ext_all, get_lo, get_hi, get_bool, Nat.reduceSub,
    decSpec_encSpec, decLine_encLine, decTile_encTile, decSq_encSq, decAmo_encAmo, decRed_encRed, decIRed_encIRed]
  rfl

theorem Codec.plopFirst (cm pd a) : Codec.Statement (.plopFirst cm pd a) := by
  intro h x
  have f (w : Word) (hw : opcOf w = 0xab) : decFields w x = (if w.getLsbD 11 then do some (.plopFirst (decCommon w) (fld w 28 3) (← decSpec (fld w 16 6))) else some (.plopLogical (decCommon w) (fld w 28 3) (fld w 16 3) (fld w 4 3) (fld w 7 4))) := by
    unfold decFields; rw [hw]; rfl
  refine decode_of_fields _ cm 0xab _ _ x (by decide) ?_ rfl h rfl
  rw [f _ (opcOf_mkWord _ _ _)]
  simp (disch := omega) only [fld_mkWord, get_mkWord, decCommon_mkWord, ext_lo, ext_hi, ext_all, get_lo, get_hi, get_bool, Nat.reduceSub,
    decSpec_encSpec, decLine_encLine, decTile_encTile, decSq_encSq, decAmo_encAmo, decRed_encRed, decIRed_encIRed]
  rfl

theorem Codec.pcnt (cm d pa pb first) : Codec.Statement (.pcnt cm d pa pb first) := by
  intro h x
  have f (w : Word) (hw : opcOf w = 0xac) : decFields w x = (do some (.pcnt (decCommon w) (← decSpec (fld w 28 6)) (fld w 16 3) (fld w 4 3) (w.getLsbD 7))) := by
    unfold decFields; rw [hw]; rfl
  refine decode_of_fields _ cm 0xac _ _ x (by decide) ?_ rfl h rfl
  rw [f _ (opcOf_mkWord _ _ _)]
  simp (disch := omega) only [fld_mkWord, get_mkWord, decCommon_mkWord, ext_lo, ext_hi, ext_all, get_lo, get_hi, get_bool, Nat.reduceSub,
    decSpec_encSpec, decLine_encLine, decTile_encTile, decSq_encSq, decAmo_encAmo, decRed_encRed, decIRed_encIRed]
  rfl

theorem Codec.mshape (cm shape) : Codec.Statement (.mshape cm shape) := by
  intro h
  have f (w : Word) (hw : opcOf w = 0xb0) : decFields w shape = (some (.mshape (decCommon w) shape)) := by
    unfold decFields; rw [hw]; rfl
  refine decode_of_fields _ cm 0xb0 _ _ shape (by decide) ?_ rfl h rfl
  rw [f _ (opcOf_mkWord _ _ _)]
  simp (disch := omega) only [fld_mkWord, get_mkWord, decCommon_mkWord, ext_lo, ext_hi, ext_all, get_lo, get_hi, get_bool, Nat.reduceSub,
    decSpec_encSpec, decLine_encLine, decTile_encTile, decSq_encSq, decAmo_encAmo, decRed_encRed, decIRed_encIRed]

theorem Codec.mma (cm acc ga gb bo init) : Codec.Statement (.mma cm acc ga gb bo init) := by
  intro h x
  have f (w : Word) (hw : opcOf w = 0xb1) : decFields w x = (do some (.mma (decCommon w) (fld w 34 6) (fld w 31 3) (fld w 28 3) (← decSpec (fld w 22 6)) (w.getLsbD 14))) := by
    unfold decFields; rw [hw]; rfl
  refine decode_of_fields _ cm 0xb1 _ _ x (by decide) ?_ rfl h rfl
  rw [f _ (opcOf_mkWord _ _ _)]
  simp (disch := omega) only [fld_mkWord, get_mkWord, decCommon_mkWord, ext_lo, ext_hi, ext_all, get_lo, get_hi, get_bool, Nat.reduceSub,
    decSpec_encSpec, decLine_encLine, decTile_encTile, decSq_encSq, decAmo_encAmo, decRed_encRed, decIRed_encIRed]
  rfl

theorem Codec.mmas (cm acc ga gb bo init) : Codec.Statement (.mmas cm acc ga gb bo init) := by
  intro h x
  have f (w : Word) (hw : opcOf w = 0xb2) : decFields w x = (do some (.mmas (decCommon w) (fld w 34 6) (fld w 31 3) (fld w 28 3) (← decSpec (fld w 22 6)) (w.getLsbD 14))) := by
    unfold decFields; rw [hw]; rfl
  refine decode_of_fields _ cm 0xb2 _ _ x (by decide) ?_ rfl h rfl
  rw [f _ (opcOf_mkWord _ _ _)]
  simp (disch := omega) only [fld_mkWord, get_mkWord, decCommon_mkWord, ext_lo, ext_hi, ext_all, get_lo, get_hi, get_bool, Nat.reduceSub,
    decSpec_encSpec, decLine_encLine, decTile_encTile, decSq_encSq, decAmo_encAmo, decRed_encRed, decIRed_encIRed]
  rfl

theorem Codec.mmac (cm acc ga gb bo init) : Codec.Statement (.mmac cm acc ga gb bo init) := by
  intro h x
  have f (w : Word) (hw : opcOf w = 0xb3) : decFields w x = (do some (.mmac (decCommon w) (fld w 34 6) (fld w 31 3) (fld w 28 3) (← decSpec (fld w 22 6)) (w.getLsbD 14))) := by
    unfold decFields; rw [hw]; rfl
  refine decode_of_fields _ cm 0xb3 _ _ x (by decide) ?_ rfl h rfl
  rw [f _ (opcOf_mkWord _ _ _)]
  simp (disch := omega) only [fld_mkWord, get_mkWord, decCommon_mkWord, ext_lo, ext_hi, ext_all, get_lo, get_hi, get_bool, Nat.reduceSub,
    decSpec_encSpec, decLine_encLine, decTile_encTile, decSq_encSq, decAmo_encAmo, decRed_encRed, decIRed_encIRed]
  rfl

theorem Codec.mzero (cm acc bo) : Codec.Statement (.mzero cm acc bo) := by
  intro h x
  have f (w : Word) (hw : opcOf w = 0xb4) : decFields w x = (do some (.mzero (decCommon w) (fld w 34 6) (← decSpec (fld w 22 6)))) := by
    unfold decFields; rw [hw]; rfl
  refine decode_of_fields _ cm 0xb4 _ _ x (by decide) ?_ rfl h rfl
  rw [f _ (opcOf_mkWord _ _ _)]
  simp (disch := omega) only [fld_mkWord, get_mkWord, decCommon_mkWord, ext_lo, ext_hi, ext_all, get_lo, get_hi, get_bool, Nat.reduceSub,
    decSpec_encSpec, decLine_encLine, decTile_encTile, decSq_encSq, decAmo_encAmo, decRed_encRed, decIRed_encIRed]
  rfl

theorem Codec.mplane (cm acc ga bo fmt block) : Codec.Statement (.mplane cm acc ga bo fmt block) := by
  intro h x
  have f (w : Word) (hw : opcOf w = 0xb5) : decFields w x = (do some (.mplane (decCommon w) (fld w 34 6) (fld w 31 3) (← decSpec (fld w 22 6)) (fld w 14 3) (fld w 17 3))) := by
    unfold decFields; rw [hw]; rfl
  refine decode_of_fields _ cm 0xb5 _ _ x (by decide) ?_ rfl h rfl
  rw [f _ (opcOf_mkWord _ _ _)]
  simp (disch := omega) only [fld_mkWord, get_mkWord, decCommon_mkWord, ext_lo, ext_hi, ext_all, get_lo, get_hi, get_bool, Nat.reduceSub,
    decSpec_encSpec, decLine_encLine, decTile_encTile, decSq_encSq, decAmo_encAmo, decRed_encRed, decIRed_encIRed]
  rfl

theorem Codec.mspack (cm acc ga bo fmt group) : Codec.Statement (.mspack cm acc ga bo fmt group) := by
  intro h x
  have f (w : Word) (hw : opcOf w = 0xb6) : decFields w x = (do some (.mspack (decCommon w) (fld w 34 6) (fld w 31 3) (← decSpec (fld w 22 6)) (fld w 14 3) (fld w 17 2))) := by
    unfold decFields; rw [hw]; rfl
  refine decode_of_fields _ cm 0xb6 _ _ x (by decide) ?_ rfl h rfl
  rw [f _ (opcOf_mkWord _ _ _)]
  simp (disch := omega) only [fld_mkWord, get_mkWord, decCommon_mkWord, ext_lo, ext_hi, ext_all, get_lo, get_hi, get_bool, Nat.reduceSub,
    decSpec_encSpec, decLine_encLine, decTile_encTile, decSq_encSq, decAmo_encAmo, decRed_encRed, decIRed_encIRed]
  rfl

theorem Codec.oqbind (cm a role) : Codec.Statement (.oqbind cm a role) := by
  intro h x
  have f (w : Word) (hw : opcOf w = 0xb7) : decFields w x = (do some (.oqbind (decCommon w) (← decSpec (fld w 30 6)) (fld w 0 2))) := by
    unfold decFields; rw [hw]; rfl
  refine decode_of_fields _ cm 0xb7 _ _ x (by decide) ?_ rfl h rfl
  rw [f _ (opcOf_mkWord _ _ _)]
  simp (disch := omega) only [fld_mkWord, get_mkWord, decCommon_mkWord, ext_lo, ext_hi, ext_all, get_lo, get_hi, get_bool, Nat.reduceSub,
    decSpec_encSpec, decLine_encLine, decTile_encTile, decSq_encSq, decAmo_encAmo, decRed_encRed, decIRed_encIRed]
  rfl

theorem Codec.oqunbind (cm) : Codec.Statement (.oqunbind cm) := by
  intro h x
  have f (w : Word) (hw : opcOf w = 0xb8) : decFields w x = (some (.oqunbind (decCommon w))) := by
    unfold decFields; rw [hw]; rfl
  refine decode_of_fields _ cm 0xb8 _ _ x (by decide) ?_ rfl h rfl
  rw [f _ (opcOf_mkWord _ _ _)]
  simp (disch := omega) only [fld_mkWord, get_mkWord, decCommon_mkWord, ext_lo, ext_hi, ext_all, get_lo, get_hi, get_bool, Nat.reduceSub,
    decSpec_encSpec, decLine_encLine, decTile_encTile, decSq_encSq, decAmo_encAmo, decRed_encRed, decIRed_encIRed]

theorem Codec.mstat (cm d item) : Codec.Statement (.mstat cm d item) := by
  intro h x
  have f (w : Word) (hw : opcOf w = 0xb9) : decFields w x = (do some (.mstat (decCommon w) (← decSpec (fld w 24 6)) (fld w 0 2))) := by
    unfold decFields; rw [hw]; rfl
  refine decode_of_fields _ cm 0xb9 _ _ x (by decide) ?_ rfl h rfl
  rw [f _ (opcOf_mkWord _ _ _)]
  simp (disch := omega) only [fld_mkWord, get_mkWord, decCommon_mkWord, ext_lo, ext_hi, ext_all, get_lo, get_hi, get_bool, Nat.reduceSub,
    decSpec_encSpec, decLine_encLine, decTile_encTile, decSq_encSq, decAmo_encAmo, decRed_encRed, decIRed_encIRed]
  rfl

theorem Codec.feedpop (cm d f a) : Codec.Statement (.feedpop cm d f a) := by
  intro h x
  have f (w : Word) (hw : opcOf w = 0xc0) : decFields w x = (do some (.feedpop (decCommon w) (← decSpec (fld w 24 6)) (fld w 36 4) (← decSpec (fld w 30 6)))) := by
    unfold decFields; rw [hw]; rfl
  refine decode_of_fields _ cm 0xc0 _ _ x (by decide) ?_ rfl h rfl
  rw [f _ (opcOf_mkWord _ _ _)]
  simp (disch := omega) only [fld_mkWord, get_mkWord, decCommon_mkWord, ext_lo, ext_hi, ext_all, get_lo, get_hi, get_bool, Nat.reduceSub,
    decSpec_encSpec, decLine_encLine, decTile_encTile, decSq_encSq, decAmo_encAmo, decRed_encRed, decIRed_encIRed]
  rfl

theorem Codec.feedpush (cm d f a nowait) : Codec.Statement (.feedpush cm d f a nowait) := by
  intro h x
  have f (w : Word) (hw : opcOf w = 0xc1) : decFields w x = (do some (.feedpush (decCommon w) (← decSpec (fld w 24 6)) (fld w 36 4) (← decSpec (fld w 30 6)) (w.getLsbD 0))) := by
    unfold decFields; rw [hw]; rfl
  refine decode_of_fields _ cm 0xc1 _ _ x (by decide) ?_ rfl h rfl
  rw [f _ (opcOf_mkWord _ _ _)]
  simp (disch := omega) only [fld_mkWord, get_mkWord, decCommon_mkWord, ext_lo, ext_hi, ext_all, get_lo, get_hi, get_bool, Nat.reduceSub,
    decSpec_encSpec, decLine_encLine, decTile_encTile, decSq_encSq, decAmo_encAmo, decRed_encRed, decIRed_encIRed]
  rfl

theorem Codec.feedstat (cm d f) : Codec.Statement (.feedstat cm d f) := by
  intro h x
  have f (w : Word) (hw : opcOf w = 0xc2) : decFields w x = (do some (.feedstat (decCommon w) (← decSpec (fld w 24 6)) (fld w 36 4))) := by
    unfold decFields; rw [hw]; rfl
  refine decode_of_fields _ cm 0xc2 _ _ x (by decide) ?_ rfl h rfl
  rw [f _ (opcOf_mkWord _ _ _)]
  simp (disch := omega) only [fld_mkWord, get_mkWord, decCommon_mkWord, ext_lo, ext_hi, ext_all, get_lo, get_hi, get_bool, Nat.reduceSub,
    decSpec_encSpec, decLine_encLine, decTile_encTile, decSq_encSq, decAmo_encAmo, decRed_encRed, decIRed_encIRed]
  rfl

theorem Codec.taskpush (cm d t a) : Codec.Statement (.taskpush cm d t a) := by
  intro h x
  have f (w : Word) (hw : opcOf w = 0xc3) : decFields w x = (do some (.taskpush (decCommon w) (← decSpec (fld w 24 6)) (fld w 36 4) (← decSpec (fld w 30 6)))) := by
    unfold decFields; rw [hw]; rfl
  refine decode_of_fields _ cm 0xc3 _ _ x (by decide) ?_ rfl h rfl
  rw [f _ (opcOf_mkWord _ _ _)]
  simp (disch := omega) only [fld_mkWord, get_mkWord, decCommon_mkWord, ext_lo, ext_hi, ext_all, get_lo, get_hi, get_bool, Nat.reduceSub,
    decSpec_encSpec, decLine_encLine, decTile_encTile, decSq_encSq, decAmo_encAmo, decRed_encRed, decIRed_encIRed]
  rfl

theorem Codec.taskpop (cm d a) : Codec.Statement (.taskpop cm d a) := by
  intro h x
  have f (w : Word) (hw : opcOf w = 0xc4) : decFields w x = (do some (.taskpop (decCommon w) (← decSpec (fld w 24 6)) (← decSpec (fld w 30 6)))) := by
    unfold decFields; rw [hw]; rfl
  refine decode_of_fields _ cm 0xc4 _ _ x (by decide) ?_ rfl h rfl
  rw [f _ (opcOf_mkWord _ _ _)]
  simp (disch := omega) only [fld_mkWord, get_mkWord, decCommon_mkWord, ext_lo, ext_hi, ext_all, get_lo, get_hi, get_bool, Nat.reduceSub,
    decSpec_encSpec, decLine_encLine, decTile_encTile, decSq_encSq, decAmo_encAmo, decRed_encRed, decIRed_encIRed]
  rfl

theorem Codec.taskdone (cm rerun) : Codec.Statement (.taskdone cm rerun) := by
  intro h x
  have f (w : Word) (hw : opcOf w = 0xc5) : decFields w x = (some (.taskdone (decCommon w) (w.getLsbD 0))) := by
    unfold decFields; rw [hw]; rfl
  refine decode_of_fields _ cm 0xc5 _ _ x (by decide) ?_ rfl h rfl
  rw [f _ (opcOf_mkWord _ _ _)]
  simp (disch := omega) only [fld_mkWord, get_mkWord, decCommon_mkWord, ext_lo, ext_hi, ext_all, get_lo, get_hi, get_bool, Nat.reduceSub,
    decSpec_encSpec, decLine_encLine, decTile_encTile, decSq_encSq, decAmo_encAmo, decRed_encRed, decIRed_encIRed]

theorem Codec.sleep (cm d mask task) : Codec.Statement (.sleep cm d mask task) := by
  intro h x
  have f (w : Word) (hw : opcOf w = 0xc6) : decFields w x = (do some (.sleep (decCommon w) (← decSpec (fld w 24 6)) (fld w 0 16) (w.getLsbD 16))) := by
    unfold decFields; rw [hw]; rfl
  refine decode_of_fields _ cm 0xc6 _ _ x (by decide) ?_ rfl h rfl
  rw [f _ (opcOf_mkWord _ _ _)]
  simp (disch := omega) only [fld_mkWord, get_mkWord, decCommon_mkWord, ext_lo, ext_hi, ext_all, get_lo, get_hi, get_bool, Nat.reduceSub,
    decSpec_encSpec, decLine_encLine, decTile_encTile, decSq_encSq, decAmo_encAmo, decRed_encRed, decIRed_encIRed]
  rfl

theorem Codec.fork (cm d f a) : Codec.Statement (.fork cm d f a) := by
  intro h x
  have f (w : Word) (hw : opcOf w = 0xc7) : decFields w x = (do some (.fork (decCommon w) (← decSpec (fld w 24 6)) (fld w 36 4) (← decSpec (fld w 30 6)))) := by
    unfold decFields; rw [hw]; rfl
  refine decode_of_fields _ cm 0xc7 _ _ x (by decide) ?_ rfl h rfl
  rw [f _ (opcOf_mkWord _ _ _)]
  simp (disch := omega) only [fld_mkWord, get_mkWord, decCommon_mkWord, ext_lo, ext_hi, ext_all, get_lo, get_hi, get_bool, Nat.reduceSub,
    decSpec_encSpec, decLine_encLine, decTile_encTile, decSq_encSq, decAmo_encAmo, decRed_encRed, decIRed_encIRed]
  rfl

theorem Codec.garrive (cm a idx rew) : Codec.Statement (.garrive cm a idx rew) := by
  intro h x
  have f (w : Word) (hw : opcOf w = 0xc8) : decFields w x = (do some (.garrive (decCommon w) (← decSpec (fld w 30 6)) (← decSpec (fld w 0 6)) (← decSpec (fld w 24 6)))) := by
    unfold decFields; rw [hw]; rfl
  refine decode_of_fields _ cm 0xc8 _ _ x (by decide) ?_ rfl h rfl
  rw [f _ (opcOf_mkWord _ _ _)]
  simp (disch := omega) only [fld_mkWord, get_mkWord, decCommon_mkWord, ext_lo, ext_hi, ext_all, get_lo, get_hi, get_bool, Nat.reduceSub,
    decSpec_encSpec, decLine_encLine, decTile_encTile, decSq_encSq, decAmo_encAmo, decRed_encRed, decIRed_encIRed]
  rfl

theorem Codec.gwait (cm d a idx) : Codec.Statement (.gwait cm d a idx) := by
  intro h x
  have f (w : Word) (hw : opcOf w = 0xc9) : decFields w x = (do some (.gwait (decCommon w) (← decSpec (fld w 24 6)) (← decSpec (fld w 30 6)) (← decSpec (fld w 0 6)))) := by
    unfold decFields; rw [hw]; rfl
  refine decode_of_fields _ cm 0xc9 _ _ x (by decide) ?_ rfl h rfl
  rw [f _ (opcOf_mkWord _ _ _)]
  simp (disch := omega) only [fld_mkWord, get_mkWord, decCommon_mkWord, ext_lo, ext_hi, ext_all, get_lo, get_hi, get_bool, Nat.reduceSub,
    decSpec_encSpec, decLine_encLine, decTile_encTile, decSq_encSq, decAmo_encAmo, decRed_encRed, decIRed_encIRed]
  rfl

theorem Codec.gcancel (cm a idx) : Codec.Statement (.gcancel cm a idx) := by
  intro h x
  have f (w : Word) (hw : opcOf w = 0xca) : decFields w x = (do some (.gcancel (decCommon w) (← decSpec (fld w 30 6)) (← decSpec (fld w 0 6)))) := by
    unfold decFields; rw [hw]; rfl
  refine decode_of_fields _ cm 0xca _ _ x (by decide) ?_ rfl h rfl
  rw [f _ (opcOf_mkWord _ _ _)]
  simp (disch := omega) only [fld_mkWord, get_mkWord, decCommon_mkWord, ext_lo, ext_hi, ext_all, get_lo, get_hi, get_bool, Nat.reduceSub,
    decSpec_encSpec, decLine_encLine, decTile_encTile, decSq_encSq, decAmo_encAmo, decRed_encRed, decIRed_encIRed]
  rfl

theorem Codec.grpstat (cm d a) : Codec.Statement (.grpstat cm d a) := by
  intro h x
  have f (w : Word) (hw : opcOf w = 0xcb) : decFields w x = (do some (.grpstat (decCommon w) (← decSpec (fld w 24 6)) (← decSpec (fld w 30 6)))) := by
    unfold decFields; rw [hw]; rfl
  refine decode_of_fields _ cm 0xcb _ _ x (by decide) ?_ rfl h rfl
  rw [f _ (opcOf_mkWord _ _ _)]
  simp (disch := omega) only [fld_mkWord, get_mkWord, decCommon_mkWord, ext_lo, ext_hi, ext_all, get_lo, get_hi, get_bool, Nat.reduceSub,
    decSpec_encSpec, decLine_encLine, decTile_encTile, decSq_encSq, decAmo_encAmo, decRed_encRed, decIRed_encIRed]
  rfl

theorem Codec.pwracq (cm d level nowait) : Codec.Statement (.pwracq cm d level nowait) := by
  intro h x
  have f (w : Word) (hw : opcOf w = 0xd0) : decFields w x = (do some (.pwracq (decCommon w) (← decSpec (fld w 24 6)) (fld w 0 4) (w.getLsbD 4))) := by
    unfold decFields; rw [hw]; rfl
  refine decode_of_fields _ cm 0xd0 _ _ x (by decide) ?_ rfl h rfl
  rw [f _ (opcOf_mkWord _ _ _)]
  simp (disch := omega) only [fld_mkWord, get_mkWord, decCommon_mkWord, ext_lo, ext_hi, ext_all, get_lo, get_hi, get_bool, Nat.reduceSub,
    decSpec_encSpec, decLine_encLine, decTile_encTile, decSq_encSq, decAmo_encAmo, decRed_encRed, decIRed_encIRed]
  rfl

theorem Codec.pwrrel (cm level) : Codec.Statement (.pwrrel cm level) := by
  intro h x
  have f (w : Word) (hw : opcOf w = 0xd1) : decFields w x = (some (.pwrrel (decCommon w) (fld w 0 4))) := by
    unfold decFields; rw [hw]; rfl
  refine decode_of_fields _ cm 0xd1 _ _ x (by decide) ?_ rfl h rfl
  rw [f _ (opcOf_mkWord _ _ _)]
  simp (disch := omega) only [fld_mkWord, get_mkWord, decCommon_mkWord, ext_lo, ext_hi, ext_all, get_lo, get_hi, get_bool, Nat.reduceSub,
    decSpec_encSpec, decLine_encLine, decTile_encTile, decSq_encSq, decAmo_encAmo, decRed_encRed, decIRed_encIRed]

theorem Codec.pwrq (cm d item) : Codec.Statement (.pwrq cm d item) := by
  intro h x
  have f (w : Word) (hw : opcOf w = 0xd2) : decFields w x = (do some (.pwrq (decCommon w) (← decSpec (fld w 24 6)) (fld w 0 2))) := by
    unfold decFields; rw [hw]; rfl
  refine decode_of_fields _ cm 0xd2 _ _ x (by decide) ?_ rfl h rfl
  rw [f _ (opcOf_mkWord _ _ _)]
  simp (disch := omega) only [fld_mkWord, get_mkWord, decCommon_mkWord, ext_lo, ext_hi, ext_all, get_lo, get_hi, get_bool, Nat.reduceSub,
    decSpec_encSpec, decLine_encLine, decTile_encTile, decSq_encSq, decAmo_encAmo, decRed_encRed, decIRed_encIRed]
  rfl

theorem Codec.trap (cm a code) : Codec.Statement (.trap cm a code) := by
  intro h x
  have f (w : Word) (hw : opcOf w = 0xe0) : decFields w x = (do some (.trap (decCommon w) (← decSpec (fld w 28 6)) (fld w 0 16))) := by
    unfold decFields; rw [hw]; rfl
  refine decode_of_fields _ cm 0xe0 _ _ x (by decide) ?_ rfl h rfl
  rw [f _ (opcOf_mkWord _ _ _)]
  simp (disch := omega) only [fld_mkWord, get_mkWord, decCommon_mkWord, ext_lo, ext_hi, ext_all, get_lo, get_hi, get_bool, Nat.reduceSub,
    decSpec_encSpec, decLine_encLine, decTile_encTile, decSq_encSq, decAmo_encAmo, decRed_encRed, decIRed_encIRed]
  rfl

theorem Codec.brk (cm code) : Codec.Statement (.brk cm code) := by
  intro h x
  have f (w : Word) (hw : opcOf w = 0xe1) : decFields w x = (some (.brk (decCommon w) (fld w 0 16))) := by
    unfold decFields; rw [hw]; rfl
  refine decode_of_fields _ cm 0xe1 _ _ x (by decide) ?_ rfl h rfl
  rw [f _ (opcOf_mkWord _ _ _)]
  simp (disch := omega) only [fld_mkWord, get_mkWord, decCommon_mkWord, ext_lo, ext_hi, ext_all, get_lo, get_hi, get_bool, Nat.reduceSub,
    decSpec_encSpec, decLine_encLine, decTile_encTile, decSq_encSq, decAmo_encAmo, decRed_encRed, decIRed_encIRed]

theorem Codec.hcall (cm d a code) : Codec.Statement (.hcall cm d a code) := by
  intro h x
  have f (w : Word) (hw : opcOf w = 0xe2) : decFields w x = (do some (.hcall (decCommon w) (fld w 34 5) (← decSpec (fld w 28 6)) (fld w 0 16))) := by
    unfold decFields; rw [hw]; rfl
  refine decode_of_fields _ cm 0xe2 _ _ x (by decide) ?_ rfl h rfl
  rw [f _ (opcOf_mkWord _ _ _)]
  simp (disch := omega) only [fld_mkWord, get_mkWord, decCommon_mkWord, ext_lo, ext_hi, ext_all, get_lo, get_hi, get_bool, Nat.reduceSub,
    decSpec_encSpec, decLine_encLine, decTile_encTile, decSq_encSq, decAmo_encAmo, decRed_encRed, decIRed_encIRed]
  rfl

theorem Codec.tret (cm) : Codec.Statement (.tret cm) := by
  intro h x
  have f (w : Word) (hw : opcOf w = 0xe3) : decFields w x = (some (.tret (decCommon w))) := by
    unfold decFields; rw [hw]; rfl
  refine decode_of_fields _ cm 0xe3 _ _ x (by decide) ?_ rfl h rfl
  rw [f _ (opcOf_mkWord _ _ _)]
  simp (disch := omega) only [fld_mkWord, get_mkWord, decCommon_mkWord, ext_lo, ext_hi, ext_all, get_lo, get_hi, get_bool, Nat.reduceSub,
    decSpec_encSpec, decLine_encLine, decTile_encTile, decSq_encSq, decAmo_encAmo, decRed_encRed, decIRed_encIRed]

theorem Codec.budget (cm d a n) : Codec.Statement (.budget cm d a n) := by
  intro h x
  have f (w : Word) (hw : opcOf w = 0xe4) : decFields w x = (do some (.budget (decCommon w) (← decSpec (fld w 34 6)) (← decSpec (fld w 28 6)) (fld w 0 28))) := by
    unfold decFields; rw [hw]; rfl
  refine decode_of_fields _ cm 0xe4 _ _ x (by decide) ?_ rfl h rfl
  rw [f _ (opcOf_mkWord _ _ _)]
  simp (disch := omega) only [fld_mkWord, get_mkWord, decCommon_mkWord, ext_lo, ext_hi, ext_all, get_lo, get_hi, get_bool, Nat.reduceSub,
    decSpec_encSpec, decLine_encLine, decTile_encTile, decSq_encSq, decAmo_encAmo, decRed_encRed, decIRed_encIRed]
  rfl

theorem Codec.discard (cm a d kind) : Codec.Statement (.discard cm a d kind) := by
  intro h x
  have f (w : Word) (hw : opcOf w = 0xe5) : decFields w x = (do some (.discard (decCommon w) (← decSpec (fld w 30 6)) (← decSpec (fld w 24 6)) (fld w 0 2))) := by
    unfold decFields; rw [hw]; rfl
  refine decode_of_fields _ cm 0xe5 _ _ x (by decide) ?_ rfl h rfl
  rw [f _ (opcOf_mkWord _ _ _)]
  simp (disch := omega) only [fld_mkWord, get_mkWord, decCommon_mkWord, ext_lo, ext_hi, ext_all, get_lo, get_hi, get_bool, Nat.reduceSub,
    decSpec_encSpec, decLine_encLine, decTile_encTile, decSq_encSq, decAmo_encAmo, decRed_encRed, decIRed_encIRed]
  rfl

theorem Codec.ifence (cm) : Codec.Statement (.ifence cm) := by
  intro h x
  have f (w : Word) (hw : opcOf w = 0xe6) : decFields w x = (some (.ifence (decCommon w))) := by
    unfold decFields; rw [hw]; rfl
  refine decode_of_fields _ cm 0xe6 _ _ x (by decide) ?_ rfl h rfl
  rw [f _ (opcOf_mkWord _ _ _)]
  simp (disch := omega) only [fld_mkWord, get_mkWord, decCommon_mkWord, ext_lo, ext_hi, ext_all, get_lo, get_hi, get_bool, Nat.reduceSub,
    decSpec_encSpec, decLine_encLine, decTile_encTile, decSq_encSq, decAmo_encAmo, decRed_encRed, decIRed_encIRed]

theorem Codec.yield (cm) : Codec.Statement (.yield cm) := by
  intro h x
  have f (w : Word) (hw : opcOf w = 0xe7) : decFields w x = (some (.yield (decCommon w))) := by
    unfold decFields; rw [hw]; rfl
  refine decode_of_fields _ cm 0xe7 _ _ x (by decide) ?_ rfl h rfl
  rw [f _ (opcOf_mkWord _ _ _)]
  simp (disch := omega) only [fld_mkWord, get_mkWord, decCommon_mkWord, ext_lo, ext_hi, ext_all, get_lo, get_hi, get_bool, Nat.reduceSub,
    decSpec_encSpec, decLine_encLine, decTile_encTile, decSq_encSq, decAmo_encAmo, decRed_encRed, decIRed_encIRed]

theorem Codec.rfetch (rd rs1) : Codec.Statement (.rfetch rd rs1) := fun _ => decodeFw_of_fields _ _ rfl (by simp (disch := omega) only [decFwFields, mkFw, ext_lo, ext_hi, ext_all, Nat.reduceSub]; rfl)

theorem Codec.bfext (rd rs1 rs2) : Codec.Statement (.bfext rd rs1 rs2) := fun _ => decodeFw_of_fields _ _ rfl (by simp (disch := omega) only [decFwFields, mkFw, ext_lo, ext_hi, ext_all, Nat.reduceSub]; rfl)

theorem Codec.swait (rd rs1 rs2) : Codec.Statement (.swait rd rs1 rs2) := fun _ => decodeFw_of_fields _ _ rfl (by simp (disch := omega) only [decFwFields, mkFw, ext_lo, ext_hi, ext_all, Nat.reduceSub]; rfl)

theorem Codec.pclr (rs1) : Codec.Statement (.pclr rs1) := fun _ => decodeFw_of_fields _ _ rfl (by simp (disch := omega) only [decFwFields, mkFw, ext_lo, ext_hi, ext_all, Nat.reduceSub]; rfl)

theorem Codec.dispatch (rd rs1 rs2) : Codec.Statement (.dispatch rd rs1 rs2) := fun _ => decodeFw_of_fields _ _ rfl (by simp (disch := omega) only [decFwFields, mkFw, ext_lo, ext_hi, ext_all, Nat.reduceSub]; rfl)

theorem Codec.qsave (rd rs1 rs2) : Codec.Statement (.qsave rd rs1 rs2) := fun _ => decodeFw_of_fields _ _ rfl (by simp (disch := omega) only [decFwFields, mkFw, ext_lo, ext_hi, ext_all, Nat.reduceSub]; rfl)

theorem Codec.qload (rd rs1 rs2) : Codec.Statement (.qload rd rs1 rs2) := fun _ => decodeFw_of_fields _ _ rfl (by simp (disch := omega) only [decFwFields, mkFw, ext_lo, ext_hi, ext_all, Nat.reduceSub]; rfl)

theorem Codec.qbind (rd rs1 rs2) : Codec.Statement (.qbind rd rs1 rs2) := fun _ => decodeFw_of_fields _ _ rfl (by simp (disch := omega) only [decFwFields, mkFw, ext_lo, ext_hi, ext_all, Nat.reduceSub]; rfl)

theorem Codec.instructionRetire (core slot y) : Codec.Statement (.instructionRetire core slot y) := fun _ => none_of_event _ rfl rfl

theorem Codec.codeFetch (core slot y line) : Codec.Statement (.codeFetch core slot y line) := fun _ => none_of_event _ rfl rfl

theorem Codec.waitTimeout (core slot y) : Codec.Statement (.waitTimeout core slot y) := fun _ => none_of_event _ rfl rfl

theorem Codec.trapEntry (core slot) : Codec.Statement (.trapEntry core slot) := fun _ => none_of_event _ rfl rfl

theorem Codec.budgetExpiry (core slot) : Codec.Statement (.budgetExpiry core slot) := fun _ => none_of_event _ rfl rfl

theorem Codec.generatorRefill (core slot g) : Codec.Statement (.generatorRefill core slot g) := fun _ => none_of_event _ rfl rfl

theorem Codec.scrubPass (core corrTile corrSpad found) : Codec.Statement (.scrubPass core corrTile corrSpad found) := fun _ => none_of_event _ rfl rfl

theorem Codec.leaseExpiry (core line) : Codec.Statement (.leaseExpiry core line) := fun _ => none_of_event _ rfl rfl

theorem Codec.timeRebase (amount) : Codec.Statement (.timeRebase amount) := fun _ => none_of_event _ rfl rfl

theorem Codec.tableWalk (core slot va acc) : Codec.Statement (.tableWalk core slot va acc) := fun _ => none_of_event _ rfl rfl

theorem Codec.pageMigrationSwitch (page dest lock) : Codec.Statement (.pageMigrationSwitch page dest lock) := fun _ => none_of_event _ rfl rfl

theorem Codec.lazyPageLoad (guest ia) : Codec.Statement (.lazyPageLoad guest ia) := fun _ => none_of_event _ rfl rfl

theorem Codec.copy (core slot q seq n) : Codec.Statement (.copy core slot q seq n) := fun _ => none_of_event _ rfl rfl

theorem Codec.gather (core slot q seq n) : Codec.Statement (.gather core slot q seq n) := fun _ => none_of_event _ rfl rfl

theorem Codec.scatter (core slot q seq n) : Codec.Statement (.scatter core slot q seq n) := fun _ => none_of_event _ rfl rfl

theorem Codec.reduce (core slot q seq n) : Codec.Statement (.reduce core slot q seq n) := fun _ => none_of_event _ rfl rfl

theorem Codec.fill (core slot q seq n) : Codec.Statement (.fill core slot q seq n) := fun _ => none_of_event _ rfl rfl

theorem Codec.chainFetch (core slot q) : Codec.Statement (.chainFetch core slot q) := fun _ => none_of_event _ rfl rfl

theorem Codec.commandComplete (core slot q seq) : Codec.Statement (.commandComplete core slot q seq) := fun _ => none_of_event _ rfl rfl

theorem Codec.engineTimeout (core slot q seq) : Codec.Statement (.engineTimeout core slot q seq) := fun _ => none_of_event _ rfl rfl

theorem Codec.matrixComplete (core slot n residue) : Codec.Statement (.matrixComplete core slot n residue) := fun _ => none_of_event _ rfl rfl

theorem Codec.jointOperationStart (core slot) : Codec.Statement (.jointOperationStart core slot) := fun _ => none_of_event _ rfl rfl

theorem Codec.launch (queue) : Codec.Statement (.launch queue) := fun _ => none_of_event _ rfl rfl

theorem Codec.instanceBind (launch inst) : Codec.Statement (.instanceBind launch inst) := fun _ => none_of_event _ rfl rfl

theorem Codec.instanceComplete (core slot) : Codec.Statement (.instanceComplete core slot) := fun _ => none_of_event _ rfl rfl

theorem Codec.launchCompletionPost (launch) : Codec.Statement (.launchCompletionPost launch) := fun _ => none_of_event _ rfl rfl

theorem Codec.dependenceMet (task) : Codec.Statement (.dependenceMet task) := fun _ => none_of_event _ rfl rfl

theorem Codec.taskPlace (task) : Codec.Statement (.taskPlace task) := fun _ => none_of_event _ rfl rfl

theorem Codec.taskAgeingExpiry (task) : Codec.Statement (.taskAgeingExpiry task) := fun _ => none_of_event _ rfl rfl

theorem Codec.taskSteal (task core slot) : Codec.Statement (.taskSteal task core slot) := fun _ => none_of_event _ rfl rfl

theorem Codec.groupTimeout (pa) : Codec.Statement (.groupTimeout pa) := fun _ => none_of_event _ rfl rfl

theorem Codec.groupComplete (pa) : Codec.Statement (.groupComplete pa) := fun _ => none_of_event _ rfl rfl

theorem Codec.powerGrant (core slot) : Codec.Statement (.powerGrant core slot) := fun _ => none_of_event _ rfl rfl

theorem Codec.loanReclaim (partition) : Codec.Statement (.loanReclaim partition) := fun _ => none_of_event _ rfl rfl

theorem Codec.loanRestore (partition) : Codec.Statement (.loanRestore partition) := fun _ => none_of_event _ rfl rfl

theorem Codec.clockRequest (cluster v) : Codec.Statement (.clockRequest cluster v) := fun _ => none_of_event _ rfl rfl

theorem Codec.clockSwitch (cluster) : Codec.Statement (.clockSwitch cluster) := fun _ => none_of_event _ rfl rfl

theorem Codec.voteWithdraw (cluster) : Codec.Statement (.voteWithdraw cluster) := fun _ => none_of_event _ rfl rfl

theorem Codec.railHoldExpiry (rail) : Codec.Statement (.railHoldExpiry rail) := fun _ => none_of_event _ rfl rfl

theorem Codec.railMove (cluster v) : Codec.Statement (.railMove cluster v) := fun _ => none_of_event _ rfl rfl

theorem Codec.stallSample (cluster active mem pwr) : Codec.Statement (.stallSample cluster active mem pwr) := fun _ => none_of_event _ rfl rfl

theorem Codec.pwrStallRead (cluster half) : Codec.Statement (.pwrStallRead cluster half) := fun _ => none_of_event _ rfl rfl

theorem Codec.thermalSample (temps) : Codec.Statement (.thermalSample temps) := fun _ => none_of_event _ rfl rfl

theorem Codec.throttleStep (cluster) : Codec.Statement (.throttleStep cluster) := fun _ => none_of_event _ rfl rfl

theorem Codec.tripResume (by_) : Codec.Statement (.tripResume by_) := fun _ => none_of_event _ rfl rfl

theorem Codec.idleEntry : Codec.Statement (.idleEntry) := fun _ => none_of_event _ rfl rfl

theorem Codec.idleExit : Codec.Statement (.idleExit) := fun _ => none_of_event _ rfl rfl

theorem Codec.wakeInputRise : Codec.Statement (.wakeInputRise) := fun _ => none_of_event _ rfl rfl

theorem Codec.wakeInputFall : Codec.Statement (.wakeInputFall) := fun _ => none_of_event _ rfl rfl

theorem Codec.supplyRemoval : Codec.Statement (.supplyRemoval) := fun _ => none_of_event _ rfl rfl

theorem Codec.preemptRequest (core slot why blocks) : Codec.Statement (.preemptRequest core slot why blocks) := fun _ => none_of_event _ rfl rfl

theorem Codec.contextSave (core slot) : Codec.Statement (.contextSave core slot) := fun _ => none_of_event _ rfl rfl

theorem Codec.contextRestore (saved) : Codec.Statement (.contextRestore saved) := fun _ => none_of_event _ rfl rfl

theorem Codec.xlateInv (v) : Codec.Statement (.xlateInv v) := fun _ => none_of_event _ rfl rfl

theorem Codec.invalidationComplete : Codec.Statement (.invalidationComplete) := fun _ => none_of_event _ rfl rfl

theorem Codec.kick (ring tail) : Codec.Statement (.kick ring tail) := fun _ => none_of_event _ rfl rfl

theorem Codec.ringConfigWrite (by_ ring off size v) : Codec.Statement (.ringConfigWrite by_ ring off size v) := fun _ => none_of_event _ rfl rfl

theorem Codec.ageTick : Codec.Statement (.ageTick) := fun _ => none_of_event _ rfl rfl

theorem Codec.completionEntryWrite (guest) : Codec.Statement (.completionEntryWrite guest) := fun _ => none_of_event _ rfl rfl

theorem Codec.eventRecordPost (fw) : Codec.Statement (.eventRecordPost fw) := fun _ => none_of_event _ rfl rfl

theorem Codec.fwAnswerResume (ticket) : Codec.Statement (.fwAnswerResume ticket) := fun _ => none_of_event _ rfl rfl

theorem Codec.fwAnswerDiscard (ticket) : Codec.Statement (.fwAnswerDiscard ticket) := fun _ => none_of_event _ rfl rfl

theorem Codec.fwAnswerResult (ticket) : Codec.Statement (.fwAnswerResult ticket) := fun _ => none_of_event _ rfl rfl

theorem Codec.contractWrite (by_ guest off size v) : Codec.Statement (.contractWrite by_ guest off size v) := fun _ => none_of_event _ rfl rfl

theorem Codec.wayChg (guest) : Codec.Statement (.wayChg guest) := fun _ => none_of_event _ rfl rfl

theorem Codec.partitionConfigWrite (part off access v) : Codec.Statement (.partitionConfigWrite part off access v) := fun _ => none_of_event _ rfl rfl

theorem Codec.queueConfigWrite (queue off access v) : Codec.Statement (.queueConfigWrite queue off access v) := fun _ => none_of_event _ rfl rfl

theorem Codec.windowBoundary (part) : Codec.Statement (.windowBoundary part) := fun _ => none_of_event _ rfl rfl

theorem Codec.tileTimeExhausted (guest) : Codec.Statement (.tileTimeExhausted guest) := fun _ => none_of_event _ rfl rfl

theorem Codec.partMovePairs (src dst mask) : Codec.Statement (.partMovePairs src dst mask) := fun _ => none_of_event _ rfl rfl

theorem Codec.partMoveSlices (src dst mask) : Codec.Statement (.partMoveSlices src dst mask) := fun _ => none_of_event _ rfl rfl

theorem Codec.partMoveChannels (src dst mask) : Codec.Statement (.partMoveChannels src dst mask) := fun _ => none_of_event _ rfl rfl

theorem Codec.partMoveLanes (src dst mask lane) : Codec.Statement (.partMoveLanes src dst mask lane) := fun _ => none_of_event _ rfl rfl

theorem Codec.functionLevelReset (fn) : Codec.Statement (.functionLevelReset fn) := fun _ => none_of_event _ rfl rfl

theorem Codec.vfReset (vf) : Codec.Statement (.vfReset vf) := fun _ => none_of_event _ rfl rfl

theorem Codec.guestReset (side guest) : Codec.Statement (.guestReset side guest) := fun _ => none_of_event _ rfl rfl

theorem Codec.memoryTempSample (ctrl temp rate) : Codec.Statement (.memoryTempSample ctrl temp rate) := fun _ => none_of_event _ rfl rfl

theorem Codec.registerWrite (by_ addr size v) : Codec.Statement (.registerWrite by_ addr size v) := fun _ => none_of_event _ rfl rfl

theorem Codec.windowRead (fn off size) : Codec.Statement (.windowRead fn off size) := fun _ => none_of_event _ rfl rfl

theorem Codec.windowWrite (fn off bytes) : Codec.Statement (.windowWrite fn off bytes) := fun _ => none_of_event _ rfl rfl

theorem Codec.cqHeadWrite (fn head) : Codec.Statement (.cqHeadWrite fn head) := fun _ => none_of_event _ rfl rfl

theorem Codec.hostLinkDown : Codec.Statement (.hostLinkDown) := fun _ => none_of_event _ rfl rfl

theorem Codec.peerWrite (addr bytes) : Codec.Statement (.peerWrite addr bytes) := fun _ => none_of_event _ rfl rfl

theorem Codec.peerAtomic (addr op width v expect) : Codec.Statement (.peerAtomic addr op width v expect) := fun _ => none_of_event _ rfl rfl

theorem Codec.walzelLinkDown (link) : Codec.Statement (.walzelLinkDown link) := fun _ => none_of_event _ rfl rfl

theorem Codec.cameraFrame (stream bytes) : Codec.Statement (.cameraFrame stream bytes) := fun _ => none_of_event _ rfl rfl

theorem Codec.cameraPeriodEnd (stream) : Codec.Statement (.cameraPeriodEnd stream) := fun _ => none_of_event _ rfl rfl

theorem Codec.displayPeriodStart (stream) : Codec.Statement (.displayPeriodStart stream) := fun _ => none_of_event _ rfl rfl

theorem Codec.mboxGo : Codec.Statement (.mboxGo) := fun _ => none_of_event _ rfl rfl

theorem Codec.getStatus (side) : Codec.Statement (.getStatus side) := fun _ => none_of_event _ rfl rfl

theorem Codec.lockAcquire (side) : Codec.Statement (.lockAcquire side) := fun _ => none_of_event _ rfl rfl

theorem Codec.lockRelease (side) : Codec.Statement (.lockRelease side) := fun _ => none_of_event _ rfl rfl

theorem Codec.partMove (side v) : Codec.Statement (.partMove side v) := fun _ => none_of_event _ rfl rfl

theorem Codec.streamSet (side stream v) : Codec.Statement (.streamSet side stream v) := fun _ => none_of_event _ rfl rfl

theorem Codec.powerSet (side votes clocks) : Codec.Statement (.powerSet side votes clocks) := fun _ => none_of_event _ rfl rfl

theorem Codec.powerState (side target mask idle) : Codec.Statement (.powerState side target mask idle) := fun _ => none_of_event _ rfl rfl

theorem Codec.debugUnlock (side token) : Codec.Statement (.debugUnlock side token) := fun _ => none_of_event _ rfl rfl

theorem Codec.nonceExpiry : Codec.Statement (.nonceExpiry) := fun _ => none_of_event _ rfl rfl

theorem Codec.debugAccess (core slot op) : Codec.Statement (.debugAccess core slot op) := fun _ => none_of_event _ rfl rfl

theorem Codec.getVersion : Codec.Statement (.getVersion) := fun _ => none_of_event _ rfl rfl

theorem Codec.getCapabilities : Codec.Statement (.getCapabilities) := fun _ => none_of_event _ rfl rfl

theorem Codec.negotiateAlgorithms (slots) : Codec.Statement (.negotiateAlgorithms slots) := fun _ => none_of_event _ rfl rfl

theorem Codec.getDigests : Codec.Statement (.getDigests) := fun _ => none_of_event _ rfl rfl

theorem Codec.getCertificate (chain) : Codec.Statement (.getCertificate chain) := fun _ => none_of_event _ rfl rfl

theorem Codec.challenge (chain nonce) : Codec.Statement (.challenge chain nonce) := fun _ => none_of_event _ rfl rfl

theorem Codec.getMeasurements (chain block sign) : Codec.Statement (.getMeasurements chain block sign) := fun _ => none_of_event _ rfl rfl

theorem Codec.keyExchange (chain data) : Codec.Statement (.keyExchange chain data) := fun _ => none_of_event _ rfl rfl

theorem Codec.finish (session) : Codec.Statement (.finish session) := fun _ => none_of_event _ rfl rfl

theorem Codec.endSession (session) : Codec.Statement (.endSession session) := fun _ => none_of_event _ rfl rfl

theorem Codec.keyOnBoot : Codec.Statement (.keyOnBoot) := fun _ => none_of_event _ rfl rfl

theorem Codec.walzelLinkUp (link width) : Codec.Statement (.walzelLinkUp link width) := fun _ => none_of_event _ rfl rfl

theorem Codec.hostLinkUp (width rate) : Codec.Statement (.hostLinkUp width rate) := fun _ => none_of_event _ rfl rfl

theorem Codec.crcFailure (link) : Codec.Statement (.crcFailure link) := fun _ => none_of_event _ rfl rfl

theorem Codec.peerRead (addr size) : Codec.Statement (.peerRead addr size) := fun _ => none_of_event _ rfl rfl

theorem Codec.railRampComplete (rail) : Codec.Statement (.railRampComplete rail) := fun _ => none_of_event _ rfl rfl

end Sys2Proof.Laws
end

