-- ==== Sys2Proof/Safety.lean ====
section
/-! DEFINITION. The terms in which claims speak: when a word issues at once, what an issued word will do at its
retire, what an issue leaves alone, and the values of its operands. -/
namespace Sys2Proof.Machine

/-! ### When a word issues -/

/-- A word issues at once (02 R26, R29, R37, R40, R44, 05 R110): no trap comes before it, its watchdog is not due,
every coupling condition holds, nothing it names is still to be written, its class is within the effective power
level, and its generators have lines. -/
abbrev Ready (r : Req) (s : State) : Prop :=
  r.preTrap s.me s.who.y = none ∧ s.timeoutDue = false ∧ r.firstWait s.me s.who.y = none ∧
    r.held s.me s.sq = false ∧ r.short s.me = false

/-- What the issue of a word with no more than scalar operands asks for. -/
abbrev scalarReq (i : Instr) (opc : Nat) (cm : Common) (srcs : List Spec) (dst : Option Spec) : Req :=
  { opc := opc, cm := cm, wf := i.wellFormed, srcs := srcs, dst := dst }

/-- The value of operand `n` of a list of sources (02 R36, R37): a register, a loop index, or the entry of a queue
that is oldest once the sources before it have popped theirs. -/
def operand (s : State) (srcs : List Spec) (n : Nat) : Word :=
  match srcs.getD n (.s 0) with
  | .q z => ((s.me.chan .data (chanIx z s.who.y)).avail.getD
      ((srcs.take n).countP fun f => Spec.queue f == some z) ⟨0, ⟨0, []⟩, 0⟩).v
  | .s k => s.sq.reg k.toNat
  | .li k => s.sq.li k.toNat

/-! ### What an issue leaves alone -/

/-- What a context shows beside its sequencers, channels and generators, and beside the two marks that only the
next word of X or C can see (11 R278, 12 R292). -/
def Ctx.rest (c : Ctx) : Ctx :=
  { c with seq := Quad.all Seqr.empty, toks := [], data := [], bos := [], gens := []
           matrix := { c.matrix with resume := none }, tasks := { c.tasks with feedWait := none } }

/-- What a sequencer shows beside its flow, its waits, its time and what it has in flight: registers, conditions,
target registers, retired count, code ring. -/
def Seqr.rest (q : Seqr) : Seqr :=
  { Seqr.empty with s := q.s, b := q.b, k := q.k, done := q.done, retired := q.retired, seen := q.seen,
                    fence := q.fence, ring := q.ring }

/-- Outside the contexts nothing has changed, and of the contexts only the executing one has. -/
abbrev OnlyMe (s t : State) : Prop :=
  { t with ctxs := s.ctxs } = s ∧
    ∀ core slot, core * 4 + slot ≠ s.who.core * 4 + s.who.slot → t.ctx core slot = s.ctx core slot

/-- The issue changed nothing but what belongs to every issue: nothing outside the executing context, no other
sequencer of it, of its power only the requests of the sequencer itself, which end (13 R327), and no register, condition,
target register, tile, scratchpad byte, predicate, event, ring, scope or special register in it; results come at the
retire (02 R27). -/
abbrev OnlyIssue (s t : State) : Prop :=
  OnlyMe s t ∧ t.me.rest = (s.me.endRequest s.who.y).rest ∧ t.sq.rest = s.sq.rest ∧
    ∀ z, z ≠ s.who.y → t.me.seq.get z = s.me.seq.get z

/-- The word is in flight: it is the youngest issued instruction of its sequencer, will do `eff` at its retire, waits
there for `gate`, holds its tokens' slots and events, and hands over the time and acquisitions of its sequencer
(02 R26, R27, 07 R145). -/
def InFlight (r : Req) (s t : State) (eff : List Effect) (gate : Gate) : Prop :=
  ∃ p, t.sq.inflight = s.sq.inflight ++ [p] ∧ p.opc = r.opc ∧ p.pc = s.sq.pc ∧ p.ts = r.cm.ts ∧ p.es = r.cm.es ∧
    p.rsvs = r.slots s.who.y ∧ p.effects = eff ∧ p.gate = gate ∧ p.carry = t.sq.carry

/-- Where the flow goes (04 R79, R81). -/
abbrev Flows (s t : State) (long : Bool) (f : Flow) : Prop :=
  t.sq.pc = (s.sq.flow long f).pc ∧ t.sq.loops = (s.sq.flow long f).loops

/-- The outcome of a word whose issue does nothing but start it. -/
def Starts (r : Req) (s : State) (eff : List Effect) (gate : Gate) (f : Flow) (o : Out) : Prop :=
  ∃ t, o = .next t ∧ OnlyIssue s t ∧ InFlight r s t eff gate ∧ Flows s t r.long f

/-- The state in which the meaning of a word runs once its operands are taken (02 R26, R37, R40). -/
def Req.taken (r : Req) (s : State) : State :=
  s.setMe ((r.take s.me s.who.y).ctx.setSeq s.who.y
    { (r.take s.me s.who.y).ctx.seq.get s.who.y with oneShot := none })

/-- The outcome of a word whose meaning acts at its issue: `d` says the state its own act leaves, what its retire will
do and wait for, and where the flow goes; the word is then accepted as every word is. -/
abbrev Goes (r : Req) (s : State) (d : Done) (o : Out) : Prop := o = .next (accept r (r.take s.me s.who.y) d)

/-- An access at an exact address reaches memory of a kind (0 device, 1 host, 2 peer), in a state that its walk leaves (07
R168). -/
def State.reaches (s : State) (load : Bool) (acc : Access) (ea : Int) (n : Nat) (v : State) (pa kind : Nat) : Prop :=
  s.reachWindow load acc ea n (s.reachXlat load acc ea n) = .ok v pa kind ∧ (kind = 0 → fitted pa = true)

/-! ### Results of the scalar instructions, as 04 R68 to R75 give them -/

/-- Rows of two scalar sources and a scalar destination (04 Table 4.7): opcode, common fields, destination, sources,
result. -/
def twoOperand : Instr → Option (Nat × Common × Spec × Spec × Spec × (Word → Word → Word))
  | .add cm d a b => some (0x01, cm, d, a, b, fun x y => x + y)
  | .sub cm d a b => some (0x02, cm, d, a, b, fun x y => x - y)
  | .mul cm d a b => some (0x03, cm, d, a, b, fun x y => x * y)
  | .mulh cm d a b => some (0x04, cm, d, a, b, fun x y => BitVec.ofInt 64 (x.toInt * y.toInt / 2 ^ 64))
  | .mulhu cm d a b => some (0x05, cm, d, a, b, fun x y => BitVec.ofNat 64 (x.toNat * y.toNat / 2 ^ 64))
  | .div cm d a b => some (0x06, cm, d, a, b, fun x y => if y = 0 then BitVec.allOnes 64 else x.sdiv y)
  | .divu cm d a b => some (0x07, cm, d, a, b, fun x y => if y = 0 then BitVec.allOnes 64 else x.udiv y)
  | .rem cm d a b => some (0x08, cm, d, a, b, fun x y => if y = 0 then x else x.srem y)
  | .remu cm d a b => some (0x09, cm, d, a, b, fun x y => if y = 0 then x else x.umod y)
  | .andR cm d a b => some (0x0A, cm, d, a, b, fun x y => x &&& y)
  | .orR cm d a b => some (0x0B, cm, d, a, b, fun x y => x ||| y)
  | .xorR cm d a b => some (0x0C, cm, d, a, b, fun x y => x ^^^ y)
  | .sll cm d a b => some (0x0D, cm, d, a, b, fun x y => x <<< (y.toNat % 64))
  | .srl cm d a b => some (0x0E, cm, d, a, b, fun x y => x >>> (y.toNat % 64))
  | .sra cm d a b => some (0x0F, cm, d, a, b, fun x y => x.sshiftRight (y.toNat % 64))
  | .minR cm d a b => some (0x10, cm, d, a, b, fun x y => if x.toInt ≤ y.toInt then x else y)
  | .maxR cm d a b => some (0x11, cm, d, a, b, fun x y => if x.toInt ≤ y.toInt then y else x)
  | .minu cm d a b => some (0x12, cm, d, a, b, fun x y => if x.toNat ≤ y.toNat then x else y)
  | .maxu cm d a b => some (0x13, cm, d, a, b, fun x y => if x.toNat ≤ y.toNat then y else x)
  | .slt cm d a b => some (0x14, cm, d, a, b, fun x y => if x.toInt < y.toInt then 1 else 0)
  | .sltu cm d a b => some (0x15, cm, d, a, b, fun x y => if x.toNat < y.toNat then 1 else 0)
  | _ => none

/-- Rows of one scalar source and a scalar destination (04 R69, R71, R72). -/
def oneOperand : Instr → Option (Nat × Common × Spec × Spec × (Word → Word))
  | .addi cm d a imm => some (0x16, cm, d, a, fun x => x + imm.signExtend 64)
  | .andi cm d a imm => some (0x17, cm, d, a, fun x => x &&& imm.signExtend 64)
  | .ori cm d a imm => some (0x18, cm, d, a, fun x => x ||| imm.signExtend 64)
  | .xori cm d a imm => some (0x19, cm, d, a, fun x => x ^^^ imm.signExtend 64)
  | .slli cm d a sh => some (0x1A, cm, d, a, fun x => x <<< sh.toNat)
  | .srli cm d a sh => some (0x1B, cm, d, a, fun x => x >>> sh.toNat)
  | .srai cm d a sh => some (0x1C, cm, d, a, fun x => x.sshiftRight sh.toNat)
  | .slti cm d a imm => some (0x1D, cm, d, a, fun x => if x.toInt < imm.toInt then 1 else 0)
  | .bfx cm d a pos lenM1 sx => some (0x1F, cm, d, a, fun x =>
      if sx then ((x >>> pos.toNat).setWidth (lenM1.toNat + 1)).signExtend 64
      else ((x >>> pos.toNat).setWidth (lenM1.toNat + 1)).setWidth 64)
  | .clz cm d a => some (0x21, cm, d, a, fun x => BitVec.ofNat 64 (if x = 0 then 64 else 63 - x.toNat.log2))
  | .ctz cm d a => some (0x22, cm, d, a, fun x =>
      BitVec.ofNat 64 (((List.range 64).find? fun i => x.getLsbD i).getD 64))
  | .popc cm d a => some (0x23, cm, d, a, fun x => BitVec.ofNat 64 ((List.range 64).countP fun i => x.getLsbD i))
  | _ => none

/-- The conditions of 04 Table 4.9. -/
def holdsCond (cond : BitVec 3) (x y : Word) : Bool :=
  match cond.toNat with
  | 0 => decide (x = y)
  | 1 => decide (x ≠ y)
  | 2 => decide (x.toInt < y.toInt)
  | 3 => decide (y.toInt ≤ x.toInt)
  | 4 => decide (x.toNat < y.toNat)
  | 5 => decide (y.toNat ≤ x.toNat)
  | 6 => decide (x &&& y ≠ 0)
  | _ => decide (x &&& y = 0)

/-- The interlock of a condition; k0 is never written (04 R62). -/
abbrev condLocs (k : BitVec 3) : List Loc := if k = 0 then [] else [.k k.toNat]

/-- A condition written at a retire; k0 discards (04 R62). -/
abbrev condWrite (k : BitVec 3) (v : Bool) : List Effect := if k = 0 then [] else [.k k.toNat v]

/-! ### Line results (06 R119 to R127, 09 R222, 10 R235 to R237) -/

/-- The line that operand `n` of a list of sources gives: a line of a tile, or the oldest line of a generator once the
sources before it have popped theirs (02 R39, R40). -/
def lineOperand (s : State) (srcs : List Line) (n : Nat) : LineBits :=
  match srcs[n]? with
  | none => 0
  | some (.tile t) => s.tileLine t
  | some (.gen g) => ((s.me.gen g.toNat).buf.getD ((srcs.take n).countP fun l => l == .gen g) ⟨0, ⟨0, []⟩⟩).bits

/-- No word that a line result would merge into is uncorrectable (06 R140). -/
def cleanDest (s : State) (d : Line) (tag : Nat) (take : Nat → Bool) : Prop :=
  match d with
  | .tile z => s.mergeEcc z (elemMask tag take) = none
  | .gen g => s.me.pushEcc g.toNat 1 = none

/-- A line to be written to a tile keeps, of the cells that it writes, what the elements that `take` leaves out held at the
issue; the cells written are those that hold an element which `take` chooses (09 R222, 10 R237). -/
def Merges (s : State) (z : TileLine) (tag : Nat) (take : Nat → Bool) (l cells : LineBits) : Prop :=
  (∀ m, m < elems tag → take m = false →
    elem tag l m = elem tag ((s.me.tile z.tile.toNat).rawLine z.dir (TileLine.index z s.sq)) m) ∧
  ∀ i, i < 64 → lineCell cells i =
    if (List.range (perCell tag)).any fun k => take (i * perCell tag + k) then BitVec.allOnes 32 else 0

/-- What the retire of a line result does: of the line it writes, the elements that `take` chooses hold their code; of a
tile the cells that hold one are written whole, with what their other elements held at the issue, and the tile gets the tag
where it has another; the flags of the chosen elements are added (09 R219, R222, 10 R237); then `more`. -/
def LineResult (s : State) (d : Line) (tag : Nat) (take : Nat → Bool) (f : Nat → Nat × FFlags) (more : List Effect)
    (eff : List Effect) : Prop :=
  ∃ (l cells : LineBits),
    (∀ m, m < elems tag → take m = true → elem tag l m = (f m).1 % 2 ^ cbits tag) ∧
    (∀ z, d = .tile z → Merges s z tag take l cells) ∧
    eff = (match d with
        | .tile z => [.line z (TileLine.index z s.sq) l cells, .retag z.tile.toNat tag]
        | .gen g => [.genLine g.toNat l]) ++
      .flags (((List.range (elems tag)).filter take).foldl (fun (a : FFlags) m => a.or (f m).2) {}).bits :: more

/-- An instruction that gives each element of its result from the elements of its sources: what its issue asks for
(opcode, class, common fields, destination, sources in the order they are popped, predicate); the sources of its
elements; how many of them fix its format; default, least and greatest of its formats; and the result of an element,
given the executing context, the format, and element `m` of source `n` as `x n m`. -/
structure Elementwise where
  opc : Nat
  cls : Nat
  cm : Common
  d : Line
  pops : List Line
  p : BitVec 3
  srcs : List Line
  fixing : Nat
  dflt : Nat
  lo : Nat
  hi : Nat
  res : Ctx → Nat → (Nat → Nat → Nat) → Nat → Nat × FFlags

/-- The context's rounding mode as a number (09 R211). -/
abbrev Ctx.rmode (c : Ctx) : Nat := c.rm.toNat

/-- A member with one floating-point source. -/
abbrev float1Op (opc cls : Nat) (cm : Common) (d a : Line) (p : BitVec 3) (f : Fmt → Nat → Bool → Nat → Nat × FFlags) :
    Elementwise :=
  ⟨opc, cls, cm, d, [a], p, [a], 1, 1, 1, 3, fun c t x m => f (vecFloat t) c.rmode c.fzOn (x 0 m)⟩

/-- A member with two floating-point sources. -/
abbrev float2Op (opc : Nat) (cm : Common) (d a b : Line) (p : BitVec 3)
    (f : Fmt → Nat → Bool → FV → FV → Nat × FFlags) : Elementwise :=
  ⟨opc, 4, cm, d, [a, b], p, [a, b], 2, 1, 1, 3, fun c t x m =>
    f (vecFloat t) c.rmode c.fzOn ((vecFloat t).value c.fzOn (x 0 m)) ((vecFloat t).value c.fzOn (x 1 m))⟩

/-- A multiply-add: under NBV 1 the product is rounded by itself (10 R240). -/
abbrev float3Op (opc : Nat) (cm : Common) (d : TileLine) (a b : Line) (p : BitVec 3) (negP negZ : Bool) : Elementwise :=
  ⟨opc, 4, cm, .tile d, [a, b], p, [a, b, .tile d], 3, 1, 1, 3, fun c t x m =>
    let f := vecFloat t
    let v (n : Nat) := f.value c.fzOn (x n m)
    let z := if negZ then (v 2).negate else v 2
    if c.nbv = 1 then
      let q := f.mul c.rmode c.fzOn (v 0) (v 1)
      let w := f.value c.fzOn q.1
      let r := f.add c.rmode c.fzOn (if negP then w.negate else w) z
      (r.1, q.2.or r.2)
    else f.fused c.rmode c.fzOn (if negP then (v 0).negate else v 0) (v 1) z⟩

/-- An integer member on w-bit containers; the operation is on bit vectors of that width (10 R246). -/
abbrev intOp (opc : Nat) (cm : Common) (d a b : Line) (p : BitVec 3)
    (f : (w : Nat) → Bool → BitVec w → BitVec w → BitVec w) : Elementwise :=
  ⟨opc, 4, cm, d, [a, b], p, [a, b], 2, 6, 6, 9, fun _ t x m =>
    ((f (cbits t) (t != 9) (BitVec.ofNat (cbits t) (x 0 m)) (BitVec.ofNat (cbits t) (x 1 m))).toNat, {})⟩

/-- A signed or unsigned reading of a bit vector. -/
def valueOf {w : Nat} (signed : Bool) (v : BitVec w) : Int := if signed then v.toInt else v.toNat

/-- Table 10.3, 10.4 and 10.6, and the moves of 10 R247, R248 and R250: what each element-wise instruction gives. -/
def Elementwise.of : Instr → Option Elementwise
  | .vfadd cm d a b p => some (float2Op 0x80 cm d a b p Fmt.add)
  | .vfsub cm d a b p => some (float2Op 0x81 cm d a b p fun f rm fz x y => f.add rm fz x y.negate)
  | .vfmul cm d a b p => some (float2Op 0x82 cm d a b p Fmt.mul)
  | .vfma cm d a b p => some (float3Op 0x83 cm d a b p false false)
  | .vfms cm d a b p => some (float3Op 0x84 cm d a b p false true)
  | .vfnma cm d a b p => some (float3Op 0x85 cm d a b p true false)
  | .vfmin cm d a b p => some (float2Op 0x86 cm d a b p fun f _ fz x y => f.pick fz false x y)
  | .vfmax cm d a b p => some (float2Op 0x87 cm d a b p fun f _ fz x y => f.pick fz true x y)
  | .vfabs cm d a p => some (float1Op 0x88 4 cm d a p fun f _ _ c => (c % f.signBit, {}))
  | .vfneg cm d a p => some (float1Op 0x89 4 cm d a p fun f _ _ c => (Nat.xor c f.signBit, {}))
  | .vfscale cm d a b p => some ⟨0x8A, 4, cm, d, [a, b], p, [a, b], 1, 1, 1, 3, fun c t x m =>
      scaleElem (vecFloat t) c.rmode c.fzOn (x 0 m) (BitVec.ofNat (cbits t) (x 1 m)).toInt⟩
  | .vfrcp cm d a p => some (float1Op 0x8B 5 cm d a p (Elementary.code .rcp))
  | .vfrsq cm d a p => some (float1Op 0x8C 5 cm d a p (Elementary.code .rsq))
  | .vfsqrt cm d a p => some (float1Op 0x8D 5 cm d a p (Elementary.code .sqrt))
  | .vfexp2 cm d a p => some (float1Op 0x8E 5 cm d a p (Elementary.code .exp2))
  | .vflog2 cm d a p => some (float1Op 0x8F 5 cm d a p (Elementary.code .log2))
  | .vftanh cm d a p => some (float1Op 0x90 5 cm d a p (Elementary.code .tanh))
  | .vfsigm cm d a p => some (float1Op 0x91 5 cm d a p (Elementary.code .sigm))
  | .viadd cm d a b p => some (intOp 0x95 cm d a b p fun _ _ x y => x + y)
  | .visub cm d a b p => some (intOp 0x96 cm d a b p fun _ _ x y => x - y)
  | .vimul cm d a b p => some (intOp 0x97 cm d a b p fun _ _ x y => x * y)
  | .vimulh cm d a b p => some (intOp 0x98 cm d a b p fun w sg x y =>
      BitVec.ofInt w (valueOf sg x * valueOf sg y / 2 ^ w))
  | .vimin cm d a b p => some (intOp 0x99 cm d a b p fun _ sg x y => if valueOf sg y < valueOf sg x then y else x)
  | .vimax cm d a b p => some (intOp 0x9A cm d a b p fun _ sg x y => if valueOf sg x < valueOf sg y then y else x)
  | .viand cm d a b p => some (intOp 0x9B cm d a b p fun _ _ x y => x &&& y)
  | .vior cm d a b p => some (intOp 0x9C cm d a b p fun _ _ x y => x ||| y)
  | .vixor cm d a b p => some (intOp 0x9D cm d a b p fun _ _ x y => x ^^^ y)
  | .vishl cm d a b p => some (intOp 0x9E cm d a b p fun w _ x y => x <<< (y.toNat % w))
  | .vishr cm d a b p => some (intOp 0x9F cm d a b p fun w sg x y =>
      if sg then x.sshiftRight (y.toNat % w) else x >>> (y.toNat % w))
  | .viadds cm d a b p => some (intOp 0xA2 cm d a b p fun w sg x y =>
      let v := valueOf sg x + valueOf sg y
      let top : Int := if sg then 2 ^ (w - 1) - 1 else 2 ^ w - 1
      let low : Int := if sg then -2 ^ (w - 1) else 0
      BitVec.ofInt w (if top < v then top else if v < low then low else v))
  | .vmov cm d a p => some ⟨0xA4, 4, cm, d, [a], p, [a], 1, 1, 1, 16, fun _ _ x m => (x 0 m, {})⟩
  | .vbcastLine cm d a index p => some ⟨0xA5, 4, cm, d, [a], p, [a], 1, 1, 1, 16, fun _ t x _ =>
      (x 0 (index.toNat % elems t), {})⟩
  | .vshuf cm d a b p => some ⟨0xA8, 4, cm, d, [a, b], p, [a, b], 1, 1, 1, 16, fun _ t x m =>
      (x 0 (x 1 m % elems t), {})⟩
  | _ => none

/-- Conditions of VFCMP on two values (10 Table 10.5): ordered and equal, and so on; an unordered pair compares as none
of less, equal and greater. -/
def floatHolds (cond : BitVec 3) (x y : FV) : Bool :=
  let un := x.isNan || y.isNan
  match cond.toNat with
  | 0 => !un && decide (FV.cmp x y = 0)
  | 1 => un || decide (FV.cmp x y ≠ 0)
  | 2 => !un && decide (FV.cmp x y < 0)
  | 3 => !un && decide (FV.cmp x y ≤ 0)
  | 4 => !un && decide (0 < FV.cmp x y)
  | 5 => !un && decide (0 ≤ FV.cmp x y)
  | 6 => un
  | _ => !un

/-- Conditions of VICMP on two containers (10 Table 10.5). -/
def intHolds {w : Nat} (cond : BitVec 3) (x y : BitVec w) : Bool :=
  match cond.toNat with
  | 0 => decide (x = y)
  | 1 => decide (x ≠ y)
  | 2 => decide (x.toInt < y.toInt)
  | 3 => decide (y.toInt ≤ x.toInt)
  | 4 => decide (x.toNat < y.toNat)
  | 5 => decide (y.toNat ≤ x.toNat)
  | 6 => decide (x &&& y ≠ 0)
  | _ => decide (x &&& y = 0)

/-! ### Contexts and the part -/

/-- One context has changed, and beside it no more than who executes. -/
abbrev OnlyCtx (s t : State) (core slot : Nat) : Prop :=
  { t with ctxs := s.ctxs, who := s.who } = s ∧
    ∀ c k, c * 4 + k ≠ core * 4 + slot → t.ctx c k = s.ctx c k

/-- A context takes part in no matrix instruction and in no quad. -/
abbrev Ctx.noMatrix (c : Ctx) : Prop := c.matrix.run = none ∧ c.matrix.binding = none

/-- The registers of a context, by sequencer, and where each stands. -/
abbrev SameSeqs (c d : Ctx) : Prop :=
  ∀ z, (d.seq.get z).s = (c.seq.get z).s ∧ (d.seq.get z).k = (c.seq.get z).k ∧ (d.seq.get z).b = (c.seq.get z).b ∧
    (d.seq.get z).loops = (c.seq.get z).loops ∧ (d.seq.get z).pc = (c.seq.get z).pc

/-- A scheduler core gets one more event record to post, of a kind, for a context and with its cause (15 R389). -/
def Told (s t : State) (part kind core slot ticket : Nat) (c : Ctx) (cause : Nat) (addr : Word) : Prop :=
  let n := ((s.part part).w0.extractLsb' 20 2).toNat
  ∃ r : EvRec, (t.fwCore n).evWait = (s.fwCore n).evWait ++ [r] ∧ r.kind = kind ∧ r.guest = c.guest ∧ r.core = core ∧
    r.slot = slot ∧ r.ticket = ticket ∧ r.cause = cause ∧ r.addr = addr ∧ r.pcs = c.pcs

/-! ### What every step keeps -/

/-- Device memory keeps its canonical form, so that equal memories are equal data, and device-wide debug never stands
beside Daybreak's keys, which it zeroises first (23 R444). -/
structure State.Inv (s : State) : Prop where
  memory : s.dram.bytes.wf = true
  keys : s.trust.debug = 2 → s.trust.keys = false

/-! ### Scheduler cores (15 R371) -/

/-- An instruction of a scheduler core went to its end: the next address, its result in its destination (x0 discards),
every other register and every other scheduler core as they were. -/
def FwEnds (s t : State) (rd : BitVec 5) (v : Word) : Prop :=
  t.fw = s.fw ∧ t.fwMe.pc = s.fwMe.pc + 4 ∧ t.fwMe.reg 0 = 0 ∧ (rd ≠ 0 → t.fwMe.reg rd = v) ∧
    (∀ n, n ≠ rd → t.fwMe.reg n = s.fwMe.reg n) ∧ t.fwMe.minstret = s.fwMe.minstret + 1 ∧ t.fwMe.mtvec = s.fwMe.mtvec ∧ t.fwMe.mepc = s.fwMe.mepc ∧
    ∀ k, k ≠ s.fw → t.fwCore k = s.fwCore k

end Sys2Proof.Machine
end

