-- ==== Sys2Proof/Certificates/Slice0/Obligations.lean ====
section
/-! DEFINITION. The statements for the provers. Each docstring names the chapters and rules of spec/ that it rests on. -/
open Sys2Proof Sys2Proof.Machine

/-- 02 R23 to R44, 15 R371: of every instruction, the words that encode it when it is well-formed decode to it, every
operand at every value; a row that is no word has none. -/
def Obligations.DecodeEncode : Prop := ∀ i : Instr, Sys2Proof.Laws.Codec.Statement i

/-- Words of the spec's worked encodings and examples (02, 04 to 08, 10 to 15), one or more of each family. -/
def Obligations.WorkedEncodings : Prop :=
  let n : Common := ⟨0, 0, 0, 0⟩
  decode 0x2080010C41400000 0 = .ok (.add ⟨2, 0, 8, 0⟩ (.s 3) (.s 4) (.s 5)) ∧
  decode 0x2004800A2B000E94 0 = .ok (.vfadd ⟨2, 0, 0, 4⟩ (.tile ⟨5, .row, 2⟩) (.gen 3) (.tile ⟨7, .col, 1⟩) 2) ∧
  decode 0x0000452000000001 0 = .ok (.bopush n .x 1 false) ∧
  decode 0x0000168A40000001 0 = .ok (.addi n (.q .x) (.li 0) 1) ∧
  decode 0x0100402000000001 0 = .ok (.qdisc ⟨0, 1, 0, 0⟩ 2 1) ∧
  decode 0x000060106C000010 0 = .ok (.ld n (.s 4) (.s 6) 3 false 16) ∧
  decode 0x0000641472081C00 0 = .ok (.amo n (.s 5) (.s 7) (.s 8) 2 .add 3) ∧
  decode 0x0000700105000000 0 = .ok (.cpush n (.s 5) false (.s 4)) ∧
  decode 0x0000B00000000000 0x0000000012010000 = .ok (.mshape n 0x12010000) ∧
  decode 0x0000C80187000008 0 = .ok (.garrive n (.s 6) (.s 8) (.s 7)) ∧
  decode 0x0000D0000300000D 0 = .ok (.pwracq n (.s 3) 13 false) ∧
  decode 0x0000E00000000012 0 = .ok (.trap n (.s 0) 0x12) ∧
  decodeFw 0x0002850B = some (.rfetch 10 5) ∧ decodeFw 0x00B53F2B = some (.qbind 30 10 11)

/-- A step takes the first move: the word at the head of an issuing sequencer, decoded, runs as exec has it; so does
the extension word at the pc of a released scheduler core, and an event's row; another word of a scheduler core, and
Vesper's core, run as the RISC-V base has it. The time of the move passes first, and a move that takes none changes
nothing. What a step adds to exec is the mark that its sequencer has acted in the core cycle, unless a pre-emption has
stopped the context in that very cycle. The list of moves is the model's own (log entry 1). -/
def Obligations.StepRunsDecoded : Prop :=
  ∀ (m : Move) (rest : List Move) (s : State),
    s.moves = m :: rest →
    let v := ({ s with moves := rest } : State).pass m
    (m.us = 0 → m.cycles = 0 → v = { s with moves := rest }) ∧
    (∀ core slot y w i, m.act = .issue core slot y →
      let u := v.asWho ⟨core, slot, y⟩
      u.clocksRun = true → u.me.issuesIn y (u.core core).cycle = true → u.sq.code u.sq.pc = .word w →
      ((isLong w = false ∧ decode w 0 = .ok i) ∨
        (isLong w = true ∧ ∃ x, u.sq.code (u.sq.pc + 8) = .word x ∧ decode w x = .ok i)) →
      step s = afterNext (exec i u) u.settled ∧
      ∀ t, u.me.stop = none → ∃ a, u.settled t = t ∨ u.settled t = t.setMe { t.me with acted := a }) ∧
    (∀ core i, m.act = .fw core →
      let u := v.asFw core
      u.fwMe.released = true → u.power.state ≠ .off → u.power.state ≠ .retention → u.fwMe.interrupt = none → u.fwMe.pc.toNat + 2 < 2 ^ 20 →
      let w := BitVec.ofNat 32 (u.fwMe.sram.num u.fwMe.pc.toNat 4)
      (decodeFw w = some i → step s = exec i u) ∧
      (decodeFw w = none → isExtFw w = false → step s = u.rvRun (.sched core) w)) ∧
    (m.act = .vesper → step s = v.vesperMove) ∧
    ∀ i, m.act = .event i → isEvent i = true → step s = exec i v

/-- The values that the spec gives for reset (04 Table 4.2, 06 Table 6.10, 13 Tables 13.6 to 13.8a, 14 Table 14.8, 15
Tables 15.2 and 15.9 to 15.13, 22 Tables 22.2 and 22.4, 23 R434), and the invariant there. Registers to which the spec
gives no reset value are log entry 3. -/
def Obligations.ResetState : Prop :=
  let s := State.reset
  s.Inv ∧
  (∀ core slot, let c := s.ctx core slot
    c.bound = false ∧ c.wdog = 0x01000000 ∧ c.budget = 0 ∧ c.trapVec = 0 ∧ c.trapCause = 0 ∧ c.rngKey = 0 ∧ c.rngCtr = 0 ∧
      c.flags = 0 ∧ c.rm = 0 ∧ c.fz = false ∧ c.power.g = 4 ∧ c.events = 0 ∧
      ∀ y n, (c.seq.get y).reg n = 0 ∧ ((c.seq.get y).breg n).prepared = false ∧ ((c.seq.get y).level n).active = false) ∧
  (∀ n, n < 8 → let c := s.cluster n
    c.fReq = 40 ∧ c.vReq = 40 ∧ c.fNow = 40 ∧ c.status = 0 ∧ c.rail = n / 2 ∧ c.stall = 0 ∧ c.gov = 0) ∧
  s.power.trip = ⟨false, 0, 0, 0⟩ ∧ s.xlat.inv = 0 ∧ (∀ n, (s.core n).ecc = 0 ∧ (s.core n).cycle = 0) ∧
  (∀ g, (s.guest g).w0 = 1#64 <<< 32 ∧ (s.guest g).w1 = 0 ∧ (s.guest g).s1 = 0 ∧ (s.guest g).s2 = 0) ∧
  (∀ p, (s.part p).w0 = 100 ∧ (s.part p).frames = 0) ∧
  (∀ q, (s.queue q).ageing = 10 ∧ (s.queue q).enable = false) ∧ (∀ r, s.ring r = default ∧ (s.ring r).enable = false) ∧
  (∀ f, (s.fn f).int = 0x48) ∧ (∀ n, (s.stream n).enabled = false ∧ (s.stream n).frames = 0) ∧
  (∀ n, (s.fwCore n).released = false) ∧ s.links.hostUp = false ∧ s.peerUp = false ∧ s.trust.debug = 0 ∧
  ∀ n, s.trust.meas.get 0 n = 0

/-- Every step keeps the invariant, from every state that has it. The canonical form is the model's own. -/
def Obligations.StepKeepsInvariant : Prop := ∀ s t : State, s.Inv → step s = .next t → t.Inv

/-- 04 R68, Table 4.7: the 21 rows of two scalar sources. A ready word starts, changes nothing at its issue, and its
retire writes the result to its destination: a register (s0 discards) or a queue; a divide waits while another one of
its sequencer is under way (R63). 04 R69, R71, R72: the immediate forms, BFX, CLZ, CTZ and POPC. -/
def Obligations.ScalarOperands : Prop :=
  (∀ (i : Instr) (opc : Nat) (cm : Common) (d a b : Spec) (f : Word → Word → Word) (s : State),
    twoOperand i = some (opc, cm, d, a, b, f) →
    (6 ≤ opc → opc ≤ 9 → s.sq.inflight.all (fun p => decide (p.opc < 6 ∨ 9 < p.opc)) = true) →
    Ready (scalarReq i opc cm [a, b] (some d)) s →
    Starts (scalarReq i opc cm [a, b] (some d)) s
      (Spec.write s.who.y d (f (operand s [a, b] 0) (operand s [a, b] 1))) .open_ .seq (exec i s)) ∧
  (∀ (i : Instr) (opc : Nat) (cm : Common) (d a : Spec) (f : Word → Word) (s : State),
    oneOperand i = some (opc, cm, d, a, f) →
    Ready (scalarReq i opc cm [a] (some d)) s →
    Starts (scalarReq i opc cm [a] (some d)) s
      (Spec.write s.who.y d (f (operand s [a] 0))) .open_ .seq (exec i s))

/-- 04 R70, R71, R73 to R75: LI, BFI, CMP, CMPI, KOP and SEL. A condition is written at the retire, k0 never; SEL pops
both of its sources. -/
def Obligations.ConditionsAndSelection : Prop :=
  ∀ (cm : Common) (d a b : Spec) (kd ka kb k : BitVec 3) (cond : BitVec 3) (imm : BitVec 24) (table : BitVec 4)
    (neg : Bool) (v : Word) (n : BitVec 5) (pos lenM1 : BitVec 6) (s : State),
    (let r := { scalarReq (.cmp cm kd a b cond) 0x24 cm [a, b] none with writes := condLocs kd }
     Ready r s → Starts r s (condWrite kd (holdsCond cond (operand s [a, b] 0) (operand s [a, b] 1))) .open_ .seq
       (exec (.cmp cm kd a b cond) s)) ∧
    (let r := { scalarReq (.cmpi cm kd a cond imm) 0x25 cm [a] none with writes := condLocs kd }
     Ready r s → Starts r s (condWrite kd (holdsCond cond (operand s [a] 0) (imm.signExtend 64))) .open_ .seq
       (exec (.cmpi cm kd a cond imm) s)) ∧
    (let r := { scalarReq (.kop cm kd ka kb table) 0x26 cm [] none with
                reads := condLocs ka ++ condLocs kb, writes := condLocs kd }
     Ready r s → Starts r s (condWrite kd (table.getLsbD
         ((if s.sq.cond ka.toNat then 2 else 0) + (if s.sq.cond kb.toNat then 1 else 0)))) .open_ .seq
       (exec (.kop cm kd ka kb table) s)) ∧
    (let r := { scalarReq (.sel cm d a b k neg) 0x27 cm [a, b] (some d) with reads := condLocs k }
     Ready r s → Starts r s (Spec.write s.who.y d
         (if xor (s.sq.cond k.toNat) neg then operand s [a, b] 0 else operand s [a, b] 1)) .open_ .seq
       (exec (.sel cm d a b k neg) s)) ∧
    (let r := { scalarReq (.li cm d v) 0x1E cm [] (some d) with long := true }
     Ready r s → Starts r s (Spec.write s.who.y d v) .open_ .seq (exec (.li cm d v) s)) ∧
    (let r := scalarReq (.bfi cm (.s n) a pos lenM1) 0x20 cm [a] (some (.s n))
     let m : Word := (BitVec.allOnes 64 >>> (63 - lenM1.toNat)) <<< pos.toNat
     Ready r s → Starts r s (Spec.write s.who.y (.s n)
         ((s.sq.reg n.toNat &&& ~~~m) ||| ((operand s [a] 0 <<< pos.toNat) &&& m))) .open_ .seq
       (exec (.bfi cm (.s n) a pos lenM1) s))

/-- 04 R77, R78, 05 R99, R100: branches. PBR and PBRR prepare a target at their retire; BR and CALL go to a prepared
target where their condition holds, and CALL links in b7; BOPUSH pushes an outcome and BRQ pops one and branches on
it. 04 R80, R82: LOOP pushes its level, popping those at and above it, or goes past its body on a trip count of zero;
ENDL leaves its level where the condition holds. 04 R81: at the address where an active level ends, its loop goes back
to its start while iterations are left, and is popped after the last one; levels are looked at from the highest number
down. -/
def Obligations.FlowOfControl : Prop :=
  (∀ (cm : Common) (bn k : BitVec 3) (off : BitVec 33) (a : Spec) (neg : Bool) (z : Sq) (s : State),
    (let r := { scalarReq (.pbr cm bn off) 0x28 cm [] none with writes := [.b bn.toNat] }
     Ready r s → Starts r s [.b bn.toNat ⟨s.sq.pc + off.signExtend 57 * 8, true⟩] .open_ .seq
       (exec (.pbr cm bn off) s)) ∧
    (let r := { scalarReq (.pbrr cm bn a) 0x29 cm [a] none with writes := [.b bn.toNat] }
     Ready r s → Starts r s
       [.b bn.toNat ⟨(operand s [a] 0).setWidth 57, decide ((operand s [a] 0).toNat % 8 = 0)⟩] .open_ .seq
       (exec (.pbrr cm bn a) s)) ∧
    (let r := { scalarReq (.br cm bn k neg) 0x2A cm [] none with
                check := s.sq.targetCheck bn, reads := .b bn.toNat :: condLocs k }
     Ready r s → Starts r s [] .open_
       (if xor (s.sq.cond k.toNat) neg then .jump (s.sq.breg bn.toNat).target else .seq)
       (exec (.br cm bn k neg) s)) ∧
    (let r := { scalarReq (.call cm bn k neg) 0x2B cm [] none with
                check := s.sq.targetCheck bn, reads := .b bn.toNat :: condLocs k, writes := [.b 7] }
     Ready r s → Starts r s (if xor (s.sq.cond k.toNat) neg then [.b 7 ⟨s.sq.pc + 8, true⟩] else []) .open_
       (if xor (s.sq.cond k.toNat) neg then .jump (s.sq.breg bn.toNat).target else .seq)
       (exec (.call cm bn k neg) s)) ∧
    (let ch := chanIx s.who.y z
     let r := { scalarReq (.bopush cm z k neg) 0x45 cm [] none with
                self := z == s.who.y, reads := condLocs k, bo := some ch
                wait := if 16 ≤ (s.me.chan .bo ch).occupancy then some ⟨4, z.num⟩ else none }
     Ready r s → Starts r s [.push .bo ch (if xor (s.sq.cond k.toNat) neg then 1 else 0)] .open_ .seq
       (exec (.bopush cm z k neg) s)) ∧
    (let ch := chanIx z s.who.y
     let r := { scalarReq (.brq cm bn z neg) 0x46 cm [] none with
                self := z == s.who.y, check := s.sq.targetCheck bn, reads := [.b bn.toNat], boSrc := some ch
                wait := if (s.me.chan .bo ch).avail.isEmpty then some ⟨4, z.num⟩ else none }
     Ready r s → Starts r s [] .open_
       (if xor (((s.me.chan .bo ch).avail.headD ⟨0, ⟨0, []⟩, 0⟩).v.getLsbD 0) neg
        then .jump (s.sq.breg bn.toNat).target else .seq)
       (exec (.brq cm bn z neg) s))) ∧
  (∀ (cm : Common) (level k : BitVec 3) (count : Spec) (body : BitVec 31) (neg : Bool) (s : State),
    (let e := loopEnd s.sq.pc body
     let r := { scalarReq (.loop cm level count body) 0x2C cm [count] none with check := s.sq.loopCheck level.toNat e }
     let u := r.taken s
     let trip := if count = .s 0 then s.me.tableTrip level.toNat else operand s [count] 0
     Ready r s → Goes r s
       (if trip = 0 then { s := u.setSq (u.sq.popFrom level.toNat), flow := .arrive e }
        else { s := u.setSq ((u.sq.popFrom level.toNat).setLevel level.toNat ⟨true, s.sq.pc + 8, e, trip, 0⟩) })
       (exec (.loop cm level count body) s)) ∧
    (let r := { scalarReq (.endl cm level k neg) 0x2D cm [] none with
                reads := condLocs k
                check := if (s.sq.level level.toNat).active then none else some (Trap.plain .badTarget) }
     let u := r.taken s
     Ready r s → Goes r s
       (if xor (s.sq.cond k.toNat) neg then
          { s := u.setSq (u.sq.popFrom level.toNat), flow := .jump (s.sq.level level.toNat).stop }
        else { s := u })
       (exec (.endl cm level k neg) s))) ∧
  (∀ (q : Seqr) (a : VA),
    ((∀ n, n < 8 → (q.level n).active = true → (q.level n).stop ≠ a) → (q.flow false (.arrive a)).pc = a ∧
      (q.flow false (.arrive a)).loops = q.loops) ∧
    ∀ n, n < 8 → (q.level n).active = true → (q.level n).stop = a →
      (∀ m, n < m → m < 8 → (q.level m).active = true → (q.level m).stop ≠ a) →
      ((q.level n).li.toNat + 1 < (q.level n).trip.toNat →
        (q.flow false (.arrive a)).pc = (q.level n).start ∧
        (q.flow false (.arrive a)).level n = { q.level n with li := (q.level n).li + 1 }) ∧
      ((q.level n).trip.toNat ≤ (q.level n).li.toNat + 1 →
        ((q.flow false (.arrive a)).level n).active = false))

/-- 04 R84 to R87, 05 R111: MFS reads a special register as it stands when the word's operands are taken; MTS writes
one at its retire; NOP does nothing more; END ends its sequencer; WDOG reads the wait of the instruction before it and
sets the limit of the next word. -/
def Obligations.SpecialRegisters : Prop :=
  ∀ (cm : Common) (d a : Spec) (num : BitVec 9) (n : BitVec 24) (v : Word) (s : State),
    (let r := { scalarReq (.mfs cm d num) 0x2E cm [] (some d) with
                reads := srReads num.toNat, hold := decide (num = 0x101) && !s.sq.inflight.isEmpty }
     Ready r s →
     (r.taken s).me.readSr s.who.core s.who.slot (s.core s.who.core).cycle s.who.y num.toNat = some v →
     s.me.readSr s.who.core s.who.slot (s.core s.who.core).cycle s.who.y num.toNat ≠ none →
     Starts r s (Spec.write s.who.y d v) .open_ .seq (exec (.mfs cm d num) s)) ∧
    (let r := { scalarReq (.mts cm num a) 0x2F cm [a] none with
                priv := srHandlerOnly num.toNat && !s.me.handler, writes := [.sr num.toNat] }
     Ready r s → srWritable num.toNat = true →
     Starts r s [.sr num.toNat (operand s [a] 0)] .open_ .seq (exec (.mts cm num a) s)) ∧
    (let r := scalarReq (.nop cm) 0x30 cm [] none
     Ready r s → Starts r s [] .open_ .seq (exec (.nop cm) s)) ∧
    (let r := scalarReq (.endSeq cm) 0x31 cm [] none
     Ready r s → Starts r s [.endSeq] .open_ .seq (exec (.endSeq cm) s) ∧
       ∃ t, exec (.endSeq cm) s = .next t ∧ t.sq.ended = true) ∧
    (let r := scalarReq (.wdog cm d n) 0x4D cm [] (some d)
     let u := r.taken s
     Ready r s → Goes r s
       { s := u.setSq { u.sq with oneShot := if n = 0 then none else some (n.toNat * 1024) }
         eff := Spec.write s.who.y d (BitVec.ofNat 64 s.sq.lastWait) }
       (exec (.wdog cm d n) s))

/-- 02 R26, R37, 07 R145: what the issue of a word does to its channels and what it hands over. Of the word as it is
accepted: it is the youngest in flight, holds the entries it popped, has reserved one slot in each channel that it
will fill, carries its sequencer's time and acquisitions, starts the watchdog anew, ends the power request of its
sequencer, and changes no other context. 02 R26, R37: the operands of a word that waits for one token of the lowest
named source, and of one that reads a queue: the oldest entry leaves the channel, is held, and passes its time on. -/
def Obligations.IssueOfAWord : Prop :=
  (∀ (r : Req) (t : Taken) (d : Done),
    let u := accept r t d
    { u with ctxs := d.s.ctxs } = d.s ∧
    (∀ core slot, core * 4 + slot ≠ d.s.who.core * 4 + d.s.who.slot → u.ctx core slot = d.s.ctx core slot) ∧
    u.me.rest = (d.s.me.endRequest d.s.who.y).rest ∧ u.sq.rest = d.s.sq.rest ∧ u.me.gens = d.s.me.gens ∧
    (∀ z, z ≠ d.s.who.y → u.me.seq.get z = d.s.me.seq.get z) ∧
    (∃ p, u.sq.inflight = d.s.sq.inflight ++ [p] ∧ p.opc = r.opc ∧ p.pc = d.s.sq.pc ∧ p.ts = r.cm.ts ∧
      p.es = r.cm.es ∧ p.pops = t.pops ∧ p.rsvs = r.slots d.s.who.y ∧ p.effects = d.eff ∧ p.gate = d.gate ∧
      p.carry = d.s.sq.carry) ∧
    u.sq.pc = (d.s.sq.flow r.long d.flow).pc ∧ u.sq.loops = (d.s.sq.flow r.long d.flow).loops ∧
    u.sq.ended = (d.s.sq.ended || d.ended) ∧ u.sq.lastWait = d.s.sq.waited ∧ u.sq.waited = 0 ∧ u.sq.waiting = none ∧
    ∀ k ch, (u.me.chan k ch).rsv = (d.s.me.chan k ch).rsv + (r.slots d.s.who.y).count (k, ch) ∧
      (u.me.chan k ch).avail = (d.s.me.chan k ch).avail ∧ (u.me.chan k ch).held = (d.s.me.chan k ch).held) ∧
  (∀ (t : Taken) (y : Sq) (k : ChanKind) (ch : Nat) (e : Entry) (l : List Entry),
    (t.ctx.chan k ch).avail = e :: l →
    (t.pop y k ch).2 = e.v ∧ (t.pop y k ch).1.pops = t.pops ++ [.chan k ch e] ∧
    ((t.pop y k ch).1.ctx.chan k ch).avail = l ∧
    ((t.pop y k ch).1.ctx.chan k ch).held = (t.ctx.chan k ch).held + 1 ∧
    ((t.pop y k ch).1.ctx.chan k ch).rsv = (t.ctx.chan k ch).rsv ∧
    ((t.pop y k ch).1.ctx.seq.get y).pts = max (t.ctx.seq.get y).pts e.carry.pts ∧
    ∀ j n, (j, n) ≠ (k, ch) → (t.pop y k ch).1.ctx.chan j n = t.ctx.chan j n)

/-- 02 R27: the retire of the oldest issued instruction of a sequencer, where it has turned its slots into entries,
dropped what it held, and written one register, condition, target register, event or ring: each effect lands where it
says and nowhere else. Its sequencer has acted in the core cycle. Issue and retire as two moves are log entry 1. -/
def Obligations.InstructionRetire : Prop :=
  ∀ (core slot : Nat) (y : Sq) (p : Pending) (l : List Pending) (s : State),
    let c := s.ctx core slot
    (c.seq.get y).inflight = p :: l → c.bound = true → s.clocksRun = true → p.gate = .open_ →
    c.mayAct y (s.core core).cycle = true → (∀ e ∈ p.effects, ∀ z n, e ≠ .power z n) → p.lowers = false →
    ∃ t, exec (.instructionRetire core slot y) s = .next t ∧
      { t with ctxs := s.ctxs } = s ∧
      (∀ i j, i * 4 + j ≠ core * 4 + slot → t.ctx i j = s.ctx i j) ∧
      t.ctx core slot = (c.retire y p).acts y (s.core core).cycle ∧
      ((t.ctx core slot).seq.get y).inflight = l

/-- 02 R27, 04 R62, 05 R93, R96: what a retire leaves, by the effect its instruction had: a register (and s0
discards), a condition, a target register, a queue entry with what the instruction carries, an event. Everything else
of the sequencer's registers stays; its program time takes the time of the instruction (07 R148, R149). 02 R27, R41,
04 R65, R85, 06 R127, R138, 07 R176, 11 R262, 13 R327, 14 R352, R353: what the retire of the other effects leaves. -/
def Obligations.RetiredEffects : Prop :=
  (∀ (c : Ctx) (y : Sq) (p : Pending),
    p.pops = [] → p.rsvs = [] → p.es = 0 →
    (∀ n v, n ≠ 0 → p.effects = [.s n v] →
      ((c.retire y p).seq.get y).reg n = v ∧ (c.retire y p).rest = c.rest ∧
      ((c.retire y p).seq.get y).retired = (c.seq.get y).retired + 1 ∧
      ((c.retire y p).seq.get y).retPts = max (c.seq.get y).retPts p.carry.pts ∧
      (∀ m, m ≠ n → ((c.retire y p).seq.get y).reg m = (c.seq.get y).reg m) ∧
      ((c.retire y p).seq.get y).k = (c.seq.get y).k ∧ ((c.retire y p).seq.get y).b = (c.seq.get y).b) ∧
    (∀ v, p.effects = Spec.write y (.s 0) v → ∀ m, ((c.retire y p).seq.get y).reg m = (c.seq.get y).reg m) ∧
    (∀ n v, 1 ≤ n → n < 8 → p.effects = [.k n v] →
      ((c.retire y p).seq.get y).cond n = v ∧ (c.retire y p).rest = c.rest ∧
      (∀ m, m < 8 → m ≠ n → ((c.retire y p).seq.get y).cond m = (c.seq.get y).cond m) ∧
      ((c.retire y p).seq.get y).s = (c.seq.get y).s ∧ ((c.retire y p).seq.get y).b = (c.seq.get y).b) ∧
    (∀ n v, p.effects = [.b n v] →
      ((c.retire y p).seq.get y).breg n = v ∧ (c.retire y p).rest = c.rest ∧
      (∀ m, m ≠ n → ((c.retire y p).seq.get y).breg m = (c.seq.get y).breg m) ∧
      ((c.retire y p).seq.get y).s = (c.seq.get y).s ∧ ((c.retire y p).seq.get y).k = (c.seq.get y).k) ∧
    (∀ k ch v, p.opc ≠ 0x67 → p.effects = [.push k ch v] →
      (∃ n, ((c.retire y p).chan k ch).avail =
        (c.chan k ch).avail ++ [⟨v, ⟨max (c.seq.get y).retPts p.carry.pts, p.carry.know⟩, n⟩]) ∧
      ((c.retire y p).chan k ch).rsv = (c.chan k ch).rsv - 1 ∧ (c.retire y p).rest = c.rest ∧
      ∀ j n, (j, n) ≠ (k, ch) → (c.retire y p).chan j n = c.chan j n) ∧
    (∀ m : BitVec 16, p.effects = [.event m true] → (c.retire y p).events = c.events ||| m) ∧
    (∀ m : BitVec 16, p.effects = [.event m false] → (c.retire y p).events = c.events &&& ~~~m)) ∧
  (∀ (c : Ctx) (y : Sq) (p : Pending),
    p.pops = [] → p.rsvs = [] → p.es = 0 →
    let u := c.retire y p
    (∀ z j v m, p.effects = [.line z j v m] → u.tile z.tile.toNat = (c.tile z.tile.toNat).writeLine z.dir j v m ∧
      (∀ n, n ≠ z.tile.toNat → u.tile n = c.tile n) ∧ u.spad = c.spad) ∧
    (∀ n f, p.effects = [.tag n f] → (u.tile n).tag = f ∧ (u.tile n).rows = (c.tile n).rows ∧
      ∀ m, m ≠ n → u.tile m = c.tile m) ∧
    (∀ n f (z : BitVec 5), p.effects = [.oldTag (.s z) n, .tag n f] → (u.tile n).tag = f ∧
      (z ≠ 0 → (u.seq.get y).reg z.toNat = BitVec.ofNat 64 (c.tile n).tag)) ∧
    (∀ n k, p.effects = [.zzero n k] → (∀ m, n ≤ m → m < n + k → (u.tile m).tag = 0 ∧ (u.tile m).written = 0) ∧
      ∀ m, (m < n ∨ n + k ≤ m) → u.tile m = c.tile m) ∧
    (∀ n v, p.effects = [.p n v] → (1 ≤ n → u.pred n = v) ∧ u.pred 0 = BitVec.allOnes 256 ∧
      ∀ m, m ≠ n → u.pred m = c.pred m) ∧
    (∀ v, p.effects = [.flags v] → u.flags = c.flags ||| v ∧ u.rest = { c with flags := u.flags }.rest) ∧
    (∀ v, p.effects = [.sr 0x10 v] → u.trapVec = v &&& ~~~7#64) ∧
    (∀ v, p.effects = [.sr 1 v] → u.discarded = (c.discarded && !v.getLsbD 0)) ∧
    (∀ v, p.effects = [.sr 8 v] → u.wdog = if v.toNat % 2 ^ 32 < 0x400 then 0x400 else v.setWidth 32) ∧
    (∀ v d, p.effects = [.budget v (.s d)] → u.budget = v ∧
      (d ≠ 0 → (u.seq.get y).reg d.toNat = BitVec.ofNat 64 c.budget)) ∧
    (p.effects = [.endSeq] → (u.seq.get y).done = true ∧ (∀ n, (u.seq.get y).level n = Loop.none) ∧
      (u.seq.get y).s = (c.seq.get y).s) ∧
    (∀ a bs, p.effects = [.spad a bs] → u.spad.bytes.read a bs.length = bs ∧
      ∀ x, (x < a ∨ a + bs.length ≤ x) → u.spad.bytes.byte x = c.spad.bytes.byte x) ∧
    (∀ n m, p.effects = [.scope n m] → (u.scopes.get Scope.empty n).m = m ∧
      (u.scopes.get Scope.empty n).stale = false ∧ ∀ j, j ≠ n → u.scopes.get Scope.empty j = c.scopes.get Scope.empty j) ∧
    (∀ w, p.effects = [.shape w] → u.matrix.shape = some w ∧ u.matrix.resume = none) ∧
    (∀ z l, p.effects = [.power z l] → u.power.g = l ∧ u.power.a = l ∧ u.power.own = c.power.own) ∧
    ∀ t n, p.effects = [.discard 0 t n] → (∀ m, t ≤ m → m < t + n → (u.tile m).mark = true) ∧
      ∀ m, (m < t ∨ t + n ≤ m) → u.tile m = c.tile m)

/-- 05 R94 to R98: QDISC discards what stands in the named channels at its retire, which waits for the slots reserved
at its issue, and no entry of a slot reserved later; QSTAT reads the counts of a channel (Table 5.3) as they stand
before its issue; EVSET and EVCLR act on the events of both masks, never on event 0; EVWAITM waits for all or for one
of its events and reads all fifteen. -/
def Obligations.QueuesAndEvents : Prop :=
  ∀ (cm : Common) (d a : Spec) (srcs : BitVec 4) (kinds : BitVec 3) (ch : BitVec 4) (mask : BitVec 15) (any : Bool)
    (s : State),
    (let r := { scalarReq (.qdisc cm srcs kinds) 0x40 cm [] none with self := srcs.getLsbD s.who.y.num }
     let chs := discChans s.who.y srcs kinds
     Ready r s → Goes r s
       { s := r.taken s
         eff := chs.map fun e =>
           .discardChan e.1 e.2 (((r.taken s).me.chan e.1 e.2).done + ((r.taken s).me.chan e.1 e.2).rsv)
         gate := .marks (chs.map fun e =>
           (e.1, e.2, ((r.taken s).me.chan e.1 e.2).done + ((r.taken s).me.chan e.1 e.2).rsv)) }
       (exec (.qdisc cm srcs kinds) s)) ∧
    (let r := scalarReq (.qstat cm d ch) 0x41 cm [] (some d)
     let n := ch.toNat
     Ready r s → Starts r s (Spec.write s.who.y d (BitVec.ofNat 64
         ((s.me.chan .data n).avail.length + (s.me.chan .data n).rsv * 2 ^ 4 + (s.me.chan .data n).held * 2 ^ 8 +
          (s.me.chan .tok n).avail.length * 2 ^ 12 + (s.me.chan .tok n).rsv * 2 ^ 17 + (s.me.chan .tok n).held * 2 ^ 22 +
          (s.me.chan .bo n).avail.length * 2 ^ 27 + (s.me.chan .bo n).rsv * 2 ^ 32 + (s.me.chan .bo n).held * 2 ^ 37)))
       .open_ .seq (exec (.qstat cm d ch) s)) ∧
    (let r := scalarReq (.evset cm a mask) 0x42 cm [a] none
     Ready r s → Starts r s [.event ((mask.setWidth 16 <<< 1) ||| ((operand s [a] 0).setWidth 16 &&& 0xFFFE)) true]
       .open_ .seq (exec (.evset cm a mask) s)) ∧
    (let r := scalarReq (.evclr cm a mask) 0x43 cm [a] none
     Ready r s → Starts r s [.event ((mask.setWidth 16 <<< 1) ||| ((operand s [a] 0).setWidth 16 &&& 0xFFFE)) false]
       .open_ .seq (exec (.evclr cm a mask) s)) ∧
    (let r := { scalarReq (.evwaitm cm d mask any) 0x44 cm [] (some d) with wait := evWait s.me mask any }
     Ready r s → (∃ t, exec (.evwaitm cm d mask any) s = .next t ∧
         InFlight r s t (Spec.write s.who.y d ((s.me.events &&& 0xFFFE).setWidth 64)) .open_ ∧ OnlyIssue s t) ∧
       (if any then ∃ n, 1 ≤ n ∧ n < 16 ∧ mask.getLsbD (n - 1) = true ∧ s.me.event n = true
        else ∀ n, 1 ≤ n → n < 16 → mask.getLsbD (n - 1) = true → s.me.event n = true))

/-- 05 R102 to R105: RINIT sets a ring at its retire, RACQ and RGET claim a slot at their issue and give its address,
RPUT and RREL post and release at their retire, where a slot is left that no earlier one in flight takes, RSTAT reads
Table 5.6. 05 R102 to R104: of a ring set up by RINIT, a post turns the oldest claimed fill slot into a filled one and
a release frees the oldest consume claim, and no count is lost: claimed, filled and consumed slots and the free ones
add up to the ring's count. -/
def Obligations.Rings : Prop :=
  (∀ (cm : Common) (d a : Spec) (rg : BitVec 4) (s : State),
    let n := rg.toNat
    (let r := { scalarReq (.rinit cm rg a) 0x47 cm [a] none with writes := [ringLoc rg] }
     let v := operand s [a] 0
     let base := (v.extractLsb' 0 22).toNat
     let size := (v.extractLsb' 32 9).toNat
     let count := (v.extractLsb' 48 7).toNat
     Ready r s → n < s.me.ringsN → ringSpecOk v = true → (s.me.ring n).nfill = 0 → (s.me.ring n).ncons = 0 →
       s.me.allocatedRange base (count * size * 256) = true →
       Starts r s [.ringInit n base size count] .open_ .seq (exec (.rinit cm rg a) s)) ∧
    (let r := { scalarReq (.racq cm d rg) 0x48 cm [] (some d) with
                reads := [ringLoc rg], wait := ringWait s.me n Ring.free }
     let u := r.taken s
     let x := s.me.ring n
     Ready r s → n < s.me.ringsN → x.valid = true →
       1 ≤ x.count - x.nfill - x.filled - x.ncons ∧
       Goes r s
         { s := u.setMe (u.me.setRing n
             { x with tail := (x.tail + 1) % x.count, nfill := x.nfill + 1, fillClaims := x.fillClaims + 1 })
           eff := Spec.write s.who.y d (BitVec.ofNat 64 (x.base + x.tail * x.size * 256)) }
         (exec (.racq cm d rg) s)) ∧
    (let r := { scalarReq (.rput cm rg) 0x49 cm [] none with writes := [ringLoc rg] }
     Ready r s → n < s.me.ringsN → (s.me.ring n).valid = true → s.me.ringActs n true < (s.me.ring n).nfill →
       Starts r s [.ringPut n] .open_ .seq (exec (.rput cm rg) s)) ∧
    (let r := { scalarReq (.rget cm d rg) 0x4A cm [] (some d) with
                reads := [ringLoc rg], wait := ringWait s.me n Ring.filled }
     let u := r.taken s
     let x := s.me.ring n
     let w := u.setMe (u.me.setRing n
       { x with ncons := x.ncons + 1, filled := x.filled - 1, posted := x.posted.tail, consClaims := x.consClaims + 1 })
     Ready r s → n < s.me.ringsN → x.valid = true →
       1 ≤ x.filled ∧
       Goes r s
         { s := w.setSq (w.sq.receive (x.posted.headD ⟨0, []⟩))
           eff := Spec.write s.who.y d (BitVec.ofNat 64 (x.base + ((x.head + x.ncons) % x.count) * x.size * 256)) }
         (exec (.rget cm d rg) s)) ∧
    (let r := { scalarReq (.rrel cm rg) 0x4B cm [] none with writes := [ringLoc rg] }
     Ready r s → n < s.me.ringsN → (s.me.ring n).valid = true → s.me.ringActs n false < (s.me.ring n).ncons →
       Starts r s [.ringRel n] .open_ .seq (exec (.rrel cm rg) s)) ∧
    (let r := { scalarReq (.rstat cm d rg) 0x4C cm [] (some d) with reads := [ringLoc rg] }
     Ready r s → n < s.me.ringsN →
       Starts r s (Spec.write s.who.y d (rstatWord (s.me.ring n))) .open_ .seq (exec (.rstat cm d rg) s))) ∧
  (∀ (x : Ring) (k : Carry), x.nfill + x.filled + x.ncons ≤ x.count →
    (1 ≤ x.free → x.claimFill.nfill + x.claimFill.filled + x.claimFill.ncons ≤ x.claimFill.count ∧
      x.claimFill.free + 1 = x.free) ∧
    (1 ≤ x.nfill → (x.post k).nfill + 1 = x.nfill ∧ (x.post k).filled = x.filled + 1 ∧ (x.post k).free = x.free ∧
      (x.post k).posted = x.posted ++ [k]) ∧
    (1 ≤ x.filled → x.claimCons.ncons = x.ncons + 1 ∧ x.claimCons.filled + 1 = x.filled ∧ x.claimCons.free = x.free) ∧
    (1 ≤ x.ncons → x.release.ncons + 1 = x.ncons ∧ x.release.head = (x.head + 1) % x.count ∧
      x.release.free = x.free + 1))

/-- 06 R130, R131: LDS and STS, and the address forms of VLD and VST, at an allocated and aligned address without an
uncorrectable word. A load writes its destination at its retire with what the scratchpad gives; a store acts at its
issue; a generator form of VLD takes the line it popped, one of VST pushes its line at its retire. 07 R160: every
later reader of the context sees what a store to the scratchpad wrote, whatever engine writes stood there unacquired.
That an access acts at its issue is log entry 6. -/
def Obligations.ScratchpadAccesses : Prop :=
  (∀ (cm : Common) (d a : Spec) (z : TileLine) (g : BitVec 3) (tag : BitVec 5) (size : BitVec 2) (sx : Bool)
    (off : BitVec 22) (loff : BitVec 7) (s : State),
    let n := 2 ^ size.toNat
    (let r := { scalarReq (.lds cm d a size sx off) 0x50 cm [a] (some d) with
                cls := 1, check := s.me.constCheck a off.toInt n n, spad := true }
     let u := r.taken s
     let ea := effAddr (operand s [a] 0) off.toInt
     let bs := (s.me.spad.load u.sq.know s.free ea.toNat n)
     Ready r s → s.me.spadCheck ea n n = none → s.me.spad.badAddr ea.toNat n = none →
       ∃ t, exec (.lds cm d a size sx off) s = .next t ∧
         InFlight r s t (Spec.write s.who.y d
           (if sx then sext64 (8 * n) (leNat bs) else BitVec.ofNat 64 (leNat bs))) .open_ ∧
         t.me.rest = (s.me.endRequest s.who.y).rest ∧ t.sq.rest = s.sq.rest ∧ t.dram = s.dram) ∧
    (let r := { scalarReq (.sts cm d a size off) 0x51 cm [a, d] none with
                cls := 1, check := s.me.constCheck a off.toInt n n, spad := true }
     let ea := effAddr (operand s [a, d] 0) off.toInt
     Ready r s → s.me.spadCheck ea n n = none → s.me.spad.badMerge ea.toNat n = none →
       ∃ t, exec (.sts cm d a size off) s = .next t ∧ InFlight r s t [] .open_ ∧ t.sq.rest = s.sq.rest ∧
         t.me.rest =
           ({ s.me with spad := s.me.spad.store ea.toNat (leBytes n (operand s [a, d] 1).toNat) }.endRequest s.who.y).rest ∧
         (∀ x, (x < ea.toNat ∨ ea.toNat + n ≤ x) → t.me.spad.bytes.byte x = s.me.spad.bytes.byte x) ∧
         t.me.spad.bytes.num ea.toNat n = (operand s [a, d] 1).toNat % 256 ^ n ∧ t.dram = s.dram) ∧
    (let r := { scalarReq (.vldAddress cm z a tag loff) 0x52 cm [a] none with
                cls := 2, tiles := [z.tile.toNat], reads := idxLoc z, writes := [.tile z.tile.toNat]
                check := s.me.constCheck a (loff.toInt * 256) 256 16, spad := true }
     let u := r.taken s
     let ea := effAddr (operand s [a] 0) (loff.toInt * 256)
     Ready r s → s.me.spadCheck ea 256 16 = none → s.me.spad.badAddr ea.toNat 256 = none →
       keepUntyped s.me z tag = false →
       ∃ t, exec (.vldAddress cm z a tag loff) s = .next t ∧
         InFlight r s t (vldEffects z (TileLine.index z s.sq)
           (lineOfBytes (s.me.spad.load u.sq.know s.free ea.toNat 256)) tag) .open_ ∧
         t.me.rest = (s.me.endRequest s.who.y).rest ∧ t.sq.rest = s.sq.rest ∧ t.dram = s.dram) ∧
    (let r := { scalarReq (.vldGenerator cm z g tag) 0x52 cm [] none with
                cls := 2, tiles := [z.tile.toNat], gens := [⟨g.toNat, false, 1, false⟩], gsrc := [g.toNat]
                reads := idxLoc z, writes := [.tile z.tile.toNat] }
     Ready r s → keepUntyped s.me z tag = false →
       Starts r s (vldEffects z (TileLine.index z s.sq) ((s.me.gen g.toNat).buf.headD ⟨0, ⟨0, []⟩⟩).bits tag) .open_ .seq
         (exec (.vldGenerator cm z g tag) s)) ∧
    (let r := { scalarReq (.vstAddress cm d z loff) 0x53 cm [d] none with
                cls := 2, tiles := [z.tile.toNat], reads := .tile z.tile.toNat :: idxLoc z
                check := s.me.constCheck d (loff.toInt * 256) 256 16, spad := true }
     let ea := effAddr (operand s [d] 0) (loff.toInt * 256)
     let l := (s.me.tile z.tile.toNat).readLine z.dir (TileLine.index z s.sq)
     Ready r s → s.me.spadCheck ea 256 16 = none → s.me.spad.badMerge ea.toNat 256 = none →
       (s.me.tile z.tile.toNat).badCell z.dir (TileLine.index z s.sq) = none →
       ∃ t, exec (.vstAddress cm d z loff) s = .next t ∧ InFlight r s t [] .open_ ∧ t.sq.rest = s.sq.rest ∧
         t.me.rest = ({ s.me with spad := s.me.spad.store ea.toNat (leBytes 256 l.toNat) }.endRequest s.who.y).rest ∧
         (∀ x, (x < ea.toNat ∨ ea.toNat + 256 ≤ x) → t.me.spad.bytes.byte x = s.me.spad.bytes.byte x) ∧
         t.dram = s.dram) ∧
    (let r := { scalarReq (.vstGenerator cm g z) 0x53 cm [] none with
                cls := 2, tiles := [z.tile.toNat], gens := [⟨g.toNat, true, 1, false⟩]
                reads := .tile z.tile.toNat :: idxLoc z }
     Ready r s → (s.me.tile z.tile.toNat).badCell z.dir (TileLine.index z s.sq) = none →
       s.me.pushEcc g.toNat 1 = none → Starts r s [.genLine g.toNat ((s.me.tile z.tile.toNat).readLine z.dir (TileLine.index z s.sq))] .open_ .seq
         (exec (.vstGenerator cm g z) s))) ∧
  (∀ (m : Spad) (know : Know) (free a : Nat) (bs : List Byte),
    (m.store a bs).load know free a bs.length = bs)

/-- 06 R132 to R139: GSET reads and checks its record and sets the generator at its retire; GPOS sets its position and
empties its buffer; GENSTAT reads Table 6.6; ZZERO sets a run of tiles UNTYPED; ZINFO reads Table 6.7. 02 R39, 06
R119, R127: a tile line written whole and read back in the same direction gives what was written, the rows it reaches
are marked written, and every cell off the line stays; a tag of 0 reads as zeros. -/
def Obligations.GeneratorsAndTiles : Prop :=
  (∀ (cm : Common) (d a : Spec) (g : BitVec 4) (tile countM1 : BitVec 6) (s : State),
    let n := g.toNat
    (let r := { scalarReq (.gset cm g a) 0x54 cm [a] none with
                cls := 1, gens := [⟨n, false, 0, true⟩], hold := s.me.genBusy n
                check := if a = .s 0 ∧ s.me.allocatedRange 0 64 = false then some (Trap.plain .spadRange) else none
                spad := true }
     let u := r.taken s
     let ra := (operand s [a] 0).toNat
     Ready r s → s.me.allocatedRange ra 64 = true → ra % 64 = 0 → s.me.spad.badAddr ra 64 = none →
       ∀ k, genRecord (s.me.spad.load u.sq.know s.free ra 64) = some k → s.me.walkAllocated k = true →
       ∃ t, exec (.gset cm g a) s = .next t ∧ InFlight r s t [.genSet n k] .open_ ∧
         t.me.rest = (s.me.endRequest s.who.y).rest ∧ t.sq.rest = s.sq.rest) ∧
    (let r := { scalarReq (.gpos cm g a) 0x55 cm [a] none with
                gens := [⟨n, false, 0, true⟩], hold := s.me.genBusy n
                check := if (s.me.gen n).cfg.isNone && !s.sq.genPending n then some (Trap.plain .genFault) else none }
     let x := (operand s [a] 0).toNat
     ∀ k, (s.me.gen n).cfg = some k → Ready r s → x < k.lines →
       Starts r s [.genPos n x] .open_ .seq (exec (.gpos cm g a) s)) ∧
    (let r := { scalarReq (.genstat cm d g) 0x56 cm [] (some d) with gens := [⟨n, false, 0, true⟩] }
     Ready r s → Starts r s (Spec.write s.who.y d (genstatWord (s.me.gen n))) .open_ .seq (exec (.genstat cm d g) s)) ∧
    (let ts := (List.range (countM1.toNat + 1)).map (tile.toNat + ·)
     let r := { scalarReq (.zzero cm tile countM1) 0x57 cm [] none with cls := 2, tiles := ts, writes := ts.map .tile }
     Ready r s → Starts r s [.zzero tile.toNat (countM1.toNat + 1)] .open_ .seq (exec (.zzero cm tile countM1) s)) ∧
    (let r := { scalarReq (.zinfo cm d tile) 0x58 cm [] (some d) with
                tiles := [tile.toNat], reads := [.tile tile.toNat] }
     let z := s.me.tile tile.toNat
     Ready r s → Starts r s (Spec.write s.who.y d (BitVec.ofNat 64
         (z.tag + (if 32 ≤ tile.toNat then 32 else 0) + countBits z.written.toNat 64 * 256 +
           (if z.dirty then 65536 else 0)))) .open_ .seq (exec (.zinfo cm d tile) s))) ∧
  (∀ (t : Tile) (d : Dir) (j : Nat) (v : LineBits), j < 64 →
    (t.writeLine d j v (BitVec.allOnes 2048)).rawLine d j = v ∧
    (t.tag ≠ 0 → (t.writeLine d j v (BitVec.allOnes 2048)).readLine d j = v) ∧
    (t.tag = 0 → t.readLine d j = 0) ∧
    (∀ r c, r < 64 → c < 64 → (∀ i, i < 64 → Dir.cell d j i ≠ (r, c)) →
      (t.writeLine d j v (BitVec.allOnes 2048)).cell r c = t.cell r c) ∧
    (∀ i, i < 64 → (t.writeLine d j v (BitVec.allOnes 2048)).written.getLsbD (Dir.cell d j i).1 = true) ∧
    (t.writeLine d j v (BitVec.allOnes 2048)).tag = t.tag)

/-- 07 R148, R149, R160, R169: LD of a value that its translation reaches. Of device memory it takes the core's leased
copy while that covers the program time, and the home's bytes otherwise; it writes its destination, extended as it
says, and no byte of any memory. 07 R148, R169: ST writes the bytes of its source at the address its translation
gives, one program time after every lease of the line, and no other byte; it waits while the page's lock holds writes,
where its walk alone has happened. 07 R159, R160, R170: LDA reads at the home and acquires at its scope; STL, after
every earlier store, writes and releases at its scope. That an access acts at its issue is log entry 6; when a lease
cache serves is log entry 8. -/
def Obligations.LoadsAndStores : Prop :=
  (∀ (cm : Common) (d a : Spec) (size : BitVec 2) (sx : Bool) (off : BitVec 22) (s v : State) (pa kind : Nat),
    let n := 2 ^ size.toNat
    let r := { scalarReq (.ld cm d a size sx off) 0x60 cm [a] (some d) with cls := 1 }
    let u := r.taken s
    Ready r s → u.reaches true .read (effAddr (operand s [a] 0) off.toInt) n v pa kind →
    (kind = 0 → v.dram.badIn pa n = false) →
    let l := if kind = 0 then v.plainLoad pa n else v.outerLoad kind pa n
    ∃ t, exec (.ld cm d a size sx off) s = .next t ∧
      InFlight r s t (Spec.write s.who.y d (if sx then sext64 (8 * n) l.v else BitVec.ofNat 64 l.v)) .open_ ∧
      (kind = 0 → (v.core s.who.core).lease.find (pa / 128) = none → l.v = s.dram.bytes.num pa n) ∧
      t.me.rest = (s.me.endRequest s.who.y).rest ∧ t.sq.s = s.sq.s ∧ t.sq.k = s.sq.k ∧ t.sq.b = s.sq.b ∧
      t.dram.bytes = s.dram.bytes ∧ t.host = s.host ∧ t.peer = s.peer ∧ t.staging = s.staging) ∧
  (∀ (cm : Common) (d a : Spec) (size : BitVec 2) (off : BitVec 22) (s v : State) (pa : Nat),
    let n := 2 ^ size.toNat
    let r := { scalarReq (.st cm d a size off) 0x61 cm [a, d] none with cls := 1, store := true }
    let u := r.taken s
    let x := (operand s [a, d] 1).toNat
    Ready r s → u.reaches false .write (effAddr (operand s [a, d] 0) off.toInt) n v pa 0 →
    (n < 8 → v.dram.badIn pa n = false) →
    (v.locked pa = true → ∃ t, exec (.st cm d a size off) s = .next t ∧ t.dram = v.dram ∧ t.dram.bytes = s.dram.bytes ∧
      t.sq.pc = s.sq.pc ∧ t.sq.inflight = s.sq.inflight) ∧
    (v.locked pa = false → ∃ t, exec (.st cm d a size off) s = .next t ∧ InFlight r s t [] .open_ ∧
      t.dram.bytes.num pa n = x % 256 ^ n ∧
      (∀ y, (y < pa ∨ pa + n ≤ y) → t.dram.bytes.byte y = s.dram.bytes.byte y) ∧
      (t.dram.line pa).wts = max v.sq.pts (((v.home v.me.part pa).line pa).rts + 1) ∧ t.sq.pts = (t.dram.line pa).wts ∧
      t.me.rest = (s.me.endRequest s.who.y).rest ∧ t.sq.s = s.sq.s ∧ t.sq.k = s.sq.k ∧ t.sq.b = s.sq.b ∧
      t.host = s.host ∧ t.peer = s.peer ∧ t.staging = s.staging)) ∧
  (∀ (cm : Common) (d a b : Spec) (scope : BitVec 4) (width : BitVec 2) (s v : State) (pa : Nat),
    let n := 2 ^ width.toNat
    (let r := { scalarReq (.lda cm d a scope width) 0x62 cm [a] (some d) with cls := 1 }
     let u := r.taken s
     Ready r s → s.me.stale scope.toNat = false →
     u.reaches true .read (effAddr (operand s [a] 0) 0) n v pa 0 → v.dram.badIn pa n = false →
     ∃ t, exec (.lda cm d a scope width) s = .next t ∧
       InFlight r s t (Spec.write s.who.y d (BitVec.ofNat 64 (s.dram.bytes.num pa n))) .open_ ∧
       t.sq.pts = max v.sq.pts ((v.home v.me.part pa).line pa).wts ∧
       (∀ e ∈ v.dram.relOf pa n, (e.m.inter (v.myScope scope)).none_ = false →
         { e with m := e.m.inter (v.myScope scope), direct := false } ∈ t.sq.know) ∧
       t.me.rest = (s.me.endRequest s.who.y).rest ∧ t.sq.s = s.sq.s ∧ t.dram.bytes = s.dram.bytes) ∧
    (let r := { scalarReq (.stl cm a b scope width) 0x63 cm [a, b] none with
                cls := 1, store := true, hold := s.storesOut }
     let u := r.taken s
     let x := (operand s [a, b] 1).toNat
     Ready r s → s.me.stale scope.toNat = false →
     u.reaches false .write (effAddr (operand s [a, b] 0) 0) n v pa 0 → v.locked pa = false →
     (n < 8 → v.dram.badIn pa n = false) →
     s.storesOut = false ∧
     ∃ t, exec (.stl cm a b scope width) s = .next t ∧ InFlight r s t [] .open_ ∧
       t.dram.bytes.num pa n = x % 256 ^ n ∧
       (∀ y, (y < pa ∨ pa + n ≤ y) → t.dram.bytes.byte y = s.dram.bytes.byte y) ∧
       ((v.myScope scope).none_ = false → ∀ e ∈ v.sq.know, e.part = none → ∀ i, i < n →
         { e with m := v.myScope scope, direct := false } ∈ t.dram.rel.get [] (pa + i)) ∧
       t.me.rest = (s.me.endRequest s.who.y).rest ∧ t.sq.s = s.sq.s))

/-- 07 R171 to R173, Table 7.6: AMO, CAS and RED at device memory. The old value comes back (RED: none), the new one
is stored in one access, and no other byte changes; a CAS that does not match stores nothing. That an access acts at
its issue is log entry 6. -/
def Obligations.Atomics : Prop :=
  ∀ (cm : Common) (d a b : Spec) (c : BitVec 5) (scope : BitVec 4) (op : AmoOp) (width : BitVec 2) (s v : State)
    (pa : Nat),
    let n := 2 ^ width.toNat
    let y := (operand s [a, b] 1).toNat % 2 ^ (8 * n)
    let old := s.dram.bytes.num pa n
    let acc (r : Req) : Prop := Ready r s ∧ s.me.stale scope.toNat = false ∧
      (r.taken s).reaches false .atomic (effAddr (operand s [a, b] 0) 0) n v pa 0 ∧
      v.dram.badIn pa n = false ∧ v.locked pa = false
    (let r := { scalarReq (.amo cm d a b scope op width) 0x64 cm [a, b] (some d) with cls := 1, reads := [.sr 2] }
     acc r → ∃ t, exec (.amo cm d a b scope op width) s = .next t ∧
       InFlight r s t (Spec.write s.who.y d (BitVec.ofNat 64 old)) .open_ ∧
       t.dram.bytes.num pa n = amoNew op s.me.fzOn (8 * n) old y % 256 ^ n ∧
       (∀ x, (x < pa ∨ pa + n ≤ x) → t.dram.bytes.byte x = s.dram.bytes.byte x) ∧
       t.me.rest = (s.me.endRequest s.who.y).rest ∧ t.sq.s = s.sq.s) ∧
    (let r := { scalarReq (.cas cm c a b scope width) 0x65 cm [a, b] (some (.s c)) with cls := 1 }
     let e := (s.sq.reg c.toNat).toNat % 2 ^ (8 * n)
     acc r → ∃ t, exec (.cas cm c a b scope width) s = .next t ∧
       InFlight r s t (Spec.write s.who.y (.s c) (BitVec.ofNat 64 old)) .open_ ∧
       t.dram.bytes.num pa n = (if old = e then y else old) ∧
       (∀ x, (x < pa ∨ pa + n ≤ x) → t.dram.bytes.byte x = s.dram.bytes.byte x) ∧
       t.me.rest = (s.me.endRequest s.who.y).rest ∧ t.sq.s = s.sq.s) ∧
    (let r := { scalarReq (.red cm a b scope op width) 0x66 cm [a, b] none with
                cls := 1, store := true, reads := [.sr 2] }
     acc r → ∃ t, exec (.red cm a b scope op width) s = .next t ∧ InFlight r s t [] .open_ ∧
       t.dram.bytes.num pa n = amoNew op s.me.fzOn (8 * n) old y % 256 ^ n ∧
       (∀ x, (x < pa ∨ pa + n ≤ x) → t.dram.bytes.byte x = s.dram.bytes.byte x) ∧
       t.me.rest = (s.me.endRequest s.who.y).rest ∧ t.sq.s = s.sq.s)

/-- 07 R175 to R177: the retire of FENCE waits for the engine commands open at its issue where its kinds name E. There
E acquires those and every command completed at its issue, A acquires what earlier loads read from, and I empties the
code ring; SCSET checks its members and writes its entry at its retire; SCGET reads an entry. -/
def Obligations.FencesAndScopes : Prop :=
  ∀ (cm : Common) (d a b : Spec) (scope n : BitVec 4) (kinds : BitVec 3) (slices : Bool) (s : State),
    (let r := { scalarReq (.fence cm scope kinds) 0x67 cm [] none with
                writes := [.all], hold := kinds.getLsbD 2 && s.storesOut }
     let m := s.scopeMembers s.who.core s.who.slot scope.toNat
     let uids := if kinds.getLsbD 0 then s.me.openUids else []
     Ready r s → s.me.stale scope.toNat = false →
     Starts r s [.fence kinds s.me.allDone uids m] (.engine uids) .seq (exec (.fence cm scope kinds) s)) ∧
    (∀ (c : Ctx) (y : Sq) (p : Pending) (base : Carry) (uids : List Nat) (m : Members),
      p.effects = [.fence kinds base uids m] → p.pops = [] → p.rsvs = [] → p.es = 0 →
      let q := c.seq.get y
      let t := (c.retire y p).seq.get y
      (c.retire y p).rest = c.rest ∧ t.s = q.s ∧ t.ring = (if kinds.getLsbD 2 then [] else q.ring) ∧
      (kinds.getLsbD 1 = true → ∀ e ∈ q.seen, (e.m.inter m).none_ = false →
        { e with m := e.m.inter m, direct := false } ∈ t.know) ∧
      (kinds.getLsbD 0 = true → base.pts ≤ t.retPts ∧ (∀ e ∈ base.know, e ∈ t.know) ∧
        ∀ u ∈ uids, (c.doneCarry.get ⟨0, []⟩ u).pts ≤ t.retPts ∧ ∀ e ∈ (c.doneCarry.get ⟨0, []⟩ u).know, e ∈ t.know)) ∧
    (let r := { scalarReq (.scset cm n a b) 0x68 cm [a, b] none with writes := [.sr (0x2000 + n.toNat)] }
     let cores := operand s [a, b] 0
     let sl := operand s [a, b] 1
     Ready r s →
     (sl.toNat / 2 ^ 34 = 0 ∧ cores &&& ~~~(s.part s.me.part).cores = 0 ∧
       sl.toNat % 2 ^ 32 < 2 ^ (s.part s.me.part).sliceCount ∧ (sl.getLsbD 33 = true → s.peerUp = true)) →
     Starts r s [.scope n.toNat ⟨cores, sl.extractLsb' 0 32, sl.getLsbD 32, sl.getLsbD 33, none⟩] .open_ .seq
       (exec (.scset cm n a b) s)) ∧
    (let r := { scalarReq (.scget cm d n slices) 0x69 cm [] (some d) with reads := [.sr (0x2000 + n.toNat)] }
     let m := s.scopeMembers s.who.core s.who.slot n.toNat
     Ready r s → Starts r s (Spec.write s.who.y d (if slices then
         sliceWord m (s.me.stale n.toNat) (s.me.scopes.get Scope.empty n.toNat).gen else m.cores)) .open_ .seq
       (exec (.scget cm d n slices) s))

/-- 07 R143, R148: bytes of device memory written in T read back, every other byte stays, and the line's times move: a
write stands after every lease given on the line, a load served at home extends the lease and never goes back. 14
R361, R362, R363: translation writes no byte of memory, moves the walker's time forwards only, and gives an address
above 57 bits a fault of stage 1. -/
def Obligations.DeviceMemory : Prop :=
  (∀ (dm : Dram) (pts lease pa : Nat) (bs : List Byte) (rel : Know) (chain : Bool),
    (dm.write pts pa bs rel chain).1.bytes.read pa bs.length = bs ∧
    (∀ x, (x < pa ∨ pa + bs.length ≤ x) → (dm.write pts pa bs rel chain).1.bytes.byte x = dm.bytes.byte x) ∧
    (dm.write pts pa bs rel chain).2 = max pts ((dm.line pa).rts + 1) ∧
    ((dm.write pts pa bs rel chain).1.line pa).wts = (dm.write pts pa bs rel chain).2 ∧
    (∀ x, x / 128 ≠ pa / 128 → (dm.write pts pa bs rel chain).1.line x = dm.line x) ∧
    (dm.homeLoad pts lease pa).1.bytes = dm.bytes ∧
    (dm.homeLoad pts lease pa).2 = max pts (dm.line pa).wts ∧
    ((dm.homeLoad pts lease pa).1.line pa).rts =
      max (dm.line pa).rts ((dm.homeLoad pts lease pa).2 + lease) ∧
    ((dm.homeLoad pts lease pa).1.line pa).wts = (dm.line pa).wts) ∧
  (∀ (s : State) (w : Walker) (va : Nat) (acc : Access),
    (s.translate w va acc).1.dram.bytes = s.dram.bytes ∧ (s.translate w va acc).1.ctxs = s.ctxs ∧
    w.pts ≤ (s.translate w va acc).2.1 ∧
    (2 ^ 57 ≤ va → (s.translate w va acc).2.2 = .fault ⟨false, 7, acc, 3⟩))

/-- 08 R181, R196: a CPUSH of a command that passes every check joins its queue at its issue, is numbered in order,
becomes the latest setter of the events it signals, gives its number, and may start once its CPUSH has retired (R209).
-/
def Obligations.CommandPush : Prop :=
  ∀ (cm : Common) (d a : Spec) (q : Bool) (l : List Nat) (s : State),
    let r := { scalarReq (.cpush cm d q a) 0x70 cm [a] (some d) with
               cls := 3, spad := true, reads := [.sr 2]
               check := if a = .s 0 ∧ s.me.allocatedRange 0 128 = false then some (Trap.plain .spadRange) else none }
    let u := r.taken s
    let ca := (operand s [a] 0).toNat
    let size := if 8 < dimsOf (BitVec.ofNat 64 (leNat (s.me.spad.load u.sq.know s.free ca 8))) then 256 else 128
    let bs := s.me.spad.load u.sq.know s.free ca size
    let k := parseCmd bs
    Ready r s → s.me.allocatedRange ca 128 = true → s.me.allocatedRange ca size = true → ca % 128 = 0 →
    s.me.boxesOk k = true → s.me.spad.badAddr ca size = none → s.me.cmdFails s.mySlices bs = [] →
    s.me.stale k.scope = false → s.me.waitsOf k.wait = some l → (s.me.eq q).occupied + size / 128 ≤ 16 →
    ∃ t j, exec (.cpush cm d q a) s = .next t ∧
      InFlight r s t (Spec.write s.who.y d (BitVec.ofNat 64 s.me.nextSeq) ++ [.cpush s.nextUid]) .open_ ∧
      (t.me.eq q).jobs = (s.me.eq q).jobs ++ [j] ∧ (t.me.eq q).records = (s.me.eq q).records ∧
      t.me.eq (!q) = s.me.eq (!q) ∧
      j.cmd = k ∧ j.seq = s.me.nextSeq ∧ j.uid = s.nextUid ∧ j.waits = l ∧ j.st = .waiting ∧ j.issued = false ∧
      j.begun = false ∧ j.carry = u.sq.carry ∧
      t.me.nextSeq = (s.me.nextSeq + 1) % 2 ^ 32 ∧ t.nextUid = s.nextUid + 1 ∧
      (∀ n, n < 16 → t.me.evSetter.get 0 n = if k.sig.getLsbD n then s.nextUid else s.me.evSetter.get 0 n) ∧
      t.me.spad = s.me.spad ∧ t.sq.s = s.sq.s ∧ t.dram = s.dram

/-- 08 R193, R197 to R202: CPOP takes the oldest record and acquires its command, CPEEK reads it and takes nothing;
CCHAIN names a chain, CKICK gives it credit, CQSTAT reads Table 8.7, and CABORT stops one command or all of them and
will retire when they have completed. Each of the six answers a next state. -/
def Obligations.QueueInstructions : Prop :=
  ∀ (cm : Common) (d a : Spec) (q spad : Bool) (n : BitVec 16) (x : Record) (l : List Record) (s : State),
    (let r := scalarReq (.cpop cm d q) 0x71 cm [] (some d)
     let u := r.taken s
     let v := u.setMe (u.me.setEq q { u.me.eq q with records := l })
     Ready r s → (s.me.eq q).records = x :: l →
       ∃ t, exec (.cpop cm d q) s = .next t ∧
         t = accept r (r.take s.me s.who.y)
           { s := v.setSq (v.sq.receive x.carry), eff := Spec.write s.who.y d x.word } ∧
         (t.me.eq q).records = l ∧ (t.me.eq q).jobs = (s.me.eq q).jobs ∧ t.me.eq (!q) = s.me.eq (!q) ∧
         InFlight r s t (Spec.write s.who.y d x.word) .open_) ∧
    (let r := scalarReq (.cpeek cm d q) 0x72 cm [] (some d)
     Ready r s →
       ∃ t, exec (.cpeek cm d q) s = .next t ∧ OnlyIssue s t ∧ Flows s t r.long .seq ∧
         InFlight r s t (Spec.write s.who.y d
           (match (s.me.eq q).records with | y :: _ => y.word | [] => BitVec.allOnes 64)) .open_) ∧
    (let r := scalarReq (.cchain cm q a spad) 0x73 cm [a] none
     let u := r.taken s
     let e := s.me.eq q
     let v := operand s [a] 0
     Ready r s → e.st ≠ 1 → v.toNat % 128 = 0 → v.toNat < 2 ^ (if spad then 22 else 57) →
       ∃ t, exec (.cchain cm q a spad) s = .next t ∧
         t = accept r (r.take s.me s.who.y)
           { s := u.setMe (u.me.setEq q
               { e with ptr := v, inSpad := spad, carry := u.sq.carry
                        st := if e.credit = 0 then 2 else 1, park := if e.credit = 0 then 1 else 0 }) } ∧
         InFlight r s t [] .open_) ∧
    (let r := scalarReq (.ckick cm q a n) 0x74 cm [a] none
     let u := r.taken s
     let e := s.me.eq q
     let v := e.credit + n.toNat + (operand s [a] 0).toNat
     let go : Bool := decide (e.st = 2 ∧ e.park = 1 ∧ 0 < v)
     Ready r s → v ≤ 65535 →
       ∃ t, exec (.ckick cm q a n) s = .next t ∧
         t = accept r (r.take s.me s.who.y)
           { s := u.setMe (u.me.setEq q
               { e with credit := v, carry := u.sq.carry
                        st := if go then 1 else e.st, park := if go then 0 else e.park }) } ∧
         InFlight r s t [] .open_) ∧
    (let r := scalarReq (.cqstat cm d q) 0x75 cm [] (some d)
     let e := s.me.eq q
     let w := (e.jobs.filter fun j => j.begun = false).length
     Ready r s →
       ∃ t, exec (.cqstat cm d q) s = .next t ∧ OnlyIssue s t ∧ Flows s t r.long .seq ∧
         InFlight r s t (Spec.write s.who.y d (BitVec.ofNat 64
           (w + (e.jobs.length - w) * 2 ^ 5 + e.records.length * 2 ^ 8 + e.occupied * 2 ^ 13 + e.st * 2 ^ 18 +
            e.park * 2 ^ 20 + e.credit * 2 ^ 24 + s.me.nextSeq % 2 ^ 16 * 2 ^ 40))) .open_) ∧
    (let r := scalarReq (.cabort cm q a) 0x76 cm [a] none
     let u := r.taken s
     let e := s.me.eq q
     let hit (j : Job) : Bool := (a = .s 0 ∨ j.seq = ((operand s [a] 0).extractLsb' 0 32).toNat) ∧
       (j.st = .waiting ∨ j.st = .running)
     Ready r s → ∃ t, exec (.cabort cm q a) s = .next t ∧
       InFlight r s t [] (.engine ((e.jobs.filter hit).map (·.uid))) ∧
       (t.me.eq q).jobs = e.jobs.map (fun j => if hit j then { j with st := .over, kind := 5 } else j) ∧
       t.me.eq (!q) = s.me.eq (!q) ∧ (t.me.eq q).records = e.records ∧
       (a = .s 0 → (t.me.eq q).st = 2 ∧ (t.me.eq q).park = 5) ∧
       (a ≠ .s 0 → (t.me.eq q).st = e.st ∧ (t.me.eq q).park = e.park) ∧ t.sq.s = u.sq.s)

/-- 08 R184 to R187: one element of COPY, GATHER, SCATTER, REDUCE and FILL by a command that is running: the element
of lowest number not yet done is read and written; the bytes that are read go to the destination, combined with the
old ones by REDUCE; a fault of the element ends the command with its kind and the number of elements done. 08 R185,
R186, R187: what one element does between device memory and the scratchpad: its bytes come from, and go to, the
addresses that the dimensions give, and nothing else is written. One element at a time is log entries 17 and 32. -/
def Obligations.CopyElements : Prop :=
  (∀ (i : Instr) (op core slot q seq : Nat) (s v : State) (j k : Job) (tm : Nat),
    ((op = 1 ∧ i = .copy core slot q seq 1) ∨ (op = 2 ∧ i = .gather core slot q seq 1) ∨
      (op = 3 ∧ i = .scatter core slot q seq 1) ∨ (op = 4 ∧ i = .reduce core slot q seq 1) ∨
      (op = 5 ∧ i = .fill core slot q seq 1)) →
    let c := s.ctx core slot
    c.bound = true → s.clocksRun = true → q ≤ 1 →
    (c.eq (q == 1)).jobs.find? (fun j => j.seq == seq && j.cmd.op == op) = some j → j.st = .running →
    j.progress < j.cmd.total →
    (s.doElem core slot j j.progress = .ok v (tm, k) →
      ∃ t j', exec i s = .next t ∧ t.dram = v.dram ∧ t.staging = v.staging ∧ t.host = v.host ∧ t.peer = v.peer ∧
        (t.ctx core slot).spad = (v.ctx core slot).spad ∧ (t.ctx core slot).seq = (v.ctx core slot).seq ∧
        t.ctx core slot = { (v.ctx core slot).setJob (q == 1) j' with gathers := (t.ctx core slot).gathers } ∧
        j' = { j with progress := j.progress + 1, partialDone := true, time := max j.time tm, hist := k.hist
                      st := if j.progress + 1 = j.cmd.total then .over else .running }) ∧
    ∀ kind, s.doElem core slot j j.progress = .stop v kind →
      ∃ t, exec i s = .next t ∧ t.dram = v.dram ∧ t.dram.bytes = s.dram.bytes ∧ (t.ctx core slot).spad = c.spad ∧
        t.ctx core slot = { c.setJob (q == 1) { j with st := .over, kind := kind } with
          gathers := (t.ctx core slot).gathers }) ∧
  (∀ (core slot : Nat) (j : Job) (w : Nat) (s : State),
    let c := s.ctx core slot
    let n := j.cmd.bytes
    j.cmd.op = 1 → j.cmd.sk = 1 → j.cmd.dk = 1 → j.cmd.sring = none → j.cmd.dring = none →
    c.spadElem none (j.srcOff w) 0 n = true → c.spadElem none (j.dstOff w) 0 n = true →
    c.spad.badIn (j.srcOff w).toNat n = false → c.spad.badMerge (j.dstOff w).toNat n = none →
    ∃ t, s.doElem core slot j w = .ok t (j.carry.pts, j) ∧
      (t.ctx core slot).spad.bytes.read (j.dstOff w).toNat n =
        c.spad.load j.carry.know s.free (j.srcOff w).toNat n ∧
      (∀ x : Nat, ((x : Int) < j.dstOff w ∨ j.dstOff w + n ≤ (x : Int)) →
        (t.ctx core slot).spad.bytes.byte x = c.spad.bytes.byte x) ∧
      t.dram = s.dram ∧ t.host = s.host ∧ t.peer = s.peer ∧ t.staging = s.staging)

/-- 08 R190, R191: the completion of a command without rings: its status word of Table 8.5 goes to its barrier object
and to its record, it leaves its queue, and its events are set, in that order; a command of a saved context does the
same in its image (05 R115); ENGINE_TIMEOUT ends a command that reaches outside the part with kind 6, and its
completion follows. 08 R193: CHAIN_FETCH of an entry in the scratchpad: a link entry moves the chain to where it
points and takes one credit; the chain parks when its credit is gone. -/
def Obligations.CommandCompletion : Prop :=
  (∀ (core slot q seq : Nat) (j : Job) (s : State),
    let c := s.ctx core slot
    let e := c.eq (q == 1)
    let w := j.word.getD (j.status c core)
    (c.bound = true →
      e.jobs.find? (fun j => j.seq == seq && (j.st == .over || j.st == .ending)) = some j → j.st = .over →
      j.sclaim = none → j.dclaim = none →
      ∃ t, exec (.commandComplete core slot q seq) s = .next t ∧
        let e' := (t.ctx core slot).eq (q == 1)
        (∀ x ∈ e'.jobs, x.uid ≠ j.uid) ∧
        e'.records = e.records ++
          (if j.cmd.norec then [] else [⟨w, j.uid, j.done, j.cmd.places⟩]) ∧
        (t.ctx core slot).events = c.events ||| j.cmd.sig ∧
        (∀ a, j.cmd.bar = some a →
          (t.ctx core slot).spad.bytes.num (a + 8) 8 = w.toNat ∧
          (t.ctx core slot).spad.bytes.num a 8 = Nat.xor (c.spad.bytes.num a 8) 1 ∧
          ∀ x, (x < a ∨ a + 16 ≤ x) → (t.ctx core slot).spad.bytes.byte x = c.spad.bytes.byte x) ∧
        (j.cmd.bar = none → (t.ctx core slot).spad = c.spad) ∧
        (t.ctx core slot).seq = c.seq ∧ t.dram = s.dram) ∧
    (∀ u v, c.bound = false →
      s.saved.find? (fun e => e.2.core == core && e.2.slot == slot && (e.2.img.ending (q == 1) seq).isSome) =
        some (u, v) → v.img.ending (q == 1) seq = some j → j.st = .over → j.sclaim = none → j.dclaim = none →
      ∃ img, exec (.commandComplete core slot q seq) s = .next { s with saved := s.saved.ins u { v with img := img } } ∧
        img.events = v.img.events ||| j.cmd.sig ∧ ∀ x ∈ (img.eq (q == 1)).jobs, x.uid ≠ j.uid) ∧
    (c.bound = true → e.jobs.find? (fun j => j.seq == seq && j.outside) = some j →
      exec (.engineTimeout core slot q seq) s =
        .next (s.setCtx core slot (c.setJob (q == 1) { j with st := .over, kind := 6 })))) ∧
  (∀ (core slot q : Nat) (s v : State) (bs : List Byte),
    let c := s.ctx core slot
    let e := c.eq (q == 1)
    c.bound = true → s.clocksRun = true → q ≤ 1 → e.st = 1 → 0 < e.credit → e.occupied < 16 →
    s.readChain core c e e.ptr.toNat 16 [] = .ok v bs → fieldAt bs 0 1 = 7 → linkOk bs = true →
    ∃ t, exec (.chainFetch core slot q) s = .next t ∧
      let e' := (t.ctx core slot).eq (q == 1)
      e'.ptr = BitVec.ofNat 64 (fieldAt bs 8 8) ∧ e'.credit = e.credit - 1 ∧
      e'.st = (if e.credit = 1 then 2 else 1) ∧ (e.credit = 1 → e'.park = 1) ∧
      e'.jobs = ((v.ctx core slot).eq (q == 1)).jobs ∧ t.dram.bytes = v.dram.bytes)

/-- 10 R236 to R241, R246 to R248, R250, Tables 10.3, 10.4, 10.6: the 33 element-wise instructions. Each works on the
one format that its tagged sources agree on; each element of its result that the predicate governs is what the table
gives of the elements of its sources, the others stay; the destination's tile takes the format as its tag; the flags
of the governed elements are added. 10 R236: the format of a vector instruction: sources of one tag fix it, differing
ones none; with no tagged source it is the destination's, and a default without that. -/
def Obligations.VectorElementwise : Prop :=
  (∀ (i : Instr) (e : Elementwise) (tag : Nat) (s : State),
    Elementwise.of i = some e →
    let r := vecReq i e.opc e.cls e.cm (some e.d) e.pops e.p
    let gov := governed (s.me.pred e.p.toNat) tag
    Ready r s → s.vecFmt (e.srcs.take e.fixing) (some e.d) e.dflt e.lo e.hi = some tag →
    s.eccOf (tilesOf e.srcs) = none → cleanDest s e.d tag gov →
    ∃ eff, Starts r s eff .open_ .seq (exec i s) ∧
      LineResult s e.d tag gov
        (e.res s.me tag fun n m => elem tag (lineOperand s e.srcs n) m) [] eff) ∧
  (∀ (s : State) (srcs : List Line) (d : Option Line) (dflt lo hi : Nat),
    let tags := ((tilesOf srcs).map s.tileTag).filter (· ≠ 0)
    (∀ t, t ∈ tags → (∀ x ∈ tags, x = t) → lo ≤ t → t ≤ hi → s.vecFmt srcs d dflt lo hi = some t) ∧
    (∀ t x, t ∈ tags → x ∈ tags → t ≠ x → s.vecFmt srcs d dflt lo hi = none) ∧
    (∀ z, tags = [] → d = some (.tile z) → s.tileTag z ≠ 0 → lo ≤ s.tileTag z → s.tileTag z ≤ hi →
      s.vecFmt srcs d dflt lo hi = some (s.tileTag z)) ∧
    (∀ t, s.vecFmt srcs d dflt lo hi = some t → lo ≤ t ∧ t ≤ hi))

/-- 10 R243 to R245: comparisons write the governed bits of a predicate, reductions element 0 of their destination
whatever its own bit, and a scan its governed elements. 10 R244: an integer sum reduced in its tree is the sum of the
governed elements modulo the width, whatever the predicate. -/
def Obligations.ComparisonsAndReductions : Prop :=
  (∀ (cm : Common) (pd cond p : BitVec 3) (d : TileLine) (dl a b : Line) (op : RedOp) (iop : IRedOp) (tag : Nat)
    (s : State),
    let gov := governed (s.me.pred p.toNat) tag
    let x (n m : Nat) := elem tag (lineOperand s [a, b] n) m
    let f := vecFloat tag
    (let r := { vecReq (.vfcmp cm pd cond a b p) 0x92 4 cm none [a, b] p with writes := [.p pd.toNat] }
     Ready r s → s.floatFmt [a, b] none = some tag → s.eccOf (tilesOf [a, b]) = none →
     ∃ v fl, Starts r s [.p pd.toNat v, .flags fl] .open_ .seq (exec (.vfcmp cm pd cond a b p) s) ∧
       ∀ m, m < 256 → v.getLsbD m =
         if m < elems tag ∧ gov m then
           floatHolds cond (f.value s.me.fzOn (x 0 m)) (f.value s.me.fzOn (x 1 m))
         else (s.me.pred pd.toNat).getLsbD m) ∧
    (let r := { vecReq (.vicmp cm pd cond a b p) 0xA0 4 cm none [a, b] p with writes := [.p pd.toNat] }
     Ready r s → s.intFmt [a, b] none = some tag → s.eccOf (tilesOf [a, b]) = none →
     ∃ v, Starts r s [.p pd.toNat v, .flags 0] .open_ .seq (exec (.vicmp cm pd cond a b p) s) ∧
       ∀ m, m < 256 → v.getLsbD m =
         if m < elems tag ∧ gov m then
           intHolds cond (BitVec.ofNat (cbits tag) (x 0 m)) (BitVec.ofNat (cbits tag) (x 1 m))
         else (s.me.pred pd.toNat).getLsbD m) ∧
    (let r := vecReq (.vfred cm d a op p) 0x93 4 cm (some (.tile d)) [a] p
     let vs := (List.range (elems tag)).map fun m => if gov m then some (x 0 m) else none
     let w := treeRed (redNode op f s.me.fzOn) (Nat.log2 (elems tag)) vs
     Ready r s → s.floatFmt [a] (some (.tile d)) = some tag → s.eccOf (tilesOf [a]) = none →
     cleanDest s (.tile d) tag (· == 0) →
     ∃ eff, Starts r s eff .open_ .seq (exec (.vfred cm d a op p) s) ∧
       LineResult s (.tile d) tag (· == 0)
         (fun _ => (w.1.getD (if op = .sum then 0 else f.nan), w.2)) [] eff) ∧
    (let r := vecReq (.vired cm d a iop p) 0xA1 4 cm (some (.tile d)) [a] p
     let vs := (List.range (elems tag)).map fun m => if gov m then some (x 0 m) else none
     let w := treeRed (fun u v => (iredNode iop tag u v, {})) (Nat.log2 (elems tag)) vs
     Ready r s → s.intFmt [a] (some (.tile d)) = some tag → s.eccOf (tilesOf [a]) = none →
     cleanDest s (.tile d) tag (· == 0) →
     ∃ eff, Starts r s eff .open_ .seq (exec (.vired cm d a iop p) s) ∧
       LineResult s (.tile d) tag (· == 0) (fun _ => (w.1.getD (iredIdentity iop tag), {})) [] eff) ∧
    (let r := vecReq (.vfscan cm dl a op p) 0x94 4 cm (some dl) [a] p
     Ready r s → s.floatFmt [a] (some dl) = some tag → s.eccOf (tilesOf [a]) = none → cleanDest s dl tag gov →
     ∃ (l cells : LineBits) (fl : BitVec 5) (acc : Nat → Nat), Starts r s
         ((match dl with
           | .tile z => [.line z (TileLine.index z s.sq) l cells, .retag z.tile.toNat tag]
           | .gen g => [.genLine g.toNat l]) ++ [.flags fl]) .open_ .seq (exec (.vfscan cm dl a op p) s) ∧
       (∀ z, dl = .tile z → Merges s z tag gov l cells) ∧
       (∀ m, m < elems tag → gov m = true → elem tag l m = acc m % 2 ^ cbits tag) ∧
       (∀ m, m < elems tag → gov m = true → (∀ j, j < m → gov j = false) → acc m = x 0 m) ∧
       ∀ j m, j < m → m < elems tag → gov j = true → gov m = true → (∀ n, j < n → n < m → gov n = false) →
         acc m = (redNode op f s.me.fzOn (acc j) (x 0 m)).1)) ∧
  (∀ (tag k : Nat) (vs : List (Option Nat)),
    (tag = 6 ∨ tag = 7 ∨ tag = 8 ∨ tag = 9) → vs.length = 2 ^ k → (∀ v ∈ vs, ∀ x, v = some x → x < 2 ^ cbits tag) →
    (treeRed (fun u v => (iredNode .add tag u v, {})) k vs).1.getD 0 =
      (vs.foldl (fun a v => a + v.getD 0) 0) % 2 ^ cbits tag)

/-- 10 R247, R248, R250, R252: VSEL takes every element from one source or the other by the predicate, VBCAST of a
scalar writes it to every governed element, VINS writes one element, and VRNG the 64 words of Mix, its counter one up.
VSEL of a generator destination under any predicate is log entry 30. -/
def Obligations.SelectInsertRandom : Prop :=
  ∀ (cm : Common) (d a b : Line) (z : TileLine) (sc x : Spec) (tag : BitVec 5) (t : Nat) (index : BitVec 9) (p : BitVec 3)
    (s : State),
    let gov := governed (s.me.pred p.toNat) t
    (let r := vecReq (.vsel cm d a b p) 0xA3 4 cm (some d) [a, b] p
     Ready r s → s.anyFmt [a, b] (some d) = some t → s.eccOf (tilesOf [a, b]) = none →
     cleanDest s d t (fun _ => true) →
     ∃ eff, Starts r s eff .open_ .seq (exec (.vsel cm d a b p) s) ∧
       LineResult s d t (fun _ => true)
         (fun m => (elem t (if gov m then lineOperand s [a, b] 0 else lineOperand s [a, b] 1) m, {})) [] eff) ∧
    (let r := { vecReq (.vbcastScalar cm d sc tag p) 0xA5 4 cm (some d) [] p with srcs := [sc] }
     Ready r s → t ≠ 0 → t = (if tag = 0 then (match d with | .tile z => s.tileTag z | .gen _ => 0) else tag.toNat) →
     cleanDest s d t gov →
     ∃ eff, Starts r s eff .open_ .seq (exec (.vbcastScalar cm d sc tag p) s) ∧
       LineResult s d t gov (fun _ => ((operand s [sc] 0).toNat, {})) [] eff) ∧
    (let r := { vecReq (.vinsIndex cm z x index) 0xA7 4 cm (some (.tile z)) [] 0 with srcs := [x] }
     let n := index.toNat % elems t
     Ready r s → t = s.tileTag z → t ≠ 0 → cleanDest s (.tile z) t (· == n) →
     ∃ eff, Starts r s eff .open_ .seq (exec (.vinsIndex cm z x index) s) ∧
       LineResult s (.tile z) t (· == n) (fun _ => (store121 t (operand s [x] 0).toNat, {})) [] eff) ∧
    (let r := { vecReq (.vinsScalar cm z x sc) 0xA7 4 cm (some (.tile z)) [] 0 with srcs := [x, sc] }
     let n := (operand s [x, sc] 1).toNat % elems t
     Ready r s → t = s.tileTag z → t ≠ 0 → cleanDest s (.tile z) t (· == n) →
     ∃ eff, Starts r s eff .open_ .seq (exec (.vinsScalar cm z x sc) s) ∧
       LineResult s (.tile z) t (· == n) (fun _ => (store121 t (operand s [x, sc] 0).toNat, {})) [] eff) ∧
    (let r0 := vecReq (.vrng cm d p) 0xAA 4 cm (some d) [] p
     let r := { r0 with reads := .sr 0xA :: .sr 0xB :: r0.reads }
     Ready r s → t = 6 → cleanDest s d 6 gov →
     ∃ eff, Starts r s eff .open_ .seq (exec (.vrng cm d p) s) ∧
       LineResult s d 6 gov (fun m => (mixWord s.me.rngKey s.me.rngCtr m, {})) [.rngCtr (s.me.rngCtr + 1)] eff)

/-- 10 R249, R251, R253, R254: VEXT reads one element, VARGMAX the index of the greatest governed one, PLOP combines
predicates or sets the first bits of one, PCNT counts or finds. -/
def Obligations.VectorToScalar : Prop :=
  ∀ (cm : Common) (d sc : Spec) (a : Line) (index : BitVec 9) (p pd pa pb : BitVec 3) (table : BitVec 4) (first : Bool)
    (t : Nat) (s : State),
    (let r := { vecReq (.vextIndex cm d a index) 0xA6 4 cm none [a] 0 with dst := some d }
     Ready r s → s.anyFmt [a] none = some t → s.eccOf (tilesOf [a]) = none →
     Starts r s (Spec.write s.who.y d (extValue t (elem t (lineOperand s [a] 0) (index.toNat % elems t)))) .open_ .seq
       (exec (.vextIndex cm d a index) s)) ∧
    (let r := { vecReq (.vextScalar cm d a sc) 0xA6 4 cm none [a] 0 with srcs := [sc], dst := some d }
     Ready r s → s.anyFmt [a] none = some t → s.eccOf (tilesOf [a]) = none →
     Starts r s (Spec.write s.who.y d
         (extValue t (elem t (lineOperand s [a] 0) ((operand s [sc] 0).toNat % elems t)))) .open_ .seq
       (exec (.vextScalar cm d a sc) s)) ∧
    (let r := { vecReq (.vargmax cm d a p) 0xA9 4 cm none [a] p with dst := some d }
     let x (m : Nat) := elem t (lineOperand s [a] 0) m
     let may (m : Nat) : Prop := m < elems t ∧ governed (s.me.pred p.toNat) t m = true ∧ argNumber t (x m) = true
     Ready r s → s.anyFmt [a] none = some t → s.eccOf (tilesOf [a]) = none →
     ∃ v, Starts r s (Spec.write s.who.y d v) .open_ .seq (exec (.vargmax cm d a p) s) ∧
       ((∀ m, ¬ may m) → v = BitVec.allOnes 64) ∧
       ((∃ m, may m) → ∃ m, may m ∧ v = BitVec.ofNat 64 m ∧
         (∀ j, may j → argGreater s.me.fzOn t (x j) (x m) = false) ∧
         ∀ j, j < m → may j → argGreater s.me.fzOn t (x m) (x j) = true)) ∧
    (let r := { scalarReq (.plopLogical cm pd pa pb table) 0xAB cm [] none with
                reads := [.p pa.toNat, .p pb.toNat], writes := [.p pd.toNat] }
     Ready r s → ∃ v, Starts r s [.p pd.toNat v] .open_ .seq (exec (.plopLogical cm pd pa pb table) s) ∧
       ∀ m, m < 256 → v.getLsbD m = table.getLsbD
         ((if (s.me.pred pa.toNat).getLsbD m then 2 else 0) + (if (s.me.pred pb.toNat).getLsbD m then 1 else 0))) ∧
    (let r := { scalarReq (.plopFirst cm pd sc) 0xAB cm [sc] none with writes := [.p pd.toNat] }
     Ready r s → ∃ v, Starts r s [.p pd.toNat v] .open_ .seq (exec (.plopFirst cm pd sc) s) ∧
       ∀ m, m < 256 → v.getLsbD m = decide (m < (operand s [sc] 0).toNat)) ∧
    (let r := { scalarReq (.pcnt cm d pa pb first) 0xAC cm [] (some d) with reads := [.p pa.toNat, .p pb.toNat] }
     let both (m : Nat) : Bool := (s.me.pred pa.toNat).getLsbD m && (s.me.pred pb.toNat).getLsbD m
     Ready r s → Starts r s (Spec.write s.who.y d (BitVec.ofNat 64
         (if first then ((List.range 256).find? both).getD 256 else (List.range 256).countP both))) .open_ .seq
       (exec (.pcnt cm d pa pb first) s))

/-- 09 R224 to R229: the conversions. An element of the result is the conversion of the element of the source that
stands at its place in the part that is named; elements outside the part stay. Flags of conversions to integer formats
are log entry 31. -/
def Obligations.Conversions : Prop :=
  ∀ (cm : Common) (d a b : TileLine) (tag : BitVec 5) (part p : BitVec 3) (sat hi : Bool) (sf df : Nat) (s : State),
    let st := s.tileTag a
    let fz := s.me.fzOn
    let rm := s.me.rmode
    let gov := governed (s.me.pred p.toNat) df
    let x (m : Nat) := elem sf (s.tileLine a) m
    (let r := convReq (.cvt cm d a tag part sat p) 0x78 cm d [a] p
     let s0 := if elems sf ≤ elems df then 0 else part.toNat * elems df
     let t0 := if elems sf ≤ elems df then part.toNat * elems sf else 0
     let take (m : Nat) : Bool := decide (t0 ≤ m ∧ m < t0 + min (elems sf) (elems df)) && gov m
     Ready r s → st ≤ 10 → df = tag.toNat → sf = (if st = 0 then df else st) →
     part.toNat < (if elems sf < elems df then elems df / elems sf else elems sf / elems df) →
     s.tileEcc a = none → cleanDest s (.tile d) df take →
     ∃ eff, Starts r s eff .open_ .seq (exec (.cvt cm d a tag part sat p) s) ∧
       LineResult s (.tile d) df take (fun m => convElem sf df rm sat fz (x (s0 + (m - t0)))) [] eff) ∧
    (let r := convReq (.cvtr cm d a b p) 0x79 cm d [a, b] p
     let t0 := (s.sq.reg d.idx.toNat).toNat / 64 % (elems df / 64) * 64
     let take (m : Nat) : Bool := decide (t0 ≤ m ∧ m < t0 + 64) && gov m
     Ready r s → df = s.tileTag d → 2 ≤ df → df ≤ 5 → sf = 1 → st ≤ 1 →
     s.eccOf [a, b] = none → cleanDest s (.tile d) df take →
     ∃ eff, Starts r s eff .open_ .seq (exec (.cvtr cm d a b p) s) ∧
       LineResult s (.tile d) df take
         (fun m => cvtrElem (vecFloat df) fz (x (m - t0)) (elem 1 (s.tileLine b) (m - t0))) [] eff) ∧
    (let r := convReq (.pack cm d a b p) 0x7C cm d [a, b] p
     Ready r s → df = s.tileTag d → sf ∈ packSources df →
     (st = sf ∨ (st = 0 ∧ (s.tileTag b = sf ∨ sf = (packSources df).headD 0))) → (s.tileTag b = sf ∨ s.tileTag b = 0) →
     s.eccOf [a, b] = none → cleanDest s (.tile d) df gov →
     ∃ eff, Starts r s eff .open_ .seq (exec (.pack cm d a b p) s) ∧
       LineResult s (.tile d) df gov (fun m => convElem sf df rm true fz
         (if m < elems sf then x m else elem sf (s.tileLine b) (m - elems sf))) [] eff) ∧
    (let r := convReq (.unpack cm d a tag hi p) 0x7D cm d [a] p
     Ready r s → sf = st → df = tag.toNat → df ∈ unpackDests sf → s.tileEcc a = none → cleanDest s (.tile d) df gov →
     ∃ eff, Starts r s eff .open_ .seq (exec (.unpack cm d a tag hi p) s) ∧
       LineResult s (.tile d) df gov (fun m =>
         if sf = 0 then (0, {}) else convElem sf df rm false fz (x ((if hi then elems df else 0) + m))) [] eff)

/-- 09 R213, R226, R227, R230, R231: QMX gives every block of 32 elements a scale, which goes to the block's byte of
the scale register, and codes under it; DQMX reads codes under their scales; ZTAG and ZTAGR set tags. -/
def Obligations.BlockFormats : Prop :=
  ∀ (cm : Common) (d a : TileLine) (n : BitVec 5) (sc x y : Spec) (prec : BitVec 3) (fmt part : BitVec 2) (p : BitVec 3)
    (fit : Bool) (tile : BitVec 6) (tag : BitVec 5) (s : State),
    let st := s.tileTag a
    let fz := s.me.fzOn
    (let r := { convReq (.qmx cm d a n prec part fit) 0x7A cm d [a] 0 with srcs := [.s n], dst := some (.s n) }
     let sf := if st = 0 then 1 else st
     let dt := 12 + prec.toNat
     let ns := elems sf
     let t0 := part.toNat * ns
     let block (k : Nat) := mxiBlock s.me.rmode (mxiBits prec.toNat) fit
       ((List.range 32).map fun j => (vecFloat sf).value fz (elem sf (s.tileLine a) (32 * k + j)))
     let take (m : Nat) : Bool := decide (t0 ≤ m ∧ m < t0 + ns)
     Ready r s → st ≤ 3 → part.toNat < elems dt / ns → s.tileEcc a = none → cleanDest s (.tile d) dt take →
     ∃ word eff, Starts r s eff .open_ .seq (exec (.qmx cm d a n prec part fit) s) ∧
       LineResult s (.tile d) dt take (fun m =>
         (store121 dt ((block ((m - t0) / 32)).2.1.getD ((m - t0) % 32) 0), (block ((m - t0) / 32)).2.2))
         (Spec.write s.who.y (.s n) word) eff ∧
       ∀ k, k < 8 → word.toNat / 256 ^ k % 256 =
         if t0 / 32 ≤ k ∧ k < t0 / 32 + ns / 32 then (block (k - t0 / 32)).1
         else (operand s [.s n] 0).toNat / 256 ^ k % 256) ∧
    (let r := { convReq (.dqmx cm d a sc fmt part p) 0x7B cm d [a] p with srcs := [sc] }
     let sf := if st = 0 then 14 else st
     let df := 1 + fmt.toNat
     let gov := governed (s.me.pred p.toNat) df
     Ready r s → isMxi sf = true → part.toNat < elems sf / elems df → s.tileEcc a = none →
     cleanDest s (.tile d) df gov →
     ∃ eff, Starts r s eff .open_ .seq (exec (.dqmx cm d a sc fmt part p) s) ∧
       LineResult s (.tile d) df gov (fun m =>
         let k := part.toNat * elems df + m
         toFmt (vecFloat df) s.me.rmode false fz
           (mxiValue (codeBits sf) ((operand s [sc] 0).toNat / 256 ^ (k / 32) % 256) (elem sf (s.tileLine a) k))) [] eff) ∧
    (let r := { scalarReq (.ztag cm tile tag) 0x7E cm [] none with
                tiles := [tile.toNat], writes := [.tile tile.toNat], hold := s.sq.usesTile tile.toNat }
     Ready r s → Starts r s [.tag tile.toNat tag.toNat] .open_ .seq (exec (.ztag cm tile tag) s)) ∧
    (let r := { scalarReq (.ztagr cm sc x y) 0x7F cm [x, y] (some sc) with hold := s.tilesOut }
     let t := (operand s [x, y] 0).toNat
     let g := (operand s [x, y] 1).toNat
     Ready r s → t < s.me.tilesN → g ≤ 16 →
       Starts r s [.oldTag sc t, .tag t g] .open_ .seq (exec (.ztagr cm sc x y) s))

/-- 09 R211, R216 to R218: a finite code of a floating-point format stands for one exact value, and rounding that
value in any mode gives the code back, with no flag; saturating changes nothing. 09 R216: the multiple of a unit that
each rounding mode chooses: RNE and RNA a nearest one, with ties to even and away from zero; RTZ the one toward zero;
RDN and RUP the one below and above. -/
def Obligations.FloatCodes : Prop :=
  (∀ (f : Fmt) (rm c m : Nat) (e : Int) (sat neg : Bool),
    (f = .fp32 ∨ f = .bf16 ∨ f = .fp16 ∨ f = .e4m3 ∨ f = .e5m2) → c < 2 ^ f.width →
    f.value false c = .fin neg m e → f.round rm sat false neg m e = (c, {})) ∧
  (∀ (rm m : Nat) (neg : Bool) (e u : Int), e < u →
    let w := 2 ^ (u - e).toNat
    let q := roundAt rm neg m e u
    (q = m / w ∨ q = m / w + 1) ∧ (m % w = 0 → q * w = m) ∧
    ((rm = 0 ∨ rm = 4) → 2 * (q * w) ≤ 2 * m + w ∧ 2 * m ≤ 2 * (q * w) + w) ∧
    (rm = 0 → 2 * (m % w) = w → q % 2 = 0) ∧ (rm = 4 → 2 * (m % w) = w → q = m / w + 1) ∧
    (rm = 1 → q * w ≤ m) ∧
    (rm = 2 → if neg then m ≤ q * w else q * w ≤ m) ∧ (rm = 3 → if neg then q * w ≤ m else m ≤ q * w))

/-- 11 R262 to R265, R268, R269, R275, R278: MMA, MMAS and MMAC enter the engine at their issue with their shape, the
positions of their generators and their barrier, from the block at which a stop left them; they retire from there.
MMAC waits for the others of its quad to start. -/
def Obligations.MatrixMultiplyIssue : Prop :=
  ∀ (cm : Common) (acc : BitVec 6) (ga gb : BitVec 3) (bo : Spec) (init : Bool) (w : Word) (s : State),
    let c := s.me
    let bar := barrierAddr bo (operand s [bo] 0)
    let enters (i : Instr) (opc : Nat) (r : Req) : Prop :=
      Ready r s → opc = 0xB3 ∨ (((s.resumeOf opc).isSome = true ∨ init = true ∨ c.tagsOk acc.toNat w = true) ∧
        c.barrierTrap bar = none) →
      ∃ t run, exec i s = .next t ∧ InFlight r s t [] .matrix ∧ t.me.matrix.run = some run ∧
        run.opc = opc ∧ run.pc = s.sq.pc ∧ run.acc = acc.toNat ∧ run.ga = ga.toNat ∧ run.gb = gb.toNat ∧
        run.bar = bar ∧ run.init = init ∧ run.fz = c.fzOn ∧ run.flags = 0 ∧ run.scales = [] ∧
        (run.started = false ↔ opc = 0xB3) ∧
        (s.resumeOf opc = none → run.blocks = 0 ∧ run.shape = w ∧ run.apos = (c.gen ga.toNat).pos ∧
          run.bpos = (c.gen gb.toNat).pos) ∧
        (∀ x, s.resumeOf opc = some x → run.blocks = x.blocks ∧ run.shape = x.shape ∧ run.apos = x.apos ∧
          run.bpos = x.bpos) ∧
        t.me.tiles = c.tiles ∧ t.me.spad = c.spad ∧ t.sq.s = s.sq.s ∧ t.dram = s.dram
    c.matrix.shape = some w → s.sq.pending .shape = false →
    (shSparse w = false → w.getLsbD 36 = false →
      enters (.mma cm acc ga gb bo init) 0xB1 (mmaReq (.mma cm acc ga gb bo init) 0xB1 cm acc (some ga.toNat)
        (some gb.toNat) bo (c.mmaClass acc.toNat [ga.toNat, gb.toNat]) s)) ∧
    (shSparse w = true → w.getLsbD 36 = false →
      enters (.mmas cm acc ga gb bo init) 0xB2 (mmaReq (.mmas cm acc ga gb bo init) 0xB2 cm acc (some ga.toNat)
        (some gb.toNat) bo (c.mmaClass acc.toNat [ga.toNat, gb.toNat]) s)) ∧
    (∀ b, c.matrix.binding = some b → b.whole = true → w.getLsbD 36 = true →
      enters (.mmac cm acc ga gb bo init) 0xB3 (mmaReq (.mmac cm acc ga gb bo init) 0xB3 cm acc
        (if b.role.testBit 0 then none else some ga.toNat) (if b.role.testBit 1 then none else some gb.toNat) bo 14 s))

/-- 11 R262, R270 to R272, R280: MSHAPE sets the shape at its retire; MZERO sets its four tiles to +0 of FP32, MPLANE
and MSPACK push the records of a block or a group of their tile pair; MSTAT reads the shape, the engine or the
binding. 11 R273, R274: OQBIND of a member that has met the others of its quad is bound; OQUNBIND, once no joint
operation is open, leaves the quad, which is broken for the others; without a quad it traps QUEUE_FAULT. -/
def Obligations.MatrixOthers : Prop :=
  (∀ (cm : Common) (acc : BitVec 6) (ga fmt block : BitVec 3) (group item : BitVec 2) (bo d : Spec) (w shape : Word)
    (bar : Option Nat) (s : State),
    let c := s.me
    let runs (i : Instr) (opc : Nat) (r : Req) (eff : List Effect) : Prop :=
      ∃ t run, exec i s = .next t ∧ InFlight r s t eff .matrix ∧ t.me.matrix.run = some run ∧ run.opc = opc ∧
        run.bar = bar ∧ run.pc = s.sq.pc ∧ t.me.matrix.shape = c.matrix.shape ∧ t.me.tiles = c.tiles ∧
        t.me.spad = c.spad ∧ t.sq.s = s.sq.s ∧ t.dram = s.dram
    let both (x : Nat) : Bool := planeTagOk fmt.toNat (c.tile x).tag && planeTagOk fmt.toNat (c.tile (x + 1)).tag
    (let r := { scalarReq (.mshape cm shape) 0xB0 cm [] none with long := true, writes := [.shape] }
     Ready r s → Starts r s [.shape (shape ||| 0x8000000000000000#64)] .open_ .seq (exec (.mshape cm shape) s)) ∧
    (let ts := (List.range 4).map (acc.toNat + ·)
     let r := { scalarReq (.mzero cm acc bo) 0xB4 cm [bo] none with
                cls := 2, tiles := ts, hold := c.matrix.run.isSome, reads := [.shape]
                writes := ts.map .tile }
     Ready r s → c.barrierCheck bo (operand s [bo] 0) = .ok bar →
       runs (.mzero cm acc bo) 0xB4 r (.zzero acc.toNat 4 :: ts.map fun t => .tag t 1)) ∧
    (let r := planeReq (.mplane cm acc ga bo fmt block) 0xB5 cm acc ga bo (4 * digitsOf fmt.toNat) s
     Ready r s → both acc.toNat = true → c.barrierCheck bo (operand s [bo] 0) = .ok bar →
       c.planeEcc acc.toNat ga.toNat (4 * digitsOf fmt.toNat) = none →
       runs (.mplane cm acc ga bo fmt block) 0xB5 r
         ((c.planes acc.toNat fmt.toNat block.toNat).map fun l => .genLine ga.toNat l)) ∧
    (let r := planeReq (.mspack cm acc ga bo fmt group) 0xB6 cm acc ga bo
       (4 + (shNs w + 7) / 8 * digitsOf fmt.toNat) s
     Ready r s → c.matrix.shape = some w → s.sq.pending .shape = false → shSparse w = true → both acc.toNat = true →
       c.barrierCheck bo (operand s [bo] 0) = .ok bar →
       c.planeEcc acc.toNat ga.toNat (4 + (shNs w + 7) / 8 * digitsOf fmt.toNat) = none →
       runs (.mspack cm acc ga bo fmt group) 0xB6 r
         ((c.packed acc.toNat fmt.toNat group.toNat (shNs w)).1.map fun l => .genLine ga.toNat l)) ∧
    (let r := { scalarReq (.mstat cm d item) 0xB9 cm [] (some d) with reads := if item = 0 then [.shape] else [] }
     Ready r s → Starts r s (Spec.write s.who.y d
       (if item = 0 then c.matrix.shape.getD 0 else if item = 1 then mstatWord c.matrix else bindWord c.matrix))
       .open_ .seq (exec (.mstat cm d item) s))) ∧
  (∀ (cm : Common) (a : Spec) (role : BitVec 2) (b : Binding) (s : State),
    (let r := scalarReq (.oqbind cm a role) 0xB7 cm [a] none
     Ready r s → s.me.matrix.binding = some b → b.phase = 1 → b.orig = operand s [a] 0 → b.role = role.toNat →
     ∃ t, exec (.oqbind cm a role) s = .next t ∧ InFlight r s t [] .open_ ∧
       t.me.matrix = { s.me.matrix with binding := some { b with phase := 2 }, resume := t.me.matrix.resume } ∧
       t.me.tiles = s.me.tiles ∧ t.me.spad = s.me.spad ∧ t.sq.s = s.sq.s) ∧
    (let r := { scalarReq (.oqunbind cm) 0xB8 cm [] none with hold := s.me.matrix.run.isSome }
     let u := r.taken s
     Ready r s →
       (s.me.matrix.binding = some b → b.phase = 2 → u.jointsOpen s.who.core s.who.slot = false →
         Goes r s { s := u.leaveQuad s.who.core s.who.slot } (exec (.oqunbind cm) s)) ∧
       ((∀ x, s.me.matrix.binding = some x → x.phase ≠ 2) →
         exec (.oqunbind cm) s = .next (s.takeTrap { Trap.plain .queueFault with after := true }))))

/-- 11 R263 to R266: one unit of a multiply: every accumulator in the corner of M rows and N columns takes the terms
of the unit's blocks, from zero where an init pass begins and where its tile was not FP32; every other cell of a tile
that was FP32 stays; the touched tiles are FP32. 11 R264, R265, R278: how many blocks a unit takes: two under NBV 1
and for a sparse B where two are left, else one. -/
def Obligations.MatrixUnit : Prop :=
  (∀ (c : Ctx) (r : MatRun) (a b : Operand) (i j : Nat),
    let t := r.acc + 2 * (i / 64) + j / 64
    let c' := (c.matUnit r a b).1
    let old := if r.blocks = 0 ∧ (r.init = true ∨ (c.tile t).tag ≠ 1) then 0 else ((c.tile t).cell (i % 64) (j % 64)).toNat
    r.blocks < shBlocks r.shape → (r.blocks ≠ 0 → (c.tile t).tag = 1) →
    (i < shM r.shape → j < shN r.shape →
      (c'.tile t).cell (i % 64) (j % 64) = BitVec.ofNat 32 (unitCell c.nbv r.fz a b i j (r.unit c.nbv) old).1 ∧
      (c'.tile t).tag = 1) ∧
    (i < 128 → j < 128 → ¬ (i < shM r.shape ∧ j < shN r.shape) → (c.tile t).tag = 1 →
      (c'.tile t).cell (i % 64) (j % 64) = (c.tile t).cell (i % 64) (j % 64)) ∧
    (∀ n, n ∉ touched r.acc r.shape → c'.tile n = c.tile n) ∧
    (c.matUnit r a b).2.blocks = r.blocks + (r.unit c.nbv).length) ∧
  (∀ (r : MatRun) (nbv : Nat), r.blocks < shBlocks r.shape →
    (r.unit nbv).length =
      (if (nbv = 1 ∨ shSparse r.shape = true) ∧ r.blocks + 2 ≤ shBlocks r.shape then 2 else 1) ∧
    (r.unit nbv).head? = some r.blocks ∧ r.blocks + (r.unit nbv).length ≤ shBlocks r.shape)

/-- 11 R268, R278: MATRIX_COMPLETE takes a unit of the running multiply; after the last block, and for the other
matrix instructions at once, the instruction completes: its barrier object is written, its generators have gone past
its records, the engine is free, and it retires. 11 R268, R275: JOINT_OPERATION_START once the four members of a quad
have issued an MMAC of the same shape and number, whose tags and barrier pass: all four start. -/
def Obligations.MatrixCompletion : Prop :=
  (∀ (core slot : Nat) (r : MatRun) (p : Pending) (l : List Pending) (s : State),
    let c := s.ctx core slot
    let u := c.matUnit r (c.operandA s.free r) (c.operandB s.free r)
    let out := exec (.matrixComplete core slot 1 false) s
    c.bound = true → s.clocksRun = true → c.matrix.run = some r → r.started = true → c.powerHolds = false →
    ((r.opc = 0xB1 ∨ r.opc = 0xB2) → r.blocks < shBlocks r.shape → c.unitBad r true true = none →
      (u.2.blocks < shBlocks r.shape → ∃ t, out = .next t ∧
        t.ctx core slot = { u.1 with matrix := { u.1.matrix with run := some u.2 } } ∧ t.dram = s.dram) ∧
      (shBlocks r.shape ≤ u.2.blocks → c.seq.x.inflight = p :: l → p.gate = .matrix → p.effects = [] →
        ∃ t, out = .next t ∧
        (t.ctx core slot).matrix.run = none ∧ (t.ctx core slot).matrix.resume = none ∧
        (t.ctx core slot).seq.x.inflight = l ∧ t.dram = s.dram ∧
        ∀ a, r.bar = some a →
          (t.ctx core slot).spad.bytes.num (a + 8) 8 = (u.2.status core 0 true).toNat ∧
          (t.ctx core slot).spad.bytes.num a 8 = Nat.xor (c.spad.bytes.num a 8) 1)) ∧
    (0xB4 ≤ r.opc → r.opc ≤ 0xB6 → c.seq.x.inflight = p :: l → p.gate = .matrix → p.effects = [] →
        ∃ t, out = .next t ∧
      t.ctx core slot = c.matRetire core r false false p ∧ t.dram = s.dram)) ∧
  (∀ (core slot : Nat) (w : Word) (n : Nat) (s : State),
    let ms := s.quad core slot
    ms.length = 4 →
    (∀ m ∈ ms, ∃ r b, (s.ctx m.1 m.2).matrix.run = some r ∧ r.opc = 0xB3 ∧ r.started = false ∧
      r.shape.setWidth 37 = w.setWidth 37 ∧ (s.ctx m.1 m.2).matrix.binding = some b ∧ b.joints = n ∧
      (s.ctx m.1 m.2).runTrap r = none) →
    ∃ t, exec (.jointOperationStart core slot) s = .next t ∧
      (∀ m ∈ ms, ∃ r, (s.ctx m.1 m.2).matrix.run = some r ∧
        (t.ctx m.1 m.2).matrix.run = some { r with started := true } ∧
        (t.ctx m.1 m.2).tiles = (s.ctx m.1 m.2).tiles) ∧
      t.dram = s.dram)

/-- 12 R299 to R302: FEEDPOP takes the oldest record of its queue at its issue, for the scratchpad and its destination
at its retire, and marks the sibling of a continuation as held; FEEDPUSH appends a record and gives its number,
submits a launch, or gives all ones where a full queue is not waited for; FEEDSTAT reads Table 12.8. When a pop claims
its entry is log entry 47. -/
def Obligations.FeedInstructions : Prop :=
  ∀ (cm : Common) (d a : Spec) (f : BitVec 4) (nowait : Bool) (q pa : Nat) (s v : State) (x : BRec) (l : List BRec)
    (bs : List Byte),
    (let r := { scalarReq (.feedpop cm d f a) 0xC0 cm [a] (some d) with writes := [.all] }
     let u := r.taken s
     let ra := (operand s [a] 0).toNat
     let va := recField x.bytes 8 8
     let at_ := pa + 640 + 4 * (recField x.bytes 1 1 % 64)
     let pops (t : State) : Prop := exec (.feedpop cm d f a) s = .next t ∧
       InFlight r s t (.spad ra x.bytes :: Spec.write s.who.y d (BitVec.ofNat 64 (recField x.bytes 0 8))) .open_ ∧
       (t.queue q).recs = l ∧ (∀ n, n ≠ q → t.queue n = s.queue n) ∧ t.me.spad = s.me.spad ∧ t.sq.s = s.sq.s
     Ready r s → u.handleQueue f.toNat [0] = some q → (s.queue q).recs = x :: l → u.firstInLine q s.myKey = true →
     s.mayRun s.me.guest = true → s.me.spadCheck ra 64 64 = none →
     (recField x.bytes 0 1 ≠ 1 → ∃ t, pops t ∧ t.dram = s.dram) ∧
     (recField x.bytes 0 1 = 1 → va % 1024 = 0 → u.reachXlat false .write va 1 = .ok v pa 0 → fitted pa = true →
       v.dram.groupBit pa 0 = true → v.dram.sibling pa (recField x.bytes 1 1 % 64) % 4 = 0 → v.locked pa = false →
       ∃ t, pops t ∧
         t.dram.bytes.num at_ 4 = (v.dram.sibling pa (recField x.bytes 1 1 % 64) % 8 + 8 +
           (s.who.core + s.who.slot * 2 ^ 6) * 2 ^ 4) % 2 ^ 32 ∧
         (∀ y, (y < at_ ∨ at_ + 4 ≤ y) → t.dram.bytes.byte y = s.dram.bytes.byte y) ∧
         (pa, recField x.bytes 1 1 % 64) ∈ t.me.tasks.siblings)) ∧
    (let r := scalarReq (.feedpush cm d f a nowait) 0xC1 cm [a] (some d)
     let u := r.taken s
     let x := s.queue q
     Ready r s → u.handleQueue f.toNat [0, 2] = some q → u.readRecord (operand s [a] 0) 64 64 = .ok bs →
     (x.room 1 = true → x.kind = 0 → ∃ t, exec (.feedpush cm d f a nowait) s = .next t ∧
       InFlight r s t (Spec.write s.who.y d (BitVec.ofNat 64 x.seq)) .open_ ∧
       (t.queue q).recs = x.recs ++ [⟨leBytes 8 (s.me.guest * 2 ^ 16 + x.seq * 2 ^ 32) ++ bs.drop 8,
         u.carry2, 0, x.owner, 0⟩] ∧
       (t.queue q).seq = (x.seq + 1) % 2 ^ 32 ∧ (∀ n, n ≠ q → t.queue n = s.queue n) ∧ t.dram = s.dram) ∧
     (x.room 1 = true → x.kind = 2 → ∃ t, exec (.feedpush cm d f a nowait) s = .next t ∧
       InFlight r s t (Spec.write s.who.y d 0) .open_ ∧
       (t.queue q).recs = x.recs ++ [⟨bs, u.carry2, s.ceiling s.me.guest, s.me.guest, 0⟩] ∧
       (∀ n, n ≠ q → t.queue n = s.queue n) ∧ t.dram = s.dram) ∧
     (x.room 1 = false → nowait = true → Starts r s (Spec.write s.who.y d (BitVec.allOnes 64)) .open_ .seq
       (exec (.feedpush cm d f a nowait) s))) ∧
    (let r := scalarReq (.feedstat cm d f) 0xC2 cm [] (some d)
     let u := r.taken s
     let x := s.queue q
     Ready r s → u.handleQueue f.toNat [0, 2] = some q →
     Starts r s (Spec.write s.who.y d (BitVec.ofNat 64 (x.recs.length + (x.capM1 + 1) * 2 ^ 24 +
       u.sleepers q % 2 ^ 8 * 2 ^ 48 + (if x.kind = 2 then 2 ^ 63 else 0)))) .open_ .seq
       (exec (.feedstat cm d f) s))

/-- 12 R303 to R306: TASKPUSH registers a task under an id, ready at once where it depends on nothing; TASKPOP takes
the next task; TASKDONE of one without a signal ends it, or marks it to be popped again; SLEEP reads what is ready. 12
R294, R303: the signal of a task: TASKDONE adds 1 to the counter in device memory, and nothing else there changes. The
id of a task is a free value (log entry 38). -/
def Obligations.TaskInstructions : Prop :=
  (∀ (cm : Common) (d a : Spec) (f : BitVec 4) (mask : BitVec 16) (task : Bool) (q n pa0 pa1 pa2 : Nat)
    (s v w x : State) (bs : List Byte),
    (let r := scalarReq (.taskpush cm d f a) 0xC3 cm [a] (some d)
     let u := r.taken s
     let k := taskRec bs
     let counts (used : Bool) (va : Nat) (y z : State) (p : Nat) : Prop :=
       if used then va % 8 = 0 ∧ y.reachXlat false .write va 1 = .ok z p 0 ∧ fitted p = true else z = y ∧ p = 0
     Ready r s → u.handleQueue f.toNat [1] = some q → u.readRecord (operand s [a] 0) 128 128 = .ok bs →
     taskReserved bs = false → s.handlerRuns s.me.guest k.handler = true →
     counts (decide (1 ≤ k.ndeps)) (recField bs 16 8) u v pa0 →
     counts (decide (2 ≤ k.ndeps)) (recField bs 32 8) v w pa1 → counts k.sig k.sigAddr w x pa2 →
     (x.queue q).room 1 = true →
     ∃ (t : State) (id : Nat) (j : Task), exec (.taskpush cm d f a) s = .next t ∧ id < 2 ^ 32 ∧
       InFlight r s t (Spec.write s.who.y d (BitVec.ofNat 64 id)) .open_ ∧ t.tasks.find x.nextUid = some j ∧
       j.bytes = withId bs id ∧ j.queue = q ∧ j.guest = s.me.guest ∧ j.dep0 = pa0 ∧ j.dep1 = pa1 ∧ j.held = false ∧
       (j.readyAt.isSome = true ↔ k.ndeps = 0) ∧ (t.queue q).recs.length = (x.queue q).recs.length + 1 ∧
       (∀ m, m ≠ x.nextUid → t.tasks.find m = x.tasks.find m) ∧ t.dram.bytes = s.dram.bytes) ∧
    (let r := { scalarReq (.taskpop cm d a) 0xC4 cm [a] (some d) with writes := [.all, .sr 0x2000] }
     let j := s.tasks.get default n
     let ra := (operand s [a] 0).toNat
     Ready r s → (s.me.tasks.current = none ∨ s.me.tasks.rerun = true) → s.me.tasks.next = some n →
     s.mayRun s.me.guest = true → s.me.spadCheck ra 128 64 = none →
     ∃ t, exec (.taskpop cm d a) s = .next t ∧
       InFlight r s t (.spad ra j.bytes :: .task n :: Spec.write s.who.y d (BitVec.ofNat 64 (recField j.bytes 0 8)))
         .open_ ∧
       t.me.tasks.buffer = (if s.me.tasks.rerun then s.me.tasks.buffer else s.me.tasks.buffer.tail) ∧
       t.tasks = s.tasks ∧ t.me.spad = s.me.spad ∧ t.sq.s = s.sq.s ∧ t.dram = s.dram) ∧
    (let r := { scalarReq (.taskdone cm task) 0xC5 cm [] none with reads := [.sr 0x2000] }
     let j := s.tasks.get default n
     Ready r s → s.me.tasks.current = some n →
     (task = true → ∃ t, exec (.taskdone cm task) s = .next t ∧ InFlight r s t [] .open_ ∧
       t.me.tasks.rerun = true ∧ t.me.tasks.current = some n ∧ t.tasks = s.tasks ∧ t.dram = s.dram) ∧
     (task = false → (taskRec j.bytes).sig = false → ∃ t, exec (.taskdone cm task) s = .next t ∧
       InFlight r s t [] .open_ ∧ t.me.tasks.current = none ∧ t.me.tasks.rerun = false ∧ t.tasks.find n = none ∧
       t.dram = s.dram)) ∧
    (let r := { scalarReq (.sleep cm d mask task) 0xC6 cm [] (some d) with reads := if task then [.sr 0x2000] else [] }
     let u := r.taken s
     let full (n : Nat) : Prop := mask.getLsbD n = true ∧ ∃ q, u.handleQueue n [0] = some q ∧ (s.queue q).recs ≠ []
     let popping : Prop := task = true ∧ s.me.tasks.next ≠ none
     Ready r s → (∀ n, n < 16 → mask.getLsbD n = true → u.handleQueue n [0] ≠ none) →
     (popping ∨ ∃ n, n < 16 ∧ full n) →
     ∃ v, Starts r s (Spec.write s.who.y d v) .open_ .seq (exec (.sleep cm d mask task) s) ∧
       (∀ n, n < 16 → (v.getLsbD n = true ↔ full n)) ∧ (v.getLsbD 16 = true ↔ popping) ∧
       ∀ n, 16 < n → v.getLsbD n = false)) ∧
  (∀ (cm : Common) (n pa : Nat) (s v : State),
    let r := { scalarReq (.taskdone cm false) 0xC5 cm [] none with reads := [.sr 0x2000] }
    let u := r.taken s
    let k := taskRec (s.tasks.get default n).bytes
    Ready r s → s.me.tasks.current = some n → k.sig = true → s.me.stale 2 = false →
    u.reaches false .atomic k.sigAddr 8 v pa 0 → v.dram.badIn pa 8 = false → v.locked pa = false →
    ∃ t, exec (.taskdone cm false) s = .next t ∧ InFlight r s t [] .open_ ∧ t.me.tasks.current = none ∧
      t.dram.bytes.num pa 8 = (s.dram.bytes.num pa 8 + 1) % 2 ^ 64 ∧
      ∀ x, (x < pa ∨ pa + 8 ≤ x) → t.dram.bytes.byte x = s.dram.bytes.byte x)

/-- 12 R307, R308: FORK writes the group's descriptor and appends one record for each sibling, in their order. 12 R309
to R312: GARRIVE records the reward of a pending sibling, GCANCEL cancels a sibling that is pending or has arrived,
GWAIT gives the advantage of a finished group, GSTAT its first word; outside those fields no byte changes. Status bits
and cancelled records are log entry 49. -/
def Obligations.GroupInstructions : Prop :=
  (∀ (cm : Common) (d a : Spec) (f : BitVec 4) (q pa : Nat) (s v : State) (bs : List Byte),
    let r := scalarReq (.fork cm d f a) 0xC7 cm [a] (some d)
    let u := r.taken s
    let w := recField bs 72 8
    let k := w % 128
    let x := v.queue q
    Ready r s → u.handleQueue f.toNat [0] = some q → u.readRecord (operand s [a] 0) 128 64 = .ok bs →
    forkBad w (recField bs 64 8) = false → u.reachXlat false .write (recField bs 64 8) 1 = .ok v pa 0 →
    fitted pa = true → v.dram.groupBit pa 0 = false → x.room k = true → v.locked pa = false →
    ∃ t, exec (.fork cm d f a) s = .next t ∧
      InFlight r s t (Spec.write s.who.y d (BitVec.ofNat 64 x.seq)) .open_ ∧ t.groups.find pa = some 0 ∧
      t.dram.bytes.read pa 1024 = groupBytes w (recField bs 80 4) s.me.guest ∧
      (∀ y, (y < pa ∨ pa + 1024 ≤ y) → t.dram.bytes.byte y = s.dram.bytes.byte y) ∧
      (t.queue q).recs.length = x.recs.length + k ∧
      (∀ n, n < x.recs.length → (t.queue q).recs[n]? = x.recs[n]?) ∧
      (∀ i, i < k → ∃ y, (t.queue q).recs[x.recs.length + i]? = some y ∧ recField y.bytes 0 1 = 1 ∧
        recField y.bytes 1 1 = i ∧ y.bytes.drop 8 = leBytes 8 (recField bs 64 8) ++ (bs.drop 16).take 48) ∧
      ∀ n, n ≠ q → t.queue n = v.queue n) ∧
  (∀ (cm : Common) (d a idx rew : Spec) (pa i : Nat) (s v : State),
    let ok (load : Bool) (r : Req) (ea : Word) : Prop :=
      Ready r s ∧ (r.taken s).reachXlat load (if load then .read else .write) ea.toNat 1 = .ok v pa 0 ∧ fitted pa = true ∧
      ea.toNat % 1024 = 0 ∧ v.dram.badIn pa 1024 = false ∧ v.dram.bytes.num (pa + 32) 1 = s.me.guest ∧
      (load = false → v.locked pa = false)
    let b := s.dram.bytes
    (let r := scalarReq (.garrive cm a idx rew) 0xC8 cm [a, rew, idx] none
     let x := (operand s [a, rew, idx] 1).toNat % 2 ^ 32
     ok false r (operand s [a, rew, idx] 0) → operand s [a, rew, idx] 2 = BitVec.ofNat 64 i → i < v.dram.groupK pa →
     i < 64 → v.dram.groupBit pa 0 = true → v.dram.groupBit pa 1 = false → v.dram.pending pa i = true →
     ∃ t, exec (.garrive cm a idx rew) s = .next t ∧ InFlight r s t [] .open_ ∧
       t.dram.bytes.num (pa + 128 + 4 * i) 4 = x ∧
       t.dram.bytes.num (pa + 640 + 4 * i) 4 = (if fp32Special x then 5 else 1) ∧
       t.dram.bytes.num (pa + 8) 8 = b.num (pa + 8) 8 ||| 2 ^ i ∧
       ∀ y, (y < pa + 8 ∨ pa + 16 ≤ y) → (y < pa + 128 + 4 * i ∨ pa + 132 + 4 * i ≤ y) →
         (y < pa + 640 + 4 * i ∨ pa + 644 + 4 * i ≤ y) → t.dram.bytes.byte y = b.byte y) ∧
    (let r := scalarReq (.gcancel cm a idx) 0xCA cm [a, idx] none
     ok false r (operand s [a, idx] 0) → operand s [a, idx] 1 = BitVec.ofNat 64 i → i < v.dram.groupK pa →
     i < 64 → v.dram.groupBit pa 0 = true → v.dram.groupBit pa 1 = false → v.dram.sibling pa i % 4 ≤ 1 →
     ∃ t, exec (.gcancel cm a idx) s = .next t ∧ InFlight r s t [] .open_ ∧
       t.dram.bytes.num (pa + 640 + 4 * i) 4 = 2 + v.dram.sibling pa i / 4 % 2 * 4 ∧
       t.dram.bytes.num (pa + 16) 8 = b.num (pa + 16) 8 ||| 2 ^ i ∧
       ∀ y, (y < pa + 16 ∨ pa + 24 ≤ y) → (y < pa + 640 + 4 * i ∨ pa + 644 + 4 * i ≤ y) →
         t.dram.bytes.byte y = b.byte y) ∧
    (let r := scalarReq (.gwait cm d a idx) 0xC9 cm [a, idx] (some d)
     ok true r (operand s [a, idx] 0) → operand s [a, idx] 1 = BitVec.ofNat 64 i → i < v.dram.groupK pa →
     v.dram.groupBit pa 1 = true →
     ∃ t, exec (.gwait cm d a idx) s = .next t ∧
       InFlight r s t (Spec.write s.who.y d (BitVec.ofNat 64 (b.num (pa + 384 + 4 * i) 4))) .open_ ∧
       t.dram.bytes = b) ∧
    (let r := scalarReq (.grpstat cm d a) 0xCB cm [a] (some d)
     ok true r (operand s [a] 0) → (v.dram.groupBit pa 0 = true ∨ v.dram.groupBit pa 1 = true) →
     ∃ t, exec (.grpstat cm d a) s = .next t ∧
       InFlight r s t (Spec.write s.who.y d (BitVec.ofNat 64 (b.num pa 8))) .open_ ∧ t.dram.bytes = b))

/-- 13 R323, R327 to R329: PWRACQ of a level that its context holds changes nothing; of one that its share cannot
cover without waiting it gives 0x10 more than the level held; of one whose units are there it takes them, and G rises
at the retire. PWRREL lowers G and A and waits for what is above. PWRQ reads a word. 13 R321, Table 13.2: a core's
charge rises with its level, its frequency and its voltage. The order in which units are taken is log entry 53. -/
def Obligations.PowerInstructions : Prop :=
  (∀ (cm : Common) (d : Spec) (level : BitVec 4) (nowait : Bool) (item : BitVec 2) (s : State),
    let core := s.who.core
    let slot := s.who.slot
    let g := s.me.power.g
    let n := level.toNat
    (let r := { scalarReq (.pwracq cm d level nowait) 0xD0 cm [] (some d) with
                check := if s.me.powerMax < n then some (Trap.plain .powerOver) else none, reads := [.sr 6]
                hold := s.me.grantPending s.who.y }
     let u := r.taken s
     let extra := u.extraFor core slot n
     let ours : Prop := s.me.power.given = some s.who.y ∧ (s.who.y, n) ∈ s.me.power.waits
     Ready r s →
     (n ≤ g → Starts r s (Spec.write s.who.y d (BitVec.ofNat 64 g)) .open_ .seq (exec (.pwracq cm d level nowait) s)) ∧
     (g < n → (ours ∨ extra = 0) →
       Starts r s (.power s.who.y n :: Spec.write s.who.y d (BitVec.ofNat 64 n)) .open_ .seq
         (exec (.pwracq cm d level nowait) s)) ∧
     (¬ ours → g < n → extra ≤ u.share s.me.part - u.base s.me.part → 0 < extra → nowait = true →
       (∀ p, u.power.reqs.any u.grantable = false → u.planNow s.me.part extra = some p →
         Goes r s { s := u.take (core * 4 + slot) p
                    eff := .power s.who.y n :: Spec.write s.who.y d (BitVec.ofNat 64 n) }
           (exec (.pwracq cm d level nowait) s)) ∧
       (u.power.reqs.any u.grantable = true ∨ u.planNow s.me.part extra = none →
         Starts r s (Spec.write s.who.y d (BitVec.ofNat 64 (g + 0x10))) .open_ .seq
           (exec (.pwracq cm d level nowait) s)))) ∧
    (let r := { scalarReq (.pwrrel cm level) 0xD1 cm [] none with reads := [.sr 6], writes := [.sr 6] }
     let u := r.taken s
     let m := max n 4
     Ready r s →
     (g ≤ m → Starts r s [] .open_ .seq (exec (.pwrrel cm level) s)) ∧
     (m < g → Goes r s
       { s := u.setMe { u.me with power := { s.me.power with g := m, a := m } }, gate := .lower m }
       (exec (.pwrrel cm level) s))) ∧
    (let r := { scalarReq (.pwrq cm d item) 0xD2 cm [] (some d) with reads := [.sr 6] }
     let u := r.taken s
     Ready r s → Starts r s (Spec.write s.who.y d
       (if item = 0 then u.powerWord core slot else if item = 1 then u.partWord s.me.part
        else s.clkWord (clusterOf core))) .open_ .seq (exec (.pwrq cm d item) s))) ∧
  (∀ (l l' f f' v v' : Nat), l ≤ l' → f ≤ f' → v ≤ v' → charge l f v ≤ charge l' f' v')

/-- 14 R339, R344: taking a trap in a context whose issued instructions have retired, with a handler and outside it:
TRAP.PC takes the four addresses, TRAP.CAUSE the cause, TRAP.ADDR its address, TRAP.INFO names the sequencer; C's loop
stack goes to the shadow, and C goes on at TRAP.VEC in handler mode. Nothing else of the context changes. A TRAP.VEC
above the virtual addresses is a fetch fault at once, and a pre-emption that came with the trap stops the context then
(R341). 14 R342, R343, Table 14.1: a cause goes to the handler where there is one and the context is outside it; a
fault of stage 2 goes to firmware with the context saved, unless it is one of key; without a handler, or inside it,
any other cause is fatal, and so is an uncorrectable word. -/
def Obligations.TrapsTaken : Prop :=
  (∀ (c : Ctx) (y : Sq) (t : Trap),
    c.quiet = true → c.delivery t = .handler →
    let u := c.takeTrap y t
    u.handler = true ∧ u.trapCause = t.cause.code ∧ u.trapAddr = t.addr ∧ u.trapInfo = t.info y false ∧
    (u.trapInfo.extractLsb' 8 2).toNat = y.num ∧
    ((∀ x, t.x = some x → x.level < 8 ∧ x.fault < 8) → u.trapInfo.extractLsb' 32 16 = t.code) ∧
    (∀ z, u.trapPc.get z = (c.seq.get z).pc) ∧
    u.shadow = c.seq.c.loops ∧ u.shadowEnded = c.seq.c.ended ∧ u.seq.c.pc = c.trapVec.setWidth 57 ∧ u.seq.c.loops = [] ∧
    u.seq.c.ended = false ∧ u.seq.c.s = c.seq.c.s ∧ u.seq.c.k = c.seq.c.k ∧ u.seq.c.b = c.seq.c.b ∧
    u.seq.l = c.seq.l ∧ u.seq.x = c.seq.x ∧ u.seq.s = c.seq.s ∧
    u.stop = (if 2 ^ 57 ≤ c.trapVec.toNat then some (.trap .c (vecFault c.trapVec)) else c.late.map fun w => .preempt w.1) ∧
    u.spad = c.spad ∧ u.tiles = c.tiles ∧
    u.toks = c.toks ∧ u.data = c.data ∧ u.bos = c.bos ∧ u.trapVec = c.trapVec ∧ u.power = c.power) ∧
  (∀ (c : Ctx) (t : Trap),
    (t.cause = .eccUncorr → c.delivery t = .fatal) ∧
    (t.cause ≠ .eccUncorr → t.fatal = false → t.x = none → c.trapVec ≠ 0 → c.handler = false →
      c.delivery t = .handler) ∧
    (t.x = none → (c.trapVec = 0 ∨ c.handler = true) → c.delivery t = .fatal) ∧
    (t.cause ≠ .eccUncorr → t.fatal = false → (∀ x, t.x = some x → x.stage2 = false ∧ x.fault < 4 ∧ x.level < 8) →
      (c.trapVec = 0 ∨ c.handler = true) →
      c.delivery t = .fatal ∧ c.nested t = true ∧ ∀ y, (t.info y (c.nested t)).getLsbD 21 = true) ∧
    (∀ x y, t.cause ≠ .eccUncorr → t.fatal = false → t.x = some x → x.stage2 = true → x.fault < 4 → x.level < 8 → c.handler = true →
      c.delivery t = .resumable ∧ (t.info y (c.nested t)).getLsbD 21 = false) ∧
    (∀ x, t.cause ≠ .eccUncorr → t.fatal = false → t.x = some x → x.stage2 = true → x.fault ≠ 4 →
      c.delivery t = .resumable) ∧
    ∀ x, t.x = some x → x.fault = 4 → c.delivery t = .fatal)

/-- 02 R44: of the checks before issue the first that fails names the trap: the sequencer, the encoding, the mode,
BRK, tiles, generators, the instruction's own check, the power level. 02 R28, R44, 14 R339: a word that traps before
issue changes nothing but what taking the trap changes. -/
def Obligations.TrapOrder : Prop :=
  (∀ (r : Req) (c : Ctx) (y : Sq),
    (permitted r.opc y = false → r.preTrap c y = some (Trap.plain .illegalSeq)) ∧
    (permitted r.opc y = true → r.encOk y = false → r.preTrap c y = some (Trap.plain .illegalEnc)) ∧
    (permitted r.opc y = true → r.encOk y = true → r.priv = true → r.preTrap c y = some (Trap.plain .priv)) ∧
    (permitted r.opc y = true → r.encOk y = true → r.priv = false → r.brk = none →
      (∃ t ∈ r.tiles, c.tilesN ≤ t) → r.preTrap c y = some (Trap.plain .tileRange)) ∧
    (permitted r.opc y = true → r.encOk y = true → r.priv = false → r.brk = none → (∀ t ∈ r.tiles, t < c.tilesN) →
      ((∃ u ∈ r.gens, u.ok c (c.seq.get y) = false) → r.preTrap c y = some (Trap.plain .genFault)) ∧
      ((∀ u ∈ r.gens, u.ok c (c.seq.get y) = true) →
        (∀ t, r.check = some t → r.preTrap c y = some t) ∧
        (r.check = none → c.power.g < r.cls → (c.seq.get y).pending (.sr 6) = false →
          r.preTrap c y = some (Trap.plain .powerOver)) ∧
        (r.check = none → r.cls ≤ c.power.g → r.preTrap c y = none)))) ∧
  (∀ (r : Req) (body : State → List Word → List LineBits → Result) (s : State) (t : Trap),
    r.preTrap s.me s.who.y = some t → issue r body s = .next (s.takeTrap t) ∧ OnlyMe s (s.takeTrap t))

/-- 14 R347 to R350: TRAP and BRK enter the handler, TRAP with TRAP.PC at the next word and its operand in TRAP.ADDR,
BRK with TRAP.PC at itself; HCALL stops its context, issued. A BRK that goes to the debugger halts its context. 14
R347, R351: TRET in handler mode, with nothing of C in flight: handler mode ends, each sequencer goes on at its
TRAP.PC, and C's loop stack comes back. Outside handler mode it is PRIV. Level 7 in TRAP.INFO of these traps is the
model's reading (log entry 22), and so is the loop decision of TRAP (88). -/
def Obligations.TrapsCalled : Prop :=
  (∀ (cm : Common) (a : Spec) (d : BitVec 5) (code : BitVec 16) (s : State),
    (let r := scalarReq (.trap cm a code) 0xE0 cm [a] none
     Ready r s → s.me.quiet = true → s.me.trapVec ≠ 0 → s.me.handler = false →
     ∃ t, exec (.trap cm a code) s = .next t ∧ OnlyMe s t ∧ t.me.handler = true ∧ t.me.trapCause = 0x40 ∧
       t.me.trapAddr = operand s [a] 0 ∧ t.me.trapPc.get s.who.y = s.sq.pc + 8 ∧
       t.me.trapInfo = BitVec.ofNat 64 (s.who.y.num * 2 ^ 8 + 2 ^ 10 + 7 * 2 ^ 13 + code.toNat * 2 ^ 32) ∧
       t.me.seq.c.pc = s.me.trapVec.setWidth 57 ∧ t.me.data = s.me.data ∧ t.sq.s = s.sq.s ∧ t.me.spad = s.me.spad) ∧
    (let r : Req := { opc := 0xE1, cm := cm, wf := (Instr.brk cm code).wellFormed, brk := some code }
     r.encOk s.who.y = true →
     (s.breaksOut = false → ∃ x, exec (.brk cm code) s = .next (s.takeTrap x) ∧ x.cause = .brk ∧ x.code = code ∧
       x.after = false) ∧
     (s.breaksOut = false → s.me.quiet = true → s.me.trapVec ≠ 0 → s.me.handler = false →
       ∃ t, exec (.brk cm code) s = .next t ∧ OnlyMe s t ∧ t.me.handler = true ∧ t.me.trapCause = 0x41 ∧
         t.me.trapPc.get s.who.y = s.sq.pc ∧
         t.me.trapInfo = BitVec.ofNat 64 (s.who.y.num * 2 ^ 8 + 7 * 2 ^ 13 + code.toNat * 2 ^ 32) ∧
         t.me.seq.c.pc = s.me.trapVec.setWidth 57 ∧ t.sq.s = s.sq.s ∧ t.me.data = s.me.data ∧ t.me.toks = s.me.toks ∧
         t.me.bos = s.me.bos ∧ t.me.gens = s.me.gens) ∧
     (s.breaksOut = true → ∃ t, exec (.brk cm code) s = .next t ∧ t.me.halted = true ∧ t.me.trapCause = 0x41 ∧
       t.me.trapPc.get s.who.y = s.sq.pc ∧ t.me.trapInfo.extractLsb' 32 16 = code ∧
       t.me.seq = s.me.seq ∧ t.me.data = s.me.data ∧ t.me.toks = s.me.toks ∧ t.me.bos = s.me.bos ∧
       t.me.gens = s.me.gens)) ∧
    (let r := scalarReq (.hcall cm d a code) 0xE2 cm [a] none
     Ready r s → ∃ t, exec (.hcall cm d a code) s = .next t ∧ InFlight r s t [] .open_ ∧
       t.me.stop = some (.hcall code (operand s [a] 0) d.toNat) ∧ t.sq.s = s.sq.s ∧ t.me.spad = s.me.spad)) ∧
  (∀ (cm : Common) (s : State),
    let r := { scalarReq (.tret cm) 0xE3 cm [] none with priv := !s.me.handler, hold := !s.sq.inflight.isEmpty }
    (Ready r s → s.me.handler = true ∧
      ∃ t, exec (.tret cm) s = .next t ∧ OnlyMe s t ∧ t.me.handler = false ∧ t.me.shadow = [] ∧
        (∀ z, (t.me.seq.get z).pc = s.me.trapPc.get z) ∧ t.me.seq.c.loops = s.me.shadow ∧
        (∀ z, (t.me.seq.get z).s = (s.me.seq.get z).s ∧ (t.me.seq.get z).k = (s.me.seq.get z).k ∧
          (t.me.seq.get z).b = (s.me.seq.get z).b) ∧
        t.me.trapPc = s.me.trapPc ∧ t.me.trapCause = s.me.trapCause ∧ t.me.spad = s.me.spad ∧
        (∀ z, s.me.seq.c.pts ≤ (t.me.seq.get z).pts)) ∧
    (s.who.y = .c → r.encOk .c = true → s.me.handler = false →
      exec (.tret cm) s = .next (s.takeTrap (Trap.plain .priv))))

/-- 14 R352 to R355: BUDGET sets the budget at its retire, saturated, and reads the old one then; DISCARD marks at its
retire; IFENCE empties the code ring; YIELD goes on where nothing waits for its slot, and stops its context where
something does. -/
def Obligations.SystemInstructions : Prop :=
  ∀ (cm : Common) (a d : Spec) (n : BitVec 28) (kind : BitVec 2) (s : State),
    (let r := scalarReq (.budget cm d a n) 0xE4 cm [a] (some d)
     Ready r s → Starts r s [.budget (min ((operand s [a] 0).toNat + n.toNat) (2 ^ 48 - 1)) d] .open_ .seq
       (exec (.budget cm d a n) s)) ∧
    (let r := scalarReq (.discard cm a d kind) 0xE5 cm [a, d] none
     let t := (operand s [a, d] 0).toNat
     let k := (operand s [a, d] 1).toNat
     Ready r s → (kind = 0 → k = 0 ∨ t + k ≤ s.me.tilesN) →
     (kind = 1 → (k = 0 ∨ s.me.allocatedRange t k = true) ∧ t % 512 = 0 ∧ k % 512 = 0) →
       Starts r s [.discard kind.toNat t k] .open_ .seq (exec (.discard cm a d kind) s)) ∧
    (let r := { scalarReq (.ifence cm) 0xE6 cm [] none with hold := s.storesOut }
     Ready r s → ∃ t, exec (.ifence cm) s = .next t ∧ InFlight r s t [] .open_ ∧ t.sq.ring = [] ∧
       t.me.rest = (s.me.endRequest s.who.y).rest ∧ t.sq.s = s.sq.s ∧ Flows s t false .seq) ∧
    (let r := scalarReq (.yield cm) 0xE7 cm [] none
     let u := r.taken s
     Ready r s →
     (u.waiter s.who.core s.who.slot = none → Starts r s [] .open_ .seq (exec (.yield cm) s)) ∧
     (u.waiter s.who.core s.who.slot ≠ none → ∃ t, exec (.yield cm) s = .next t ∧ InFlight r s t [] .open_ ∧
       t.me.stop = some (.preempt .yield)))

/-- 15 R381: an exception of a scheduler core writes mepc, mcause and mtval and goes on at mtvec. How mstatus changes
is the model's choice (log entry 13), of which nothing is said here. 15 R383 to R385: BFEXT extracts a field; SWAIT
gives what it finds; PCLR clears a ring's pending bit and age, behind the ageing ticks that are due. 15 R382: RFETCH
of a bound ring with an entry to read puts its 64 bytes in the slot's buffer, moves the head on, and gives the entry's
index; of one without it gives all ones; where the read fails it is exception 24, and the head stays. That the entry
goes on at mtvec is presumed from RISC-V (log entry 13). -/
def Obligations.SchedulerWords : Prop :=
  (∀ (s : State) (cause : Nat) (v : Word), ∃ t, s.raise cause v = .next t ∧ t.fwMe.mepc = s.fwMe.pc ∧
    t.fwMe.mcause = BitVec.ofNat 64 cause ∧ t.fwMe.mtval = v ∧ t.fwMe.pc = s.fwMe.mtvec &&& ~~~3#64 ∧
    t.fwMe.x = s.fwMe.x ∧ (∀ k, k ≠ s.fw → t.fwCore k = s.fwCore k) ∧ t.rings = s.rings ∧ t.ctxs = s.ctxs) ∧
  (∀ (rd rs1 rs2 : BitVec 5) (s : State),
    (let v := s.fwMe.reg rs2
     let pos := (v.extractLsb' 0 6).toNat
     let n := (v.extractLsb' 6 6).toNat + 1
     let x := ((s.fwMe.reg rs1) >>> pos).setWidth n
     (v.toNat < 2 ^ 13 → pos + n ≤ 64 →
       ∃ t, exec (.bfext rd rs1 rs2) s = .next t ∧
         FwEnds s t rd (if v.getLsbD 12 then x.signExtend 64 else x.setWidth 64) ∧ t.fwMe.sram = s.fwMe.sram ∧
         t.rings = s.rings) ∧
     ((2 ^ 13 ≤ v.toNat ∨ 64 < pos + n) → ∃ t w, exec (.bfext rd rs1 rs2) s = .next t ∧
         encodeFw (.bfext rd rs1 rs2) = some w ∧ t.fwMe.mcause = 2 ∧ t.fwMe.mtval = w.setWidth 64 ∧
         t.fwMe.mepc = s.fwMe.pc ∧ t.fwMe.x = s.fwMe.x ∧ t.fwMe.sram = s.fwMe.sram ∧ t.rings = s.rings)) ∧
    (let g := s.fwMe.reg rs1
     let w := (if g = 31 then s.ownWord s.fw else s.pendingOf g.toNat) &&& s.fwMe.reg rs2
     (g = 31 ∨ (g.toNat ≤ 24 ∧ s.routeOf g.toNat = s.fw)) → w ≠ 0 →
       ∃ t, exec (.swait rd rs1 rs2) s = .next t ∧ FwEnds s t rd w ∧ t.fwMe.sram = s.fwMe.sram ∧ t.rings = s.rings) ∧
    (let n := (s.fwMe.reg rs1).toNat
     n < 1600 → ∃ t, exec (.pclr rs1) s = .next t ∧ FwEnds s t 0 0 ∧
       t.ring n = { s.ring n with pending := false, age := 0 } ∧ (∀ m, m ≠ n → t.ring m = s.aged.ring m) ∧
       t.fwMe.sram = s.fwMe.sram)) ∧
  (∀ (rd rs1 : BitVec 5) (k : RSlot) (s v : State) (bs : List Byte),
    let slot := (s.fwMe.reg rs1).toNat
    slot < 16 → s.fwMe.slots.find slot = some k →
    let r := s.ring k.ring
    r.tail < 2 ^ r.size →
    (r.head = r.tail → ∃ t, exec (.rfetch rd rs1) s = .next t ∧ FwEnds s t rd (BitVec.allOnes 64) ∧
      t.rings = s.rings ∧ t.fwMe.sram = s.fwMe.sram) ∧
    (r.head ≠ r.tail → s.readCommand k.ring (r.base.toNat + 64 * r.head) = .ok v bs → bs.length = 64 →
      ∃ t, exec (.rfetch rd rs1) s = .next t ∧ FwEnds s t rd (BitVec.ofNat 64 r.head) ∧
        t.ring k.ring = { r with head := (r.head + 1) % 2 ^ r.size } ∧ (∀ n, n ≠ k.ring → t.ring n = s.ring n) ∧
        t.fwMe.sram.read (0xFFC00 + 64 * slot) 64 = bs ∧
        (∀ x, (x < 0xFFC00 + 64 * slot ∨ 0xFFC00 + 64 * slot + 64 ≤ x) →
          t.fwMe.sram.byte x = s.fwMe.sram.byte x) ∧
        t.dram.bytes = s.dram.bytes) ∧
    (∀ host, r.head ≠ r.tail → s.readCommand k.ring (r.base.toNat + 64 * r.head) = .bad v host →
      ∃ t, exec (.rfetch rd rs1) s = .next t ∧ t.fwMe.mcause = 24 ∧
        t.fwMe.mtval = BitVec.ofNat 64 ((r.base.toNat + 64 * r.head) % 2 ^ 63 + bitNum host * 2 ^ 63) ∧
        t.fwMe.mepc = s.fwMe.pc ∧ t.fwMe.x = s.fwMe.x ∧ t.rings = s.rings ∧ t.fwMe.sram = s.fwMe.sram))

/-- 15 R386: DISPATCH of a record to an enabled queue of the named guest with room appends it: to a feed queue with
its number as the result, to a launch queue at a priority no higher than the guest's ceiling, with 0. -/
def Obligations.Dispatch : Prop :=
  ∀ (rd rs1 rs2 : BitVec 5) (s : State),
    let a := (s.fwMe.reg rs1).toNat
    let v := s.fwMe.reg rs2
    let q := (v.extractLsb' 0 12).toNat
    let g := (v.extractLsb' 12 8).toNat
    let x := s.queue q
    let bs := s.fwMe.sram.read a 64
    a % 64 = 0 → a < 2 ^ 20 → v.toNat < 2 ^ 23 → g ≤ 199 → x.enable = true → x.owner = g → x.kind ≠ 1 →
    s.resets.contains g = false →
    (x.room 1 = false → ∃ t, exec (.dispatch rd rs1 rs2) s = .next t ∧ FwEnds s t rd (BitVec.allOnes 64) ∧
      t.queues = s.queues) ∧
    (x.room 1 = true → x.kind = 0 → ∃ t, exec (.dispatch rd rs1 rs2) s = .next t ∧
      FwEnds s t rd (BitVec.ofNat 64 x.seq) ∧ (t.queue q).seq = (x.seq + 1) % 2 ^ 32 ∧
      (∃ y, (t.queue q).recs = x.recs ++ [y] ∧ y.bytes = leBytes 8 (4 + 0xFFFF * 2 ^ 16 + x.seq * 2 ^ 32) ++ bs.drop 8) ∧
      ∀ n, n ≠ q → t.queue n = s.queue n) ∧
    (x.room 1 = true → x.kind ≠ 0 → ∃ t, exec (.dispatch rd rs1 rs2) s = .next t ∧ FwEnds s t rd 0 ∧
      (∃ y, (t.queue q).recs = x.recs ++ [y] ∧ y.bytes = bs ∧ y.guest = g ∧
        y.prio = min (v.extractLsb' 20 3).toNat (s.ceiling g)) ∧ ∀ n, n ≠ q → t.queue n = s.queue n)

/-- 15 R388: QBIND binds a usable ring to a free slot; QSAVE writes a bound ring's QCB, clears the slot's buffer and
unbinds it; QLOAD of a QCB that passes its checks binds the ring again. The result is the ring, or its backlog. 15
R388: a saved QCB passes the checks of QLOAD while its ring stands as it was saved. -/
def Obligations.QueueControlBlocks : Prop :=
  (∀ (rd rs1 rs2 : BitVec 5) (k : RSlot) (s : State),
    let slot := (s.fwMe.reg rs1).toNat
    let a := (s.fwMe.reg rs2).toNat
    (let n := (s.fwMe.reg rs2).toNat
     let r := s.ring n
     slot < 16 → s.fwMe.slots.find slot = none → n < 1600 → r.usable = true → r.bound = none →
       ∃ t, exec (.qbind rd rs1 rs2) s = .next t ∧
         FwEnds s t rd (BitVec.ofInt 64 (((r.tail : Int) - r.head) % 2 ^ r.size)) ∧
         t.ring n = { r with bound := some (s.fw, slot), pending := false, age := 0 } ∧
         (∀ m, m ≠ n → t.ring m = s.aged.ring m) ∧ t.fwMe.slots.find slot = some ⟨n, r.prio⟩ ∧
         t.fwMe.sram = s.fwMe.sram) ∧
    (let r := s.ring k.ring
     slot < 16 → s.fwMe.slots.find slot = some k → a % 64 = 0 → a < 2 ^ 20 →
       ∃ t, exec (.qsave rd rs1 rs2) s = .next t ∧ FwEnds s t rd (BitVec.ofNat 64 k.ring) ∧
         (a ≠ 0xFFC00 + 64 * slot → t.fwMe.sram.read a 64 = qcbBytes k.ring k.prio r (s.fwMe.sram.read (a + 24) 8)) ∧
         t.fwMe.sram.read (0xFFC00 + 64 * slot) 64 = leBytes 64 0 ∧
         t.fwMe.slots.find slot = none ∧
         t.ring k.ring = { r with bound := none, pending := r.pending || r.tail != r.head } ∧
         ∀ m, m ≠ k.ring → t.ring m = s.aged.ring m) ∧
    (let bs := s.fwMe.sram.read a 64
     let n := recField bs 1 2 % 2 ^ 11
     let r := s.ring n
     slot < 16 → s.fwMe.slots.find slot = none → a % 64 = 0 → a < 2 ^ 20 → s.qcbFail bs = none →
       ∃ t, exec (.qload rd rs1 rs2) s = .next t ∧
         FwEnds s t rd (BitVec.ofInt 64 (((r.tail : Int) - r.head) % 2 ^ r.size)) ∧
         t.ring n = { r with bound := some (s.fw, slot), prio := recField bs 4 1 % 8, pending := false, age := 0 } ∧
         (∀ m, m ≠ n → t.ring m = s.aged.ring m) ∧ t.fwMe.slots.find slot = some ⟨n, recField bs 4 1 % 8⟩ ∧
         t.fwMe.sram = s.fwMe.sram)) ∧
  (∀ (s : State) (n prio : Nat),
    let r := s.ring n
    n < 1600 → prio < 8 → r.usable = true → r.bound = none → r.gen < 2 ^ 12 → r.head < 2 ^ 16 → ∀ fw : List Byte, fw.length = 8 →
    s.qcbFail (qcbBytes n prio r fw) = none)

/-- 02 R45, R46, 06 R136: the fetch unit places in a ring the 16 words of a line that the ring wants and lacks, or the
fault that its translation met, which the line holds; the buffer of a generator that reads takes its next line. 06
R141, 07 R150, R151, 14 R363, R367, R369, 15 R402, 23 R439, R440: a scrub pass adds to the counts of its core, which
saturate, and marks the words of memory that it meets; an expired lease leaves its cache; a rebase of a quiescent part
takes one amount from every time and empties the lease caches; a walk ahead for a bound context keeps the translation
that it finds, and none where it faults, and changes neither the bytes of memory nor a context; an invalidation
begins, and at its end nothing that it names is held; a locked page's writes wait until the switch, which gives the
new page's lines the old times and moves the open groups; a lazy page that passes its check is written and mapped, and
one that fails is recorded and stays unmapped; a sample sets the limit and the rates of a controller. The lock of a
page is log entry 69, rebase below its amount 68, failed lazy pages 70, heat 64. -/
def Obligations.LinesAndUpkeep : Prop :=
  (∀ (core slot line g : Nat) (y : Sq) (s : State),
    let c := s.ctx core slot
    let q := c.seq.get y
    c.bound = true →
    (∀ s' n x, q.wants line = true → q.ring.find line = none →
      s.translate ⟨c.guest, core, q.pts⟩ (line * 128) .exec = (s', n, x) →
      (∀ pa, x = .ok pa 0 → fitted pa = true → s'.dram.badIn (pa / 128 * 128) 128 = false →
        ∃ t l, exec (.codeFetch core slot y line) s = .next t ∧
          ((t.ctx core slot).seq.get y).ring.find line = some l ∧ l.fault = none ∧
          ∀ i, i < 16 → l.words[i]? = some (BitVec.ofNat 64 (s'.dram.bytes.num (pa / 128 * 128 + 8 * i) 8))) ∧
      (∀ f, x = .fault f →
        ∃ t l r, exec (.codeFetch core slot y line) s = .next t ∧
          ((t.ctx core slot).seq.get y).ring.find line = some l ∧ l.fault = some r ∧ r.cause = .fetchFault ∧ r.x = some f)) ∧
    (∀ cfg, (c.gen g).cfg = some cfg → cfg.write = false → (c.gen g).buf.length < 4 →
      let k := (c.gen g).pos + (c.gen g).buf.length
      (cfg.wrap = true ∨ k < cfg.lines) → cfg.badLine c.spad (k % max 1 cfg.lines) = none →
      ∃ t l, exec (.generatorRefill core slot g) s = .next t ∧
        (t.ctx core slot).gen g = { c.gen g with buf := (c.gen g).buf ++ [l] } ∧
        l.bits = lineOfBytes (cfg.readLine c.spad (c.lineKnow c.seq.x.know) s.free (k % max 1 cfg.lines)) ∧
        (∀ n, n ≠ g → (t.ctx core slot).gen n = c.gen n) ∧ (t.ctx core slot).seq = c.seq ∧
        (t.ctx core slot).spad = c.spad ∧ t.dram = s.dram)) ∧
  ((∀ (core tile spad : Nat) (lines : List Nat) (s : State), core < 64 →
    ∃ t, exec (.scrubPass core tile spad ⟨[], lines⟩) s = .next t ∧
      { t with cores := s.cores, dram := s.dram } = s ∧ { t.dram with bad := s.dram.bad } = s.dram ∧
      (∀ pa ∈ lines, fitted pa = true → t.dram.bad.get false (pa / 8) = true) ∧
      (t.core core).ecc.extractLsb' 0 16 = BitVec.ofNat 16 (min 65535 (((s.core core).ecc.extractLsb' 0 16).toNat + tile)) ∧
      (t.core core).ecc.extractLsb' 16 16 = BitVec.ofNat 16 (min 65535 (((s.core core).ecc.extractLsb' 16 16).toNat + spad)) ∧
      (t.core core).ecc.extractLsb' 32 32 = (s.core core).ecc.extractLsb' 32 32 ∧
      ∀ k, k ≠ core → t.core k = s.core k) ∧
  (∀ (core line : Nat) (s : State),
    ∃ t, exec (.leaseExpiry core line) s = .next t ∧ { t with cores := s.cores } = s ∧
      (t.core core).lease.find line = none ∧ (∀ k, k ≠ line → (t.core core).lease.find k = (s.core core).lease.find k) ∧
      (t.core core).tlb = (s.core core).tlb ∧ ∀ k, k ≠ core → t.core k = s.core k) ∧
  (∀ (n : Nat) (s : State), s.quiescent = false → exec (.timeRebase n) s = .next s) ∧
  (∀ (n : Nat) (s : State), s.quiescent = true →
    Tbl.rising 0 s.ctxs = true → Tbl.rising 0 s.cores = true → Tbl.rising 0 s.dram.lines = true →
    ∃ t, exec (.timeRebase n) s = .next t ∧ t.dram.bytes = s.dram.bytes ∧ t.host = s.host ∧
      (∀ a, (t.dram.line a).wts = (s.dram.line a).wts - n ∧ (t.dram.line a).rts = (s.dram.line a).rts - n) ∧
      (∀ k, (t.core k).lease = []) ∧
      ∀ core slot z, ((t.ctx core slot).seq.get z).pts = ((s.ctx core slot).seq.get z).pts - n ∧
        ((t.ctx core slot).seq.get z).s = ((s.ctx core slot).seq.get z).s) ∧
  (∀ (core slot : Nat) (va : VA) (acc : Access) (s : State),
    let c := s.ctx core slot
    let r := s.translate ⟨c.guest, core, 0⟩ va.toNat acc
    (c.bound = false → exec (.tableWalk core slot va acc) s = .next s) ∧
    (c.bound = true → exec (.tableWalk core slot va acc) s = .next r.1 ∧
      r.1.ctxs = s.ctxs ∧ r.1.dram.bytes = s.dram.bytes ∧ r.1.guests = s.guests ∧
      (∀ pa kind, r.2.2 = .ok pa kind →
        ∃ e ∈ (r.1.core core).tlb ++ r.1.xlat.tlb.get [] (clusterOf core),
          e.guest = c.guest ∧ e.va ≤ va.toNat ∧ va.toNat < e.va + e.size ∧ e.kind = kind ∧
          e.perm1.allows acc = true ∧ e.perm2.allows acc = true) ∧
      ∀ x, r.2.2 = .fault x → (r.1.core core).tlb = (s.core core).tlb ∧ r.1.xlat.tlb = s.xlat.tlb)) ∧
  (∀ (v : Word) (s : State), v.getLsbD 12 = true →
    ∃ t, exec (.xlateInv v) s = .next t ∧ (s.xlat.inv.getLsbD 13 = true → t = s) ∧
      (s.xlat.inv.getLsbD 13 = false → { t with xlat := { t.xlat with inv := s.xlat.inv } } = s ∧
        t.xlat.inv.getLsbD 13 = true ∧ t.xlat.inv.extractLsb' 0 8 = v.extractLsb' 0 8 ∧
        t.xlat.inv.extractLsb' 15 45 = v.extractLsb' 15 45 ∧
        (v.extractLsb' 8 2 ≠ 3 → t.xlat.inv.extractLsb' 8 2 = v.extractLsb' 8 2) ∧
        (v.extractLsb' 10 2 ≠ 3 → t.xlat.inv.extractLsb' 10 2 = v.extractLsb' 10 2))) ∧
  (∀ s : State, s.xlat.inv.getLsbD 13 = true →
    let g := (s.xlat.inv.extractLsb' 0 8).toNat
    let stage := s.xlat.inv.extractLsb' 8 2
    let range := s.xlat.inv.extractLsb' 10 2
    let va := (s.xlat.inv.extractLsb' 15 45).toNat * 4096
    ∃ t, exec .invalidationComplete s = .next t ∧ t.ctxs = s.ctxs ∧ t.dram = s.dram ∧ t.xlat.inv.getLsbD 13 = false ∧
      ∀ core e, e ∈ (t.core core).tlb → range ≠ 2 ∧ (range = 1 → e.guest ≠ g) ∧
        (range = 0 → e.guest = g → stage = 0 ∧ (va < e.va ∨ e.va + e.size ≤ va))) ∧
  (∀ (page dest : Nat) (s : State),
    (∃ t, exec (.pageMigrationSwitch page dest true) s = .next t ∧ t.dram.locks.get none page = some dest ∧
      t.dram.bytes = s.dram.bytes ∧ t.ctxs = s.ctxs) ∧
    (s.dram.locks.get none page ≠ some dest ∨ s.xlat.inv.getLsbD 13 = true →
      exec (.pageMigrationSwitch page dest false) s = .next s) ∧
    (s.dram.locks.get none page = some dest → s.xlat.inv.getLsbD 13 = false →
      ∃ t, exec (.pageMigrationSwitch page dest false) s = .next t ∧ t.dram.locks.get none page = none ∧
        t.dram.bytes = s.dram.bytes ∧
        (Tbl.rising 0 s.ctxs = true → ∀ core slot, ∃ k, t.ctx core slot = { s.ctx core slot with tasks := k }) ∧
        (Tbl.rising 0 s.groups = true → (∀ e ∈ s.groups, e.1 / 4096 ≠ dest) → ∀ pa, pa / 4096 ≠ dest →
          t.groups.find (moved page dest pa) = s.groups.find pa) ∧
        ∀ i, i < 32 → t.dram.line (dest * 4096 + 128 * i) = s.dram.line (page * 4096 + 128 * i))) ∧
  (∀ (g ia a n : Nat) (e : Word) (x : Entry23) (s : State),
    (s.guest g).s2.getLsbD 0 = true → s.resets.contains g = false → s.powered = true →
    s.xlat.lazyBad.contains (g, ia / 4096) = false →
    leafOf s.dram.bytes (ia % 2 ^ 48) 4 (entryAddr (s.guest g).s2) = some (a, e) → e.getLsbD 7 = true →
    e.getLsbD 6 = false → s.trust.lazyEntry (entryAddr e) = some (n, x) →
    let i := (entryAddr e - x.load) / 4096
    (x.pageOk s.trust.flash i = true → fitted (entryAddr e + 4095) = true → (a + 8 ≤ entryAddr e ∨ entryAddr e + 4096 ≤ a) →
      ∃ t, exec (.lazyPageLoad g ia) s = .next t ∧ t.ctxs = s.ctxs ∧
        t.dram.bytes.read (entryAddr e) 4096 = x.page s.trust.flash i ∧
        t.dram.bytes.num a 8 = (e &&& ~~~0x80#64).toNat) ∧
    (x.pageOk s.trust.flash i = false →
      ∃ t, exec (.lazyPageLoad g ia) s = .next t ∧ t.dram = s.dram ∧ t.ctxs = s.ctxs ∧
        t.xlat.lazyBad.contains (g, ia / 4096) = true ∧ t.trust = s.trust.extend 14 (Config.failDigest n i))) ∧
  ∀ (ctrl temp a : Nat) (s : State), ctrl < 16 → s.due (32 + ctrl) 1000 = true →
    let limit := heatLimit (s.ctrls.get default ctrl).limit temp
    let own (p : Nat) : Nat := (s.ctrls.get default ctrl).rates.get 0 p
    let floor (p : Nat) : Nat := (s.part p).floorRate
    let rs := (List.range 8).foldl (fun x p => x + own p) 0
    let fs := (List.range 8).foldl (fun x p => x + floor p) 0
    (95 ≤ temp → limit = 2) ∧ (temp ≤ 80 → limit = 0) ∧
    ∃ t, exec (.memoryTempSample ctrl temp a) s = .next t ∧ (t.ctrls.get default ctrl).temp = temp ∧
      (t.ctrls.get default ctrl).limit = limit ∧ t.ctxs = s.ctxs ∧
      ∀ p, p < 8 →
        let rate := (t.ctrlBuckets.get default (ctrl * 8 + p)).rate
        (rs ≤ a → rate = own p) ∧
        (a < rs → a ≤ fs → rate = if (s.part p).w0.getLsbD 22 then floor p * a / fs else 0) ∧
        (fs < a → a < rs →
          rate = ((floor p : Int) + Int.fdiv (((a : Int) - fs) * ((own p : Int) - floor p)) ((rs : Int) - fs)).toNat))

/-- 05 R110, 14 R344, R345, R352: a coupling wait beyond its limit and a budget used up enter the handler of a context
whose issued instructions have retired, and stop one whose instructions have not. A stopped context then gets its
cause: in the handler; or, where the cause is fatal, its slot is emptied and firmware is told; or, where it is
resumable, it is saved with a ticket and firmware is told. Delivery in two steps is log entry 15, level 7 in TRAP.INFO
22. -/
def Obligations.TrapsDelivered : Prop :=
  ∀ (core slot : Nat) (y : Sq) (s : State),
    let c := s.ctx core slot
    s.clocksRun = true → c.bound = true →
    (∀ w, c.issuesIn y (s.core core).cycle = true → (c.seq.get y).waiting = some w → watchLimit c (c.seq.get y) < (c.seq.get y).waited →
      c.handler = false →
      ∃ t, exec (.waitTimeout core slot y) s = .next t ∧ OnlyCtx s t core slot ∧
        (c.quiet = true → c.trapVec ≠ 0 →
          let u := t.ctx core slot
          u.handler = true ∧ u.trapCause = 0x1A ∧ u.seq.c.pc = c.trapVec.setWidth 57 ∧ (∀ z, u.trapPc.get z = (c.seq.get z).pc) ∧
          u.trapInfo = BitVec.ofNat 64 ((w.kind * 16 + w.num) % 256 + y.num * 2 ^ 8 + 7 * 2 ^ 13)) ∧
        (c.quiet = false → ∃ r, (t.ctx core slot).stop = some (.trap y r) ∧ r.cause = .waitTimeout)) ∧
    (c.running = true → c.budgetHeld = true → c.handler = false →
      ∃ t, exec (.budgetExpiry core slot) s = .next t ∧ OnlyCtx s t core slot ∧ (t.ctx core slot).budgetHeld = false ∧
        (c.quiet = true → c.trapVec ≠ 0 →
          (t.ctx core slot).handler = true ∧ (t.ctx core slot).trapCause = 0x29 ∧
          (t.ctx core slot).seq.c.pc = c.trapVec.setWidth 57 ∧
          ∀ z, (t.ctx core slot).trapPc.get z = (c.seq.get z).pc) ∧
        (c.quiet = false → ∃ r, (t.ctx core slot).stop = some (.trap .c r) ∧ r.cause = .budget)) ∧
    (∀ r, c.stop = some (.trap y r) → c.quiet = true →
      (c.delivery r = .handler → ∃ t, exec (.trapEntry core slot) s = .next t ∧ OnlyCtx s t core slot ∧
        let u := t.ctx core slot
        u.handler = true ∧ u.trapCause = r.cause.code ∧ u.trapAddr = r.addr ∧ u.seq.c.pc = c.trapVec.setWidth 57 ∧
        u.stop = (if 2 ^ 57 ≤ c.trapVec.toNat then some (.trap .c (vecFault c.trapVec)) else c.late.map fun w => .preempt w.1) ∧
        u.shadow = c.seq.c.loops ∧ ∀ z, u.trapPc.get z = (c.seq.get z).pc) ∧
      (c.delivery r = .fatal → ∃ t, exec (.trapEntry core slot) s = .next t ∧ t.ctx core slot = Ctx.empty ∧
        t.saved = s.saved ∧ Told s t c.part 0 core slot 0 c r.cause.code r.addr) ∧
      (c.delivery r = .resumable → c.noMatrix → ∃ t k e, exec (.trapEntry core slot) s = .next t ∧
        t.ctx core slot = Ctx.empty ∧ t.saved.find s.nextUid = some e ∧ e.ticket = some k ∧ e.core = core ∧
        e.slot = slot ∧ SameSeqs c e.img ∧ e.img.trapCause = r.cause.code ∧ e.img.trapAddr = r.addr ∧
        Told s t c.part 1 core slot k c r.cause.code r.addr))

/-- 14 R341, R357 to R360, 15 R390: a pre-emption stops a context, behind a trap that has stopped it; a stopped
context without instructions in flight is saved under a new number and its slot is emptied, with a record for firmware
where an HCALL stopped it; firmware's answer lets the saved context go on, with a result where it gives one, or ends
it; and a restore places it where it has room. The image as plain data is log entry 37, tickets 38, wrong answers 39.
-/
def Obligations.SavesAndRestores : Prop :=
  (∀ (core slot blocks : Nat) (why : StopWhy) (s : State),
    let c := s.ctx core slot
    c.bound = true → c.noMatrix →
    (c.stop = none → s.stopDue core c why = true →
      ∃ t, exec (.preemptRequest core slot why blocks) s = .next t ∧
        t.ctx core slot = { c with stop := some (.preempt why), late := some (why, (s.core core).cycle) } ∧
        OnlyCtx s t core slot) ∧
    (∀ y r, c.stop = some (.trap y r) → c.late = none → s.stopDue core c why = true →
      ∃ t, exec (.preemptRequest core slot why blocks) s = .next t ∧
        t.ctx core slot = { c with late := some (why, (s.core core).cycle) } ∧ OnlyCtx s t core slot) ∧
    (c.quiet = true →
      (∀ w, w ≠ .yield → c.stop = some (.preempt w) → ∃ t e, exec (.contextSave core slot) s = .next t ∧
        t.ctx core slot = Ctx.empty ∧ t.saved.find s.nextUid = some e ∧ e.ticket = none ∧ SameSeqs c e.img ∧
        e.img.tasks.current = c.tasks.current ∧ e.img.data = c.data ∧ e.img.toks = c.toks) ∧
      (∀ code arg d, c.stop = some (.hcall code arg d) → ∃ t e k, exec (.contextSave core slot) s = .next t ∧
        t.ctx core slot = Ctx.empty ∧ t.saved.find s.nextUid = some e ∧ e.ticket = some k ∧ e.hcall = some d ∧
        SameSeqs c e.img ∧ Told s t c.part 2 core slot k c c.trapCause arg))) ∧
  (∀ (u : Nat) (e : Saved) (s : State), s.saved.find u = some e → e.ticket = none → e.img.matrix.binding = none →
    ∀ core, s.restoreCore e = some core → s.ahead core (s.savedPrio e) e.since = false →
      s.restorePlan e.img core = some (0, []) →
      ∃ t slot, exec (.contextRestore u) s = .next t ∧ slot < 4 ∧ (s.ctx core slot).bound = false ∧
        t.saved.find u = none ∧ (t.ctx core slot).guest = e.img.guest ∧ (t.ctx core slot).launch = e.img.launch ∧
        (e.result = none → SameSeqs e.img (t.ctx core slot)) ∧
        ∀ d v, e.result = some (d, v) → d ≠ 0 → (t.ctx core slot).seq.c.reg d = v) ∧
  ∀ (n u : Nat) (e : Saved) (s : State), s.ticketed n = some (u, e) →
    (∃ t, exec (.fwAnswerResume n) s = .next t ∧ t.saved.find u = some { e with ticket := none } ∧ t.ctxs = s.ctxs) ∧
    (∃ t, exec (.fwAnswerResult n) s = .next t ∧ t.ctxs = s.ctxs ∧
      t.saved.find u = some { e with ticket := none, result := e.hcall.map fun d => (d, s.fwResult) }) ∧
    ∃ t, exec (.fwAnswerDiscard n) s = .next t ∧ t.saved.find u = none ∧
      Told s t e.img.part 0 e.core e.slot 0 e.img e.img.trapCause e.img.trapAddr

/-- 12 R284 to R289, 05 R114: a launch record taken from its queue becomes a launch, refused with the least offset
that fails a check, or with the resource that it exceeds; an instance with room binds to its core with every register
zero and each sequencer at its entry; a context whose sequencers have ended leaves its launch, which is over with its
last instance; and the completion of a launch goes to its done queue or to the guest's completion ring. Details of
rejections are log entry 50, lost completions 51. -/
def Obligations.Launches : Prop :=
  (∀ (queue : Nat) (r : BRec) (rest : List BRec) (s s1 : State) (b : List Byte),
    (s.queue queue).recs = r :: rest → (s.queue queue).enable = true → (s.queue queue).kind = 2 →
    s.heldLaunches r.guest < 64 → s.resets.contains r.guest = false → s.still (s.partOf r.guest) = false →
    recField r.bytes 0 8 % 2 ^ 12 = 0 → recField r.bytes 8 8 = 0 →
    s.readGuest r.guest r.carry.pts (recField r.bytes 0 8 % 2 ^ 57) 32 = .ok s1 b →
    ∃ t u l, exec (.launch queue) s = .next t ∧ (t.queue queue).recs = rest ∧ t.launches.find u = some l ∧
      l.guest = r.guest ∧ l.prio = r.prio ∧ l.record = r.bytes ∧ l.placed = [] ∧ t.ctxs = s.ctxs ∧
      (∀ o, (s.recordFails r.guest r.bytes).min? = some o → l.end_ = some (2, o)) ∧
      (s.recordFails r.guest r.bytes = [] →
        (∀ o, (descFails b []).min? = some o → l.end_ = some (2, o)) ∧
        (descFails b [] = [] →
          let n := s.capacity (s.partOf r.guest) (kdesc b)
          l.desc = kdesc b ∧ (n = 0 → l.end_ = none ∧ l.total = instances (descLevels b) []) ∧
            (n ≠ 0 → l.end_ = some (1, n))))) ∧
  (∀ (u inst core slot : Nat) (l : Launch) (s : State),
    s.launches.find u = some l → s.launchTarget l inst = some core → s.freeSlot core = some slot →
    s.nextFor l core = some inst → s.mayRun l.guest = true → s.clocksRun = true → s.fits core l.desc.ask = true →
    s.keptOff core u inst l = false → s.ahead core l.prio l.since = false →
    ∃ t, exec (.instanceBind u inst) s = .next t ∧
      let c := t.ctx core slot
      c.bound = true ∧ c.guest = l.guest ∧ c.launch = u ∧ c.inst = inst ∧ c.part = s.partOf l.guest ∧ c.args = l.args ∧
      c.tiles = [] ∧ c.spad.bytes = [] ∧ c.toks = [] ∧ c.data = [] ∧ c.bos = [] ∧
      (∀ k ch, c.chan k ch = ⟨[], 0, 0, 0⟩) ∧ c.events = 0 ∧ c.power.g = 4 ∧ c.wdog = 0x01000000 ∧
      (∀ z, (c.seq.get z).pc = BitVec.ofNat 57 (recField l.record 0 8 + l.desc.entries.get z) ∧ (c.seq.get z).s = [] ∧
        (c.seq.get z).ended = false ∧ (c.seq.get z).inflight = []) ∧
      (∀ j k, j * 4 + k ≠ core * 4 + slot → t.ctx j k = s.ctx j k) ∧
      t.launches.find u = some { l with placed := inst :: l.placed, live := l.live + 1 }) ∧
  (∀ (core slot : Nat) (l : Launch) (s : State),
    let c := s.ctx core slot
    c.bound = true → c.stop = none → c.handler = false → c.quiet = true → c.q0.jobs = [] → c.q1.jobs = [] →
    s.jointsOpen core slot = false → (∀ z, (c.seq.get z).done = true) → s.launches.find c.launch = some l →
    ∃ t k, exec (.instanceComplete core slot) s = .next t ∧ t.ctx core slot = Ctx.empty ∧
      t.launches.find c.launch = some k ∧ k.retired = l.retired + 1 ∧ k.live = l.live - 1 ∧
      k.qleft = (l.qleft || c.qleft || !c.channelsEmpty) ∧
      (l.end_ = none → l.live = 1 → l.total ≤ l.placed.length →
        k.end_ = some (match l.fault with | some f => (4, f) | none => (0, 0))) ∧
      ((l.end_ ≠ none ∨ 2 ≤ l.live ∨ l.placed.length < l.total) → k.end_ = l.end_)) ∧
  ∀ (u code detail : Nat) (l : Launch) (s : State),
    s.launches.find u = some l → l.end_ = some (code, detail) → l.posted = false → s.powered = true →
    let w7 := recField l.record 56 8
    let q := w7 % 2 ^ 12
    let w0 := BitVec.ofNat 64
      (code + detail % 256 * 2 ^ 8 + (if l.qleft then 2 ^ 16 else 0) + l.retired % 2 ^ 32 * 2 ^ 32)
    (w7 / 2 ^ 15 % 2 = 1 → (s.queue q).enable = true → (s.queue q).kind = 0 →
      (code = 3 → (s.queue q).owner ≠ l.guest) → (s.queue q).room 1 = true → s.recordBefore q l.endedAt = false →
      ∃ t x, exec (.launchCompletionPost u) s = .next t ∧ (t.queue q).recs = (s.queue q).recs ++ [x] ∧
        t.launches.find u = none ∧ recField x.bytes 0 1 = 3 ∧ recField x.bytes 16 8 = w0.toNat ∧
        recField x.bytes 24 8 = recField l.record 50 2 ∧ t.ctxs = s.ctxs) ∧
    (w7 / 2 ^ 15 % 2 = 0 → code ≠ 3 →
      ∃ t x, exec (.launchCompletionPost u) s = .next t ∧ (t.cq l.guest).held = (s.cq l.guest).held ++ [x] ∧
        x.kind = 0 ∧ x.b0 = w0 ∧ x.tag = recField l.record 50 2 ∧ x.launch = some u ∧
        t.launches.find u = some { l with posted := true } ∧ t.queues = s.queues ∧ t.ctxs = s.ctxs)

/-- 12 R294 to R296, R313, R314: a task is ready once its dependences are met, goes to the buffer of a context of its
handler on its owner core, becomes stealable after its queue's ageing interval, and moves to a context that has none;
a group that times out resolves its pending siblings as timed out, and one without pending siblings is closed, with
its count, its advantages, and its status. Status bits are log entry 49. -/
def Obligations.TasksAndGroups : Prop :=
  (∀ (n : Nat) (k : Task) (s : State), s.tasks.find n = some k →
    (k.ready = true → k.readyAt = none →
      ∃ t, exec (.dependenceMet n) s = .next t ∧ t.tasks.find n = some { k with readyAt := some s.time } ∧
        { t with tasks := s.tasks } = s) ∧
    (∀ core slot, k.readyAt ≠ none → k.held = false → s.mayRun k.guest = true → s.firstReady k.queue n = true →
      s.taskOwner k = some core → fewest (s.handlersOn core k.guest (taskRec k.bytes).handler) = some slot →
      ∃ t, exec (.taskPlace n) s = .next t ∧ OnlyCtx { s with queues := t.queues, tasks := t.tasks } t core slot ∧
        (t.ctx core slot).tasks.buffer = (s.ctx core slot).tasks.buffer ++ [n] ∧
        t.tasks.find n = some { k with held := true } ∧ (∀ r ∈ (t.queue k.queue).recs, r.task ≠ n) ∧
        (s.ctx core slot).guest = k.guest ∧ (s.part (s.partOf k.guest)).cores.getLsbD core = true ∧
        (t.ctx core slot).seq = (s.ctx core slot).seq) ∧
    (∀ a, k.readyAt = some a → a + (s.queue k.queue).ageing ≤ s.time → s.popped n = false →
      ∃ t, exec (.taskAgeingExpiry n) s = .next t ∧ t.tasks.find n = some { k with stealable := true } ∧
        { t with tasks := s.tasks } = s) ∧
    ∀ core slot, k.stealable = true → s.popped n = false → s.idleFor k core slot = true → s.mayRun k.guest = true →
      (∀ e ∈ s.tasks, e.2.stealable = true → s.popped e.1 = false → s.idleFor e.2 core slot = true →
        k.readyAt.getD 0 ≤ e.2.readyAt.getD 0) → Tbl.rising 0 s.ctxs = true →
      ∃ t, exec (.taskSteal n core slot) s = .next t ∧ (t.ctx core slot).tasks.buffer = [n] ∧
        (∀ j m, j * 4 + m ≠ core * 4 + slot → n ∉ (t.ctx j m).tasks.buffer) ∧ t.tasks.find n = some { k with held := true }) ∧
  ∀ (pa : Nat) (s : State), s.groups.find pa ≠ none → s.powered = true → s.locked pa = false →
    let m := s.dram.bytes
    let k := min 64 (m.num pa 1 % 128)
    let st (i : Nat) : Nat := m.num (pa + 640 + 4 * i) 4
    (m.num (pa + 24) 4 ≠ 0 → m.num (pa + 24) 4 ≤ m.num (pa + 28) 4 →
      ∃ t, exec (.groupTimeout pa) s = .next t ∧ t.ctxs = s.ctxs ∧
        ∀ i, i < k → t.dram.bytes.num (pa + 640 + 4 * i) 4 = if st i % 4 = 0 then 3 else st i) ∧
    ((∀ i, i < k → st i % 4 ≠ 0) →
      let n := (List.range k).countP fun i => st i % 8 = 1
      ∃ t, exec (.groupComplete pa) s = .next t ∧ t.groups = s.groups.del pa ∧
        (t.dram.bytes.num (pa + 2) 2).testBit 0 = false ∧ (t.dram.bytes.num (pa + 2) 2).testBit 1 = true ∧
        (n = 0 → (t.dram.bytes.num (pa + 2) 2).testBit 2 = true) ∧
        (n = 1 → (t.dram.bytes.num (pa + 2) 2).testBit 3 = true) ∧
        t.dram.bytes.num (pa + 40) 8 = n ∧
        (∀ i, i < k → t.dram.bytes.num (pa + 640 + 4 * i) 4 = st i) ∧
        ∀ i, i < k →
          let adv := t.dram.bytes.num (pa + 384 + 4 * i) 4
          (n = 0 → adv = 0x7FC00000) ∧
          (n ≠ 0 → (st i % 4 = 3 → adv = 0x7FC00001) ∧ (st i % 4 = 2 → adv = 0x7FC00002) ∧
            (st i % 8 = 5 → adv = 0x7FC00003)) ∧
          (n = 1 → st i % 8 = 1 → adv = 0))

/-- 13 R323, R325, R331 to R333, R414: a waiting request whose extra the partition's own units cover is granted; a
loan gives back what its lender's oldest request lacks and lowers the borrower's effective level to what its units
cover, and is made whole again; a clock request is denied for its range or its voltage, or accepted with its vote
placed; a switch waits for the rail to reach the floor of the requested frequency, takes it and leaves a withdrawal
where the vote falls; the vote goes after it, and a rail's hold ends; a cluster moves to another rail only when it is
empty and the rail is high enough. Orders and details are log entries 53 and 54. -/
def Obligations.GrantsAndClocks : Prop :=
  (∀ (core slot level : Nat) (y : Sq) (rest : List PWho) (s : State),
    let key := core * 4 + slot
    let c := s.ctx core slot
    let extra := s.extraFor core slot level
    slot < 4 → s.power.reqs = .ctx key y :: rest → s.power.loans = [] → s.clocksRun = true → c.bound = true →
    c.power.given = none → c.power.waits.find? (fun e => e.1 == y) = some (y, level) → c.power.g < level →
    extra ≤ s.freeUnits c.part →
    ∃ t, exec (.powerGrant core slot) s = .next t ∧ OnlyCtx { s with power := t.power } t core slot ∧
      t.ctx core slot = { c with power := { c.power with own := c.power.own + extra, given := some y } } ∧
      t.power.loans = [] ∧ t.power.reqs = rest.filter (· != .ctx key y)) ∧
  (∀ (p key u left : Nat) (s : State),
    let core := key / 4
    let slot := key % 4
    let c := s.ctx core slot
    let fits (n l : Nat) : Prop := s.chargeAt core (max l (s.lmaxBut core slot)) - s.chargeAt core (s.lmaxBut core slot) ≤ c.power.own + n
    (∀ n, s.power.loans = [⟨p, key, u, u⟩] → s.lacking p = some n →
      ∃ t, exec (.loanReclaim p) s = .next t ∧ t.power.loans = [⟨p, key, u, u - n⟩] ∧ n ≤ u ∧ 0 < n ∧
        OnlyCtx { s with power := t.power } t core slot ∧ (t.ctx core slot).power.g = c.power.g ∧
        (t.ctx core slot).power.own = c.power.own ∧ (t.ctx core slot).seq = c.seq ∧
        let a := (t.ctx core slot).power.a
        a ≤ c.power.g ∧ (4 < a → fits (u - n) a) ∧ ∀ l, l ≤ c.power.g → fits (u - n) l → l ≤ a) ∧
    (s.power.loans = [⟨p, key, u, left⟩] → s.covers p = false → s.overrun p = false →
      left ≤ u → u - left ≤ s.freeUnits p →
      ∃ t, exec (.loanRestore p) s = .next t ∧ t.power.loans = [⟨p, key, u, u⟩] ∧
        OnlyCtx { s with power := t.power } t core slot ∧
        t.ctx core slot = { c with power := { c.power with a := c.power.g } })) ∧
  (∀ (n : Nat) (w : Word) (s : State), n < 8 →
    let f := (w.extractLsb' 0 7).toNat
    let v := (w.extractLsb' 8 7).toNat
    let c := s.cluster n
    let s' := s.setCluster n { c with fReq := f, vReq := v }
    ∃ t, exec (.clockRequest n w) s = .next t ∧ (t.cluster n).fReq = f ∧ (t.cluster n).vReq = v ∧
      (t.cluster n).fNow = c.fNow ∧ t.ctxs = s.ctxs ∧
      (56 < f ∨ 70 < v → (t.cluster n).status = 4 ∧ (t.cluster n).req = c.req ∧ (t.cluster n).vote = c.vote ∧
        t.vesper.notices = s.vesper.notices ++ [.clock n 4]) ∧
      (f ≤ 56 → v ≤ 70 →
        (v < Config.vfloor n f → (t.cluster n).status = 2 ∧ (t.cluster n).req = c.req ∧ (t.cluster n).vote = c.vote ∧
          t.vesper.notices = s.vesper.notices ++ [.clock n 2]) ∧
        (Config.vfloor n f ≤ v →
          (∀ p ∈ s.partsIn n, (s'.acceptClock n f v).base p ≤ (s'.acceptClock n f v).share p) →
          (c.req ≠ none → (t.cluster n).status = 1 ∧ (t.cluster n).req = c.req ∧ (t.cluster n).vote = c.vote) ∧
          (c.req = none → (t.cluster n).status = 1 ∧ (t.cluster n).withdraw = none ∧
            (t.cluster n).req = some ⟨f, min v (Config.railClamp c.rail), c.vote⟩ ∧
            (t.cluster n).vote = max c.vote (min v (Config.railClamp c.rail)))))) ∧
  (∀ (n : Nat) (s : State),
    let c := s.cluster n
    (∀ r, c.req = some r → s.power.trip.tripped = false → (r.f ≤ c.fNow ∨ r.v ≤ (s.rail c.rail).v) →
      Config.vfloor n r.f ≤ (s.rail c.rail).v →
      ∃ t, exec (.clockSwitch n) s = .next t ∧ (t.cluster n).fNow = r.f ∧ (t.cluster n).req = none ∧
        (t.cluster n).status = 0 ∧ (t.cluster n).vote = c.vote ∧ t.ctxs = s.ctxs ∧
        (t.cluster n).withdraw = if r.v < r.oldVote then some (r.v, s.time + 100) else none) ∧
    (∀ r, c.req = some r → (s.rail c.rail).v < Config.vfloor n r.f → exec (.clockSwitch n) s = .next s) ∧
    (∀ v due, c.withdraw = some (v, due) → due ≤ s.time →
      ∃ t, exec (.voteWithdraw n) s = .next t ∧ (t.cluster n).vote = v ∧ (t.cluster n).withdraw = none ∧
        (t.cluster n).fNow = c.fNow ∧ t.ctxs = s.ctxs ∧
        (t.railTarget c.rail < s.railTarget c.rail → (t.rail c.rail).hold = some (s.time + 100))) ∧
    (∀ t0, (s.rail n).hold = some t0 → t0 ≤ s.time →
      ∃ t, exec (.railHoldExpiry n) s = .next t ∧ t.rail n = { s.rail n with hold := none } ∧ t.ctxs = s.ctxs ∧
        ∀ k, k ≠ n → t.rail k = s.rail k) ∧
    ((s.rail n).v = s.railTarget n →
      ∃ t, exec (.railRampComplete n) s = .next t ∧ t.ctxs = s.ctxs ∧ t.rail n = s.rail n ∧
        ∀ k, k < 8 → (s.cluster k).rail = n → (s.cluster k).withdraw = none → (t.cluster k).chargeV = (s.rail n).v ∧
          (t.cluster k).chargeF = match (s.cluster k).req with
            | some r => max (s.cluster k).fNow r.f
            | none => (s.cluster k).fNow)) ∧
  ∀ (n : Nat) (w : Word) (s : State), n < 8 →
    let r := (w.extractLsb' 0 2).toNat
    let c := s.cluster n
    ∃ t, exec (.railMove n w) s = .next t ∧ (t.cluster n).railReq = r ∧ t.ctxs = s.ctxs ∧
      (((∃ k, k < 64 ∧ clusterOf k = n ∧ s.onCore k ≠ []) ∨ (s.rail r).v < Config.vfloor n c.fNow) →
        (t.cluster n).rail = c.rail ∧ (t.cluster n).railStatus = 1) ∧
      ((∀ k, k < 64 → clusterOf k = n → s.onCore k = []) → Config.vfloor n c.fNow ≤ (s.rail r).v →
        (t.cluster n).rail = r ∧ (t.cluster n).railStatus = 0)

/-- 13 R334 to R338: a stall sample gives the register the cluster's counts, fresh, with the cycles that arbitration
at the data port adds, clears them, and the governor's request; a read clears fresh; the sensors mark clusters to
throttle at 105 degrees and trip the part at 115, which stops its clocks and drops every rail; a throttled cluster
falls by four steps while it is hot, and rises again within its budget; only Vesper resumes, once the part is cool, at
the least frequency; the part idles when it is quiet, wakes, keeps memory in RETENTION and comes back, and loses
everything but flash and fuses with its supply. Log entries 5, 55, 56, 72 and 85 hold the model's readings. -/
def Obligations.SamplesAndStates : Prop :=
  (∀ (n mem : Nat) (s : State), n < 8 → s.due (2 + n) 10 = true →
    let c := s.cluster n
    let cap (x : Nat) : Nat := min x (2 ^ 20 - 1)
    let waits := min c.nActive (c.nMem + mem)
    ∃ t, exec (.stallSample n () mem ()) s = .next t ∧ t.ctxs = s.ctxs ∧
      (t.cluster n).stall = BitVec.ofNat 64 (cap c.nActive + cap waits * 2 ^ 20 + cap c.nPwr * 2 ^ 40 + 2 ^ 63) ∧
      (t.cluster n).nActive = 0 ∧ (t.cluster n).nMem = 0 ∧ (t.cluster n).nPwr = 0 ∧
      (c.gov.getLsbD 0 = false → (t.cluster n).fReq = c.fReq ∧ (t.cluster n).vReq = c.vReq) ∧
      ∀ f, c.govern (cap c.nActive) (cap waits) = some f → (t.cluster n).fReq = f ∧
        (t.cluster n).vReq = Config.vfloor n f + (c.gov.extractLsb' 21 7).toNat) ∧
  (∀ (n half : Nat) (s : State), n < 8 →
    ∃ t, exec (.pwrStallRead n half) s = .next t ∧ t.ctxs = s.ctxs ∧ (half = 0 → t = s) ∧
      (half ≠ 0 → t.cluster n = { s.cluster n with stall := (s.cluster n).stall &&& ~~~(1#64 <<< 63) })) ∧
  (∀ (temps : List Nat) (s : State), temps.length = 8 → s.due 1 10 = true →
    ∃ t, exec (.thermalSample temps) s = .next t ∧ t.ctxs = s.ctxs ∧
      (∀ n, n < 8 → (t.cluster n).temp = temps.getD n 0 ∧ (105 ≤ temps.getD n 0 → (t.cluster n).throttled = true)) ∧
      ((∀ n, n < 8 → temps.getD n 0 < 115) → t.power.trip.tripped = s.power.trip.tripped ∧
        t.power.trip.count = s.power.trip.count) ∧
      ∀ n, n < 8 → 115 ≤ temps.getD n 0 → (∀ k, k < n → temps.getD k 0 < 115) → s.power.trip.tripped = false →
        t.clocksRun = false ∧ t.power.trip.cluster = n ∧ t.power.trip.count = min (s.power.trip.count + 1) (2 ^ 32 - 1) ∧
        (∀ r, r < 4 → (t.rail r).v = 0)) ∧
  (∀ (n : Nat) (s : State), n < 8 → s.due (16 + n) 100 = true → s.power.trip.tripped = false →
    let c := s.cluster n
    let up := min (c.fNow + 4) c.lastReq
    let fits : Prop := s.clockFits n (match c.req with | some r => max up r.f | none => up) = true
    ∃ t, exec (.throttleStep n) s = .next t ∧ t.ctxs = s.ctxs ∧
      (c.throttled = false → t.cluster n = c) ∧
      (c.throttled = true → 105 ≤ c.temp → (t.cluster n).fNow = c.fNow - 4) ∧
      (c.throttled = true → c.temp < 100 → c.fNow < c.lastReq →
        Config.vfloor n up ≤ (s.rail c.rail).v → fits → (t.cluster n).fNow = up) ∧
      (c.throttled = true → c.temp < 100 → ¬ fits → (t.cluster n).fNow = c.fNow) ∧
      (c.throttled = true → 100 ≤ c.temp → c.temp < 105 → (t.cluster n).fNow = c.fNow)) ∧
  (∀ (by_ : Writer) (s : State),
    (by_ = .vesper → s.power.trip.tripped = true → (∀ n, n < 8 → (s.cluster n).temp < 100) →
      ∃ t, exec (.tripResume by_) s = .next t ∧ t.power.trip.tripped = false ∧ t.ctxs = s.ctxs ∧
        ∀ n, n < 8 → (t.cluster n).fNow = 0) ∧
    (by_ ≠ .vesper ∨ (∃ n, n < 8 ∧ 100 ≤ (s.cluster n).temp) → exec (.tripResume by_) s = .next s)) ∧
  ∀ s : State,
    (s.power.state = .active → s.power.idleInterval ≠ 0 → s.quietNow = true → s.power.trip.tripped = false →
      (∀ e ∈ s.fws, e.2.released = true → e.2.asleep = true) → s.power.quietSince + s.power.idleInterval ≤ s.time →
      ∃ t, exec .idleEntry s = .next t ∧ t.power.state = .idle ∧ t.clocksRun = false ∧ t.ctxs = s.ctxs ∧
        (∀ r, r < 4 → (t.rail r).v = s.idleFloor r) ∧ t.dram = s.dram) ∧
    (s.power.state = .idle →
      ∃ t, exec .idleExit s = .next t ∧ t.power.state = .active ∧ t.ctxs = s.ctxs ∧ t.dram = s.dram ∧
        ∀ r, r < 4 → (t.rail r).v = s.railTarget r) ∧
    (s.power.state = .retention → ∃ t, exec .wakeInputRise s = .next t ∧ t.power.state = .active ∧
      t.ctxs = s.ctxs ∧ t.dram = s.dram ∧ ∀ p, p < 8 → (t.part p).frozen = false) ∧
    (s.powered = true → (∀ e ∈ s.ctxs, e.2.bound = false) →
      ∃ t, exec .wakeInputFall s = .next t ∧ t.power.state = .retention ∧
        t.dram.bytes = s.dram.bytes ∧ (∀ k, t.core k = ⟨0, 0, [], []⟩) ∧ t.xlat.tlb = [] ∧ t.dram.lines = [] ∧
        (s.topTime ≤ 2 ^ 62 → t.ctxs = s.ctxs ∧ t.saved = s.saved ∧ t.dram.mark = s.topTime) ∧
        ∀ p, p < 8 → (t.part p).frozen = true) ∧
    ∃ t, exec .supplyRemoval s = .next t ∧ t.power.state = .off ∧ t.ctxs = [] ∧ t.dram.bytes = [] ∧
      t.trust.flash = s.trust.flash ∧ t.trust.floor = s.trust.floor ∧ t.trust.booted = false ∧ t.trust.meas = [] ∧
      t.host = s.host ∧ t.peer = s.peer

/-- 15 R374 to R376, R379, R389, 22 R425: a kick gives a usable ring its tail, and makes it pending where it is
unbound and not empty, each after the ageing ticks that are due; a configuration is ignored while the ring is enabled
and bound, and a change advances gen; pending, unbound rings age by one for each 100 microseconds that have passed, to
at most 63; the oldest held entry of a completion ring with room is written for the host, and the armed message sent;
the host's head is taken, and the message armed; an event record goes to the next place of a ring that has one. -/
def Obligations.RingEvents : Prop :=
  (∀ (n tail : Nat) (s : State), n < 1600 → s.powered = true → (s.part (s.partOf (n / 8))).off = false →
    let r := s.aged.ring n
    ∃ t, exec (.kick n tail) s = .next t ∧ t.power.state = .active ∧ t.ctxs = s.ctxs ∧
      (∀ k, k ≠ n → t.ring k = s.aged.ring k) ∧
      (r.usable = false → t.ring n = r) ∧
      (r.usable = true → (t.ring n).tail = tail % 2 ^ 16 ∧ (t.ring n).head = r.head ∧ r.pts ≤ (t.ring n).pts ∧
        (r.bound = none → tail % 2 ^ 16 ≠ r.head → (t.ring n).pending = true ∧ (r.pending = false → (t.ring n).age = 0)) ∧
        ((r.bound ≠ none ∨ tail % 2 ^ 16 = r.head) → (t.ring n).pending = r.pending))) ∧
  (∀ (fn n off size : Nat) (v : Word) (s : State), n < 1600 → s.guestOfFn fn = n / 8 → (s.fn fn).busy = false → off < 16 →
    let r := s.aged.ring n
    ∃ t, exec (.ringConfigWrite (.host fn) n off size v) s = .next t ∧ t.ctxs = s.ctxs ∧
      (∀ k, k ≠ n → t.ring k = s.aged.ring k) ∧
      (t.ring n).head = r.head ∧ (t.ring n).tail = r.tail ∧ (t.ring n).prio = r.prio ∧
      ((r.enable = true ∧ r.bound ≠ none) → t.ring n = r) ∧
      ((r.enable = false ∨ r.bound = none) →
        (off = 0 → size = 8 → (t.ring n).base = v ∧ (t.ring n).gen = if v = r.base then r.gen else (r.gen + 1) % 2 ^ 12) ∧
        (off = 8 → size = 8 → (t.ring n).size = (v.extractLsb' 0 4).toNat ∧ (t.ring n).kind = v.getLsbD 4 ∧
          (t.ring n).enable = v.getLsbD 5 ∧ (t.ring n).base = r.base))) ∧
  (∀ (core n : Nat) (v : Word) (s : State), n < 1600 →
    ∃ t, exec (.ringConfigWrite (.sched core) n 16 8 v) s = .next t ∧ t.ctxs = s.ctxs ∧
      t.ring n = { s.aged.ring n with prio := min (v.extractLsb' 0 3).toNat (s.ceiling (n / 8)) }) ∧
  (∀ s : State, s.due 0 100 = true → Tbl.rising 0 s.rings = true →
    exec .ageTick s = .next s.aged ∧ s.aged.ctxs = s.ctxs ∧ s.aged.due 0 100 = false ∧
      ∀ n, s.aged.ring n = if (s.ring n).pending = true ∧ (s.ring n).bound = none
        then { s.ring n with age := min 63 ((s.ring n).age + (s.time / 100 - s.ticks.get 0 0)) } else s.ring n) ∧
  (∀ s : State, s.due 0 100 = false → exec .ageTick s = .next s ∧ s.aged = s) ∧
  (∀ (g : Nat) (i : CqItem) (rest : List CqItem) (s : State),
    let c := s.cq g
    let f := s.fn (fnOf g)
    c.held = i :: rest → c.open_ = true → s.links.hostUp = true → s.powered = true →
    ∃ t, exec (.completionEntryWrite g) s = .next t ∧ t.ctxs = s.ctxs ∧
      t.host.bytes.read (c.base.toNat + 32 * c.tail) 32 = cqBytes i c.seq c.phase ∧
      t.cq g = { c with held := rest, tail := (c.tail + 1) % c.size, seq := (c.seq + 1) % 2 ^ 32,
                        phase := c.phase != decide (c.size ≤ c.tail + 1) } ∧
      (∀ u, i.launch = some u → t.launches.find u = none) ∧
      t.irqs = (if f.int.getLsbD 6 then s.irqs ++ [(fnOf g, (f.int.extractLsb' 0 3).toNat)] else s.irqs) ∧
      (t.fn (fnOf g)).int.getLsbD 6 = false) ∧
  (∀ (fn head : Nat) (s : State), (s.fn fn).busy = false →
    let g := s.guestOfFn fn
    ∃ t, exec (.cqHeadWrite fn head) s = .next t ∧ t.ctxs = s.ctxs ∧ t.cq g = { s.cq g with head := head % 2 ^ 16 } ∧
      (t.fn fn).int.getLsbD 6 = decide ((s.cq g).tail = head % 2 ^ 16) ∧
      t.irqs = if (s.cq g).tail = head % 2 ^ 16 then s.irqs else s.irqs ++ [(fn, ((s.fn fn).int.extractLsb' 0 3).toNat)]) ∧
  ∀ (n : Nat) (r : EvRec) (rest : List EvRec) (s : State),
    let c := s.fwCore n
    c.evWait = r :: rest → (c.evTail + 64 - c.evHead) % 64 ≠ 63 →
    ∃ t, exec (.eventRecordPost n) s = .next t ∧ t.ctxs = s.ctxs ∧ (t.fwCore n).evWait = rest ∧
      (t.fwCore n).evTail = (c.evTail + 1) % 64 ∧ (t.fwCore n).evHead = c.evHead ∧
      let a := 0xFE000 + 64 * c.evTail
      let m := (t.fwCore n).sram
      m.num a 8 = (r.kind + r.guest * 2 ^ 8 + r.core * 2 ^ 16 + r.slot * 2 ^ 22 + r.ticket * 2 ^ 32) % 2 ^ 64 ∧
      m.num (a + 8) 8 = r.addr.toNat ∧ m.num (a + 16) 8 = r.info.toNat ∧ m.num (a + 24) 8 = r.pcs.c.toNat ∧
      m.num (a + 32) 8 = r.pcs.l.toNat ∧ m.num (a + 40) 8 = r.pcs.x.toNat ∧ m.num (a + 48) 8 = r.pcs.s.toNat ∧
      m.num (a + 56) 8 = r.cause % 256 ∧ ∀ x, (x < a ∨ a + 64 ≤ x) → m.byte x = c.sram.byte x

/-- 15 R391 to R398, 00 R445: a contract's roots and weight act at once and the rest, its partition among them, at the
next frame start; a write of another size or alignment than R445 allows is not performed and raises its exception; a
window begins when the one before it ends, a frame when its last window does, with the contracts of its guests in
effect and their charges at zero, and contexts of guests that are shut out are asked to stop; so are those of a guest
whose tile time is used up; a legal configuration is taken and an illegal one refused with err; a queue that holds
records keeps all but its ageing; and way masks take effect, by which no line is ordered before an access that it had.
Registers after odd writes are log entry 57. -/
def Obligations.Contracts : Prop :=
  (∀ (by_ : Writer) (g : Nat) (v : Word) (s : State), (∀ fn, by_ ≠ .host fn) → g < 200 →
    (∃ t, exec (.contractWrite by_ g 16 8 v) s = .next t ∧ t.guest g = { s.guest g with s1 := v &&& 0x0000FFFFFFFFF001 } ∧
      t.ctxs = s.ctxs) ∧
    (∃ t, exec (.contractWrite by_ g 24 8 v) s = .next t ∧ t.guest g = { s.guest g with s2 := v &&& 0x0000FFFFFFFFF001 } ∧
      t.ctxs = s.ctxs) ∧
    (∃ t, exec (.contractWrite by_ g 0 8 v) s = .next t ∧ t.ctxs = s.ctxs ∧
      (t.guest g).e0.extractLsb' 32 8 = (if v.extractLsb' 32 8 = 0 then 1 else v.extractLsb' 32 8) ∧
      (t.guest g).e0.extractLsb' 0 32 = (s.guest g).e0.extractLsb' 0 32 ∧
      (t.guest g).w0.extractLsb' 0 32 = v.extractLsb' 0 32 ∧
      (t.guest g).part = (s.guest g).part ∧
      (by_ ≠ .vesper → (t.guest g).partNext = (s.guest g).partNext) ∧
      (by_ = .vesper → (t.guest g).partNext = (v.extractLsb' 43 3).toNat)) ∧
    (∀ off size, off < 64 → regHalves off size = none →
      exec (.contractWrite by_ g off size v) s = .next (s.accessFault by_ false (0x11000000 + 64 * g + off) size)) ∧
    ∃ t, exec (.contractWrite by_ g 8 8 v) s = .next t ∧ t.ctxs = s.ctxs ∧ (t.guest g).e1 = (s.guest g).e1 ∧
      (t.guest g).w1.extractLsb' 0 32 = v.extractLsb' 0 32 ∧
      (t.guest g).w1.extractLsb' 32 9 =
        if s.shareFits g (v.extractLsb' 32 9).toNat then v.extractLsb' 32 9 else (s.guest g).w1.extractLsb' 32 9) ∧
  (∀ (p : Nat) (s : State), p < 8 → (s.part p).enabled = true → (s.part p).edge ≤ s.time →
    (∀ e ∈ s.ctxs, e.2.noMatrix) →
    let x := s.part p
    ∃ t, exec (.windowBoundary p) s = .next t ∧ t.dram = s.dram ∧
      (x.window + 1 < x.run.length →
        (t.part p).window = x.window + 1 ∧ (t.part p).edge = x.edge + x.run.getD (x.window + 1) 0 ∧ t.guests = s.guests) ∧
      (x.run.length ≤ x.window + 1 →
        (t.part p).window = 0 ∧ (t.part p).frames = x.frames + 1 ∧ (t.part p).next = none ∧
        (t.part p).run = x.next.getD x.run ∧ (t.part p).edge = x.edge + (x.next.getD x.run).headD 0 ∧
        (Tbl.rising 0 s.guests = true → ∀ g,
          ((s.guest g).part = p ∨ (s.guest g).partNext = p →
            (t.guest g).e0 = (s.guest g).w0 ∧ (t.guest g).e1 = (s.guest g).w1 ∧ (t.guest g).charge = 0 ∧
              (t.guest g).part = (s.guest g).partNext) ∧
          ((s.guest g).part ≠ p → (s.guest g).partNext ≠ p → t.guest g = s.guest g))) ∧
      ∀ core slot, slot < 4 → (s.ctx core slot).bound = true → (s.ctx core slot).stop = none →
        (s.ctx core slot).part = p → Tbl.rising 0 s.ctxs = true →
        (t.ctx core slot).stop = if t.admitted (s.ctx core slot).guest then none else some (.preempt .window)) ∧
  (∀ (g : Nat) (s : State), s.exhausted g = true → (s.guest g).told = false → (∀ e ∈ s.ctxs, e.2.noMatrix) →
    Tbl.rising 0 s.ctxs = true →
    ∃ t, exec (.tileTimeExhausted g) s = .next t ∧ (t.guest g).told = true ∧
      ∀ core slot, slot < 4 → (s.ctx core slot).bound = true → (s.ctx core slot).stop = none →
        (t.ctx core slot).stop = if (s.ctx core slot).guest = g then some (.preempt .tileTime) else none) ∧
  (∀ (by_ : Writer) (p off size : Nat) (v : Word) (s : State), (∀ fn, by_ ≠ .host fn) → p < 8 → off < 64 →
    regHalves off size = none →
    exec (.partitionConfigWrite p off ⟨by_, size⟩ v) s = .next (s.accessFault by_ false (0x11020000 + 64 * p + off) size)) ∧
  (∀ (by_ : Writer) (p : Nat) (v : Word) (s : State), (∀ fn, by_ ≠ .host fn) → p < 8 → (s.part p).enabled = false →
    let x := { s.part p with w0 := under 0x000000000077FFFF (s.part p).w0 v }
    let frame := (v.extractLsb' 0 14).toNat
    let lens := (List.range ((v.extractLsb' 14 4).toNat + 1)).map (s.part p).lenOf
    ∃ t, exec (.partitionConfigWrite p 0 ⟨by_, 8⟩ v) s = .next t ∧ t.ctxs = s.ctxs ∧
      (t.part p).w0.extractLsb' 0 18 = v.extractLsb' 0 18 ∧
      (lens.sum = frame → (∀ n ∈ lens, n ≠ 0) → 100 ≤ frame → frame ≤ 10000 →
        (t.part p).w0.getLsbD 19 = false ∧ (t.part p).enabled = v.getLsbD 18 ∧ (t.part p).run = lens.map (10 * ·) ∧
        (v.getLsbD 18 = true → (t.part p).window = 0 ∧ (t.part p).edge = s.time + 10 * lens.headD 0)) ∧
      ((lens.sum ≠ frame ∨ (∃ n ∈ lens, n = 0) ∨ frame < 100 ∨ 10000 < frame) →
        (t.part p).w0.getLsbD 19 = true ∧ (t.part p).enabled = false ∧ (t.part p).run = x.run)) ∧
  (∀ (by_ : Writer) (q off size : Nat) (v : Word) (s : State), (∀ fn, by_ ≠ .host fn) → q < 4096 → off < 8 →
    regHalves off size = none →
    exec (.queueConfigWrite q off ⟨by_, size⟩ v) s = .next (s.accessFault by_ false (0x11030000 + 8 * q + off) size)) ∧
  (∀ (by_ : Writer) (q : Nat) (v : Word) (s : State), (∀ fn, by_ ≠ .host fn) → q < 4096 →
    let old := s.queue q
    let age := min 1000 (max 10 (v.extractLsb' 26 10).toNat)
    ∃ t, exec (.queueConfigWrite q 0 ⟨by_, 8⟩ v) s = .next t ∧ t.ctxs = s.ctxs ∧
      (old.enable = true → old.recs ≠ [] → t.queue q = { old with ageing := age }) ∧
      ((old.enable = false ∨ old.recs = []) → v.extractLsb' 16 2 ≠ 3 →
        t.queue q = { old with
          ageing := age, capM1 := (v.extractLsb' 0 16).toNat, kind := (v.extractLsb' 16 2).toNat
          owner := (v.extractLsb' 18 8).toNat, enable := v.getLsbD 36 })) ∧
  ∀ (g : Nat) (s : State), g < 200 →
    ∃ t, exec (.wayChg g) s = .next t ∧ t.ctxs = s.ctxs ∧ t.dram.bytes = s.dram.bytes ∧
      t.guest g = { s.guest g with waysEff := (s.guest g).ways } ∧
      (Tbl.rising 0 s.dram.lines = true → ∀ pa,
        (s.dram.line pa).rts ≤ ((t.home (s.guest g).part pa).line pa).rts) ∧
      ((∀ l, (s.guest g).waysEff.get 0 l = (s.guest g).ways.get 0 l) → t.staging = s.staging ∧ t.dram = s.dram)

/-- 15 R399 to R401, 21 R418, 22 R426, R432: a partition move whose giver owns what it names, and keeps what its
guests need, begins; one that does not is refused with nothing moved; a move whose contexts and commands are done
passes the resources on; a reset of a guest ends its contexts, rings, tasks and launches, and zeroes its pages; and
its next occurrence is its completion. Moves and resets by repeated rows are log entries 17, 62 and 73. -/
def Obligations.MovesAndResets : Prop :=
  (∀ (src dst lane : Nat) (mask : BitVec 32) (s : State), src < 8 → dst < 8 → lane < 4 → s.move15.busy = false →
    (∀ i w, i ∈ [(Instr.partMovePairs src dst mask, moveWord 0 src dst mask 0),
        (.partMoveSlices src dst mask, moveWord 1 src dst mask 0), (.partMoveChannels src dst mask, moveWord 2 src dst mask 0),
        (.partMoveLanes src dst mask lane, moveWord 3 src dst mask lane)] → w = i.2 →
      (s.ownsMoved w = true → s.strands w = false → s.listed w = true →
        ∃ t, exec i.1 s = .next t ∧ t.move15 = ⟨w, true, 2, 0⟩ ∧ t.parts = s.parts ∧ t.lanes = s.lanes ∧ t.dram = s.dram ∧
          ∀ g, t.mayRun g = (s.mayRun g && s.partOf g != src && s.partOf g != dst)) ∧
      ((s.ownsMoved w = false ∨ s.strands w = true ∨ s.listed w = false) →
        exec i.1 s = .next { s with move15 := ⟨w, false, 0, 1⟩ })) ∧
    (s.ownsMoved (moveWord 0 src dst mask 0) = decide (mask &&& ~~~(s.part src).pairs = 0)) ∧
    (s.ownsMoved (moveWord 1 src dst mask 0) = decide (mask &&& ~~~(s.part src).slices = 0))) ∧
  (∀ (src dst : Nat) (mask : BitVec 32) (s : State), src < 8 → dst < 8 → src ≠ dst →
    s.move15 = ⟨moveWord 0 src dst mask 0, true, 2, 0⟩ → (∀ e ∈ s.ctxs, e.2.bound = false) → s.resetsLater = [] →
    ∃ t, exec (.partMovePairs src dst mask) s = .next t ∧ t.move15.busy = false ∧ t.move15.status = 0 ∧
      (t.part src).pairs = (s.part src).pairs &&& ~~~mask ∧ (t.part dst).pairs = (s.part dst).pairs ||| mask ∧
      t.dram.bytes = s.dram.bytes) ∧
  (∀ (src dst : Nat) (mask : BitVec 32) (s : State), src < 8 → dst < 8 → src ≠ dst →
    s.move15 = ⟨moveWord 1 src dst mask 0, true, 2, 0⟩ → (∀ e ∈ s.ctxs, e.2.bound = false) → s.resetsLater = [] →
    ∃ t, exec (.partMoveSlices src dst mask) s = .next t ∧ t.move15.busy = false ∧
      (t.part src).slices = (s.part src).slices &&& ~~~mask ∧ (t.part dst).slices = (s.part dst).slices ||| mask ∧
      t.dram.bytes = s.dram.bytes) ∧
  (∀ (g : Nat) (s : State), 8 ≤ g → g < 200 →
    let fn := g - 7
    (s.resets.contains g = false → s.move15.busy = false → Tbl.rising 0 s.ctxs = true →
      ∃ t, exec (.functionLevelReset fn) s = .next t ∧ exec (.vfReset fn) s = .next t ∧
        (s.vesper.ready = true → s.power.state ≠ .off → exec (.guestReset .host g) s = .next (t.answer [])) ∧
        t.resets = g :: s.resets ∧ (t.fn fn).busy = true ∧ t.mayRun g = false ∧ (t.guest g).s2 = 0 ∧ t.cq g = default ∧
        (∀ core slot, slot < 4 → (s.ctx core slot).bound = true → (s.ctx core slot).guest = g → t.ctx core slot = Ctx.empty) ∧
        (∀ n, n < 8 → (t.ring (8 * g + n)).enable = false ∧ (t.ring (8 * g + n)).pending = false ∧
          (t.ring (8 * g + n)).bound = none) ∧
        (∀ e ∈ t.tasks, e.2.guest ≠ g) ∧ (∀ e ∈ t.saved, e.2.img.guest ≠ g) ∧ (∀ q, (t.queue q).owner ≠ g) ∧
        ∀ e ∈ s.guestPages g, ∀ a, e.1 ≤ a → a < e.1 + e.2 → t.dram.bytes.byte a = 0) ∧
    (s.resets.contains g = true →
      ∃ t, exec (.functionLevelReset fn) s = .next t ∧ exec (.vfReset fn) s = .next t ∧ t.resets = s.resets.filter (· != g) ∧
        (t.fn fn).busy = false ∧ (t.fn fn).done = true ∧ t.irqs = s.irqs ++ [(fn, ((s.fn fn).int.extractLsb' 3 3).toNat)] ∧
        t.vesper.notices = s.vesper.notices ++ [.resetDone g] ∧ t.ctxs = s.ctxs ∧ t.dram = s.dram)) ∧
  ∀ s : State, ∃ t, exec (.functionLevelReset 0) s = .next t ∧ t.ctxs = s.ctxs ∧ t.resets = s.resets ∧ t.vesper.lock ≠ some .host

/-- 00 R5, R445, 15 Tables 15.1 to 15.1c, 22 Table 22.1, R424, 07 R146, R147, R428: a register of 8 bytes takes a
write of 4 or 8 bytes, aligned, and no other, which a scheduler core or Vesper meets as an exception, as an address
outside its map, and which a host's driver drops; a read of the same forms returns the register or its half, a host's
bad one zero, and a write-only register reads zero; each 1 written to a count of WZ.STAT clears its bit; a window of
PF0, of 64 GiB, reads and writes the memory that the manifest gives it, and an access outside that memory fails with
its offset; the peer reads, writes and operates on memory that no page lock holds. 15 R371 to R373: a core of the
control complex fetches from its SRAM alone; a CSR of the supervisor or user level is illegal to it, and mstatus.MPP
reads 3; a load or store at an address that is no multiple of its size, or outside the map, raises its exception; one
through the aperture reads or writes device memory as an access of T by the core, and waits for a page that is locked;
an AMO is one atomic access; an SC stores only where nothing has written the line since the LR that reserved it; and a
FENCE goes on. The RISC-V base's own effects are the model's reading (log entry 12). The RISC-V base is log entry 12,
causes of register accesses 58, window pieces 75. -/
def Obligations.RegistersAndWindows : Prop :=
  ((∀ (n size addr : Nat) (v : Word) (s : State), n < 4 → s.powered = true →
    (exec (.registerWrite (.sched n) 0x11050008 8 v) s = .next { s with fwResult := v }) ∧
    (exec (.registerWrite (.sched n) 0x11050008 4 v) s =
      .next { s with fwResult := (s.fwResult &&& 0xFFFFFFFF00000000#64) ||| (v &&& 0xFFFFFFFF#64) }) ∧
    (exec (.registerWrite (.sched n) 0x1105000C 4 v) s =
      .next { s with fwResult := (s.fwResult &&& 0xFFFFFFFF#64) ||| (v <<< 32) }) ∧
    (((size ≠ 4 ∧ size ≠ 8) ∨ addr % size ≠ 0 ∨ regAt addr = none) →
      ∃ t, exec (.registerWrite (.sched n) addr size v) s = .next t ∧ { t with fws := s.fws } = s ∧
        (t.fwCore n).mcause = (if addr % size = 0 then 7 else 6) ∧ (t.fwCore n).mtval = BitVec.ofNat 64 addr ∧ (t.fwCore n).mepc = (s.fwCore n).pc) ∧
    (∀ l, l < 30 → (∀ k, k < 4 → (v.extractLsb' (4 * k) 4).toNat < 8 ∨ (v.extractLsb' (4 * k) 4).toNat = 15) →
      ∃ t, exec (.registerWrite (.sched n) (0x11051000 + 8 * l) 8 v) s = .next t ∧
        t.lanes.get 0 l = (s.lanes.get 0 l &&& ~~~0xFFFF#64) ||| (v &&& 0xFFFF#64) ∧ t.ctxs = s.ctxs) ∧
    (∀ a r, regAt a = some r → a % 8 = 0 → (∀ m, r ≠ .cluster m 1) →
      s.readReg (.sched n) r a 8 = some (s, s.regWord (.sched n) r) ∧
      s.readReg (.sched n) r a 4 = some (s, s.regWord (.sched n) r &&& 0xFFFFFFFF) ∧
      s.readReg (.sched n) r (a + 4) 4 = some (s, s.regWord (.sched n) r >>> 32)) ∧
    s.regWord (.sched n) .answer = 0 ∧ s.regWord .vesper .next = 1#64 <<< 63) ∧
  (∀ (size addr k : Nat) (v : Word) (s : State), s.power.state ≠ .off →
    (((size ≠ 4 ∧ size ≠ 8) ∨ addr % size ≠ 0 ∨ vregAt addr = none) →
      exec (.registerWrite .vesper addr size v) s = .next { s with vesper := { s.vesper with
        core := s.vesper.core.raise (if addr % size = 0 then 7 else 6) (BitVec.ofNat 64 addr) } }) ∧
    (k < 2 → ∃ t, exec (.registerWrite .vesper (0x20000000 + 8 * k) 8 v) s = .next t ∧
      t.links.wz.get 0 k = s.links.wz.get 0 k &&& ~~~(v &&& 0x0000FFFFFFFF0000) ∧ t.ctxs = s.ctxs)) ∧
  (∀ (fn size addr : Nat) (v : Word) (s : State), (size ≠ 4 ∧ size ≠ 8) ∨ addr % size ≠ 0 →
    exec (.registerWrite (.host fn) addr size v) s = .next s ∧ s.hostRead fn addr size = 0) ∧
  (∀ (fn : Nat) (v : Word) (s : State), fn ≤ 192 → s.links.hostUp = true →
    ∃ t, exec (.registerWrite (.host fn) 0x1400 8 v) s = .next t ∧
      t.fn fn = { s.fn fn with
        done := (s.fn fn).done && !v.getLsbD 1, winErr := (s.fn fn).winErr && !v.getLsbD 2 } ∧ t.ctxs = s.ctxs) ∧
  (∀ (off : Nat) (bytes : List Byte) (s : State), s.links.hostUp = true → s.powered = true → off % 8 = 0 →
    off + 8 ≤ 2 ^ 36 → bytes.length = 8 →
    (s.pf0Range off 8 = true → fitted off = true →
      (∃ t, exec (.windowRead 0 off 8) s = .next t ∧ t.windowRead = s.dram.bytes.read off 8 ∧
        t.dram.bytes = s.dram.bytes ∧ t.ctxs = s.ctxs ∧ (s.fn 0).pts ≤ (t.fn 0).pts) ∧
      (s.locked off = false → ∃ t, exec (.windowWrite 0 off bytes) s = .next t ∧ t.dram.bytes.read off 8 = bytes ∧
        t.ctxs = s.ctxs ∧ ∀ x, (x < off ∨ off + 8 ≤ x) → t.dram.bytes.byte x = s.dram.bytes.byte x)) ∧
    (s.pf0Range off 8 = false →
      (∃ t, exec (.windowRead 0 off 8) s = .next t ∧ t.windowRead = [] ∧ (t.fn 0).winErr = true ∧
        ((s.fn 0).winErr = false → (t.fn 0).errOff = off % 2 ^ 48) ∧ t.dram = s.dram ∧ t.ctxs = s.ctxs) ∧
      ∃ t, exec (.windowWrite 0 off bytes) s = .next t ∧ (t.fn 0).winErr = true ∧ t.dram = s.dram ∧ t.ctxs = s.ctxs)) ∧
  ∀ (addr : Nat) (bytes : List Byte) (v expect : Word) (s : State), s.peerUp = true → s.powered = true → addr % 8 = 0 →
    fitted (addr + 7) = true → bytes.length = 8 →
    (∃ t, exec (.peerRead addr 8) s = .next t ∧ t.windowRead = s.dram.bytes.read addr 8 ∧ t.dram.bytes = s.dram.bytes ∧
      t.ctxs = s.ctxs) ∧
    (s.locked addr = false →
      (∃ t, exec (.peerWrite addr bytes) s = .next t ∧ t.dram.bytes.read addr 8 = bytes ∧ t.ctxs = s.ctxs ∧
        ∀ x, (x < addr ∨ addr + 8 ≤ x) → t.dram.bytes.byte x = s.dram.bytes.byte x) ∧
      (∃ t, exec (.peerAtomic addr (some .add) 3 v expect) s = .next t ∧ t.windowRead = s.dram.bytes.read addr 8 ∧
        t.dram.bytes.num addr 8 = (s.dram.bytes.num addr 8 + v.toNat) % 2 ^ 64 ∧ t.ctxs = s.ctxs) ∧
      ∃ t, exec (.peerAtomic addr none 3 v expect) s = .next t ∧ t.windowRead = s.dram.bytes.read addr 8 ∧
        t.dram.bytes.num addr 8 = (if s.dram.bytes.num addr 8 = expect.toNat then v.toNat else s.dram.bytes.num addr 8) ∧
        t.ctxs = s.ctxs)) ∧
  (∀ (w : Writer) (word : Word) (len : Nat) (rd rs1 rs2 : BitVec 5) (off : Word) (n : Nat) (s : State),
    (∀ fn, w ≠ .host fn) →
    let c := s.agent w
    let next := BitVec.ofNat 64 ((rvAddr w c.pc + len) % 2 ^ rvBits w)
    let ends (t : State) (v : Word) : Prop :=
      (t.agent w).pc = next ∧ (rd ≠ 0 → (t.agent w).reg rd = v) ∧ ∀ r, r ≠ rd → (t.agent w).reg r = c.reg r
    let a := rvAddr w (c.reg rs1 + off)
    let at0 := rvAddr w (c.reg rs1 + 0)
    (c.interrupt = none → rvSram w ≤ rvAddr w c.pc → s.rvFetch w = .done (s.rvRaise w 1 c.pc)) ∧
    (∀ kind src m, m / 2 ^ 8 % 4 ≤ 1 → s.rvExec w word len (.csr kind rd src m) = .next (s.rvRaise w 2 word)) ∧
    (∀ v, c.csr w 0x300 = some v → v.extractLsb' 11 2 = 3) ∧
    (∃ t, s.rvExec w word len .nop = .next t ∧ (t.agent w).pc = next ∧ (∀ r, (t.agent w).reg r = c.reg r) ∧
      t.dram = s.dram) ∧
    (a % n ≠ 0 → (∀ signed, s.rvExec w word len (.load rd rs1 off n signed) = .next (s.rvRaise w 4 (BitVec.ofNat 64 a))) ∧
      s.rvExec w word len (.store rs1 rs2 off n) = .next (s.rvRaise w 6 (BitVec.ofNat 64 a))) ∧
    (a % n = 0 → rvPlace w a = .none →
      (∀ signed, s.rvExec w word len (.load rd rs1 off n signed) = .next (s.rvRaise w 5 (BitVec.ofNat 64 a))) ∧
      s.rvExec w word len (.store rs1 rs2 off n) = .next (s.rvRaise w 7 (BitVec.ofNat 64 a))) ∧
    (∀ pa, a % n = 0 → rvPlace w a = .device pa →
      (∀ signed, s.dram.badIn pa n = false →
        ∃ t, s.rvExec w word len (.load rd rs1 off n signed) = .next t ∧
          ends t (if signed then sext64 (8 * n) (s.dram.bytes.num pa n) else BitVec.ofNat 64 (s.dram.bytes.num pa n)) ∧
          t.dram.bytes = s.dram.bytes ∧ c.pts ≤ (t.agent w).pts ∧ ((s.rvHome pa).line pa).wts ≤ (t.agent w).pts) ∧
      (s.locked pa = true → s.rvExec w word len (.store rs1 rs2 off n) = .next s) ∧
      (s.locked pa = false →
        ∃ t, s.rvExec w word len (.store rs1 rs2 off n) = .next t ∧ (t.agent w).pc = next ∧
          t.dram.bytes.read pa n = leBytes n (c.reg rs2).toNat ∧ ((s.rvHome pa).line pa).rts < (t.agent w).pts ∧
          ∀ x, (x < pa ∨ pa + n ≤ x) → t.dram.bytes.byte x = s.dram.bytes.byte x)) ∧
    ∀ pa, at0 % n = 0 → rvPlace w at0 = .device pa → s.dram.badIn pa n = false →
      (∃ t, s.rvExec w word len (.lr rd rs1 n) = .next t ∧ ends t (sext64 (8 * n) (s.dram.bytes.num pa n)) ∧
        (t.agent w).reservation = some (at0, n, s.rvStamp w at0)) ∧
      (s.locked pa = false →
        (∀ f, ∃ t, s.rvExec w word len (.amo f rd rs1 rs2 n) = .next t ∧ ends t (sext64 (8 * n) (s.dram.bytes.num pa n)) ∧
          t.dram.bytes.read pa n =
            leBytes n (f.res (8 * n) (BitVec.ofNat 64 (s.dram.bytes.num pa n)) (c.reg rs2)).toNat) ∧
        (c.reservation = some (at0, n, s.rvStamp w at0) →
          ∃ t, s.rvExec w word len (.sc rd rs1 rs2 n) = .next t ∧ ends t 0 ∧ (t.agent w).reservation = none ∧
            t.dram.bytes.read pa n = leBytes n (c.reg rs2).toNat)) ∧
      (c.reservation ≠ some (at0, n, s.rvStamp w at0) →
        ∃ t, s.rvExec w word len (.sc rd rs1 rs2 n) = .next t ∧ ends t 1 ∧ (t.agent w).reservation = none ∧
          t.dram.bytes = s.dram.bytes))

/-- 22 R421, R427 to R430, R432, 08 R187, 15 Table 15.1c: a link comes up with its width and rate, and its fall ends
the commands that move elements over it; a failed check counts a replay; a camera's frame is written to its slot and
its record posted, a period without one is a miss; a display scans the newest posted frame and names the buffer it
leaves, or misses. Edges of periods are log entry 74. -/
def Obligations.LinksAndStreams : Prop :=
  (∀ s : State,
    (∀ w r, w ∈ [1, 2, 4, 8, 16] → ∃ t, exec (.hostLinkUp w r) s = .next t ∧ t.links.hostUp = true ∧
      t.links.hostWidth = w ∧ t.links.hostRate = r ∧ { t with links := s.links } = s) ∧
    (∃ t, exec .hostLinkDown s = .next t ∧ t.links.hostUp = false ∧ t.vesper.lock ≠ some .host ∧ t.host = s.host ∧
      (s.vesper.lock = some .sideBand → t.vesper.lock = some .sideBand) ∧
      (Tbl.rising 0 s.ctxs = true → ∀ core slot j, j ∈ (t.ctx core slot).q0.jobs → j.st = .running → j.touches 3 = false)) ∧
    ∀ link, link < 2 →
      let w := s.links.wz.get 0 link
      (∀ n, 1 ≤ n → n ≤ 8 → ∃ t, exec (.walzelLinkUp link n) s = .next t ∧ t.peerUp = true ∧ t.ctxs = s.ctxs ∧
        (t.links.wz.get 0 link).getLsbD 0 = true ∧ (t.links.wz.get 0 link).extractLsb' 1 4 = BitVec.ofNat 4 n ∧
        (t.links.wz.get 0 link).extractLsb' 5 59 = w.extractLsb' 5 59) ∧
      (w.getLsbD 0 = true →
        (∃ t, exec (.walzelLinkDown link) s = .next t ∧ (t.links.wz.get 0 link).extractLsb' 0 5 = 0 ∧
          (t.links.wz.get 0 link).extractLsb' 5 59 = w.extractLsb' 5 59 ∧
          (t.peerUp = false → Tbl.rising 0 s.ctxs = true → ∀ core slot j, j ∈ (t.ctx core slot).q0.jobs →
            j.st = .running → j.touches 4 = false)) ∧
        ∃ t, exec (.crcFailure link) s = .next t ∧ t.ctxs = s.ctxs ∧
          (t.links.wz.get 0 link).extractLsb' 16 16 = BitVec.ofNat 16 (min 65535 ((w.extractLsb' 16 16).toNat + 1)) ∧
          (t.links.wz.get 0 link).extractLsb' 32 16 = BitVec.ofNat 16 (min 65535 ((w.extractLsb' 32 16).toNat + 1)) ∧
          (t.links.wz.get 0 link).extractLsb' 0 5 = w.extractLsb' 0 5)) ∧
  ∀ (n : Nat) (s : State), s.powered = true → n < 96 → (s.stream n).enabled = true →
    let x := s.stream n
    let q := x.outQ
    let room := s.feedFor q x.guest = true ∧ (s.queue q).room 1 = true
    (x.display = false →
      (∀ bytes s1 pts bad, s.served n = false → room → (x.period = 0 ∨ s.time < x.start + x.period) →
        s.stirred.writePieces x.guest 0 false (pieces 128 (x.slotOf x.frames) (bytes.take x.size)) = .ok s1 pts bad →
        ∃ t r, exec (.cameraFrame n bytes) s = .next t ∧ t.dram = s1.dram ∧
          (t.queue q).recs = (s.queue q).recs ++ [r] ∧ recField r.bytes 0 1 = 2 ∧
          recField r.bytes 16 8 = x.frames % 2 ^ 64 ∧ recField r.bytes 24 8 = x.slotOf x.frames % 2 ^ 64 ∧
          recField r.bytes 32 8 = s.time % 2 ^ 64 ∧
          recField r.bytes 40 1 = (if x.start + x.deadline < s.time then 1 else 0) ∧ t.served n = true ∧
          (t.stream n).frames = (x.frames + 1) % 2 ^ 32 ∧
          (t.stream n).misses = if x.start + x.deadline < s.time then min (x.misses + 1) (2 ^ 32 - 1) else x.misses) ∧
      (x.period ≠ 0 → x.start + x.period ≤ s.time →
        (s.served n = true → ∃ t, exec (.cameraPeriodEnd n) s = .next t ∧ t.queues = s.queues ∧
          t.stream n = { x with start := x.start + x.period }) ∧
        (s.served n = false → room → ∃ t r, exec (.cameraPeriodEnd n) s = .next t ∧
          (t.queue q).recs = (s.queue q).recs ++ [r] ∧ recField r.bytes 40 1 = 2 ∧
          (t.stream n).start = x.start + x.period ∧ (t.stream n).frames = x.frames ∧
          (t.stream n).misses = min (x.misses + 1) (2 ^ 32 - 1)))) ∧
    (x.display = true → s.served n = false → room → s.feedFor x.inQ x.guest = true → x.inQ ≠ q →
      (∀ r, (s.queue x.inQ).recs.getLast? = some r → ∃ t y, exec (.displayPeriodStart n) s = .next t ∧
        (t.queue x.inQ).recs = [] ∧ (t.queue q).recs = (s.queue q).recs ++ [y] ∧ recField y.bytes 40 1 = 0 ∧
        (∀ b, x.last = some b → recField y.bytes 24 8 = b.toNat) ∧
        (t.stream n).last = some (BitVec.ofNat 64 (recField r.bytes 16 8)) ∧
        (t.stream n).frames = (x.frames + 1) % 2 ^ 32 ∧ (t.stream n).misses = x.misses) ∧
      ((s.queue x.inQ).recs = [] → ∃ t y, exec (.displayPeriodStart n) s = .next t ∧
        (t.queue q).recs = (s.queue q).recs ++ [y] ∧ recField y.bytes 40 1 = 3 ∧ (t.stream n).last = x.last ∧
        (t.stream n).frames = (x.frames + 1) % 2 ^ 32 ∧ (t.stream n).misses = min (x.misses + 1) (2 ^ 32 - 1)))

/-- 22 R429 to R432, 13 R331, R338, 23 R443, R444: a command is refused by the mask ROM, and one that needs the lock
is refused to the side that lacks it; the lock goes to one side until that side gives it back; each command that is
served has its effect and answers, on the side-band or through the mailbox; one on the side-band ends IDLE, and in OFF
none is served. Layouts of requests are log entry 60, refusals 61, tokens 79. -/
def Obligations.VesperCommands : Prop :=
  (∀ (side : Side) (v : Word) (n : Nat) (b : List Byte) (votes : List (Nat × Nat)) (clocks : List (Nat × Word))
      (target mask idle : Nat) (s : State),
    let locked := [Instr.partMove side v, .streamSet side n b, .powerSet side votes clocks, .powerState side target mask idle]
    let s0 := if side = .sideBand then s.wake else s
    (s.power.state = .off → ∀ i, i ∈ locked ∨ i ∈ [.debugUnlock side b, .lockAcquire side, .lockRelease side,
      .getStatus side, .guestReset side n, .mboxGo] → exec i s = .next s) ∧
    (s.power.state ≠ .off →
    (∀ i, i ∈ locked ∨ i = .debugUnlock side b → s.vesper.ready = false → exec i s = .next (s0.answer [3])) ∧
    (∀ i, i ∈ locked → s.vesper.ready = true → s.vesper.lock ≠ some side → exec i s = .next (s0.answer [1])) ∧
    (s.vesper.lock = none ∨ s.vesper.lock = some side →
      (∃ t, exec (.lockAcquire side) s = .next t ∧ t.vesper = { s.vesper with lock := some side, answer := [0] } ∧
        { t with vesper := s.vesper } = s0) ∧
      ∃ t, exec (.lockRelease side) s = .next t ∧ t.vesper = { s.vesper with lock := none, answer := [0] } ∧
        { t with vesper := s.vesper } = s0) ∧
    (s.vesper.lock ≠ none → s.vesper.lock ≠ some side →
      exec (.lockAcquire side) s = .next (s0.answer [1]) ∧ exec (.lockRelease side) s = .next (s0.answer [1])) ∧
    (∃ t, exec (.getStatus side) s = .next t ∧ { t with vesper := s.vesper } = s0 ∧ t.vesper.answer.head? = some 0) ∧
    (s.vesper.ready = true → s.vesper.lock = some side → s.powered = true →
      (s.move15.busy = false →
        let w := moveWord (moveKind v) (moveFrom v) (moveTo v) (moveMask v) (moveLane v)
        (s.ownsMoved w = true → s.strands w = false → s.listed w = true →
          ∃ t, exec (.partMove side v) s = .next t ∧ t.move15 = ⟨w, true, 2, 0⟩ ∧ t.vesper.answer = [0] ∧ t.parts = s.parts) ∧
        ((s.ownsMoved w = false ∨ s.strands w = true ∨ s.listed w = false) →
          ∃ t, exec (.partMove side v) s = .next t ∧ t.move15 = ⟨w, false, 0, 1⟩ ∧ t.vesper.answer = [3] ∧ t.ctxs = s.ctxs)) ∧
      (n < 96 → b.length = 64 →
        let w (i : Nat) : Word := BitVec.ofNat 64 (recField b (8 * i) 8)
        let x : Stream := { (default : Stream) with w0 := w 0 }
        (x.enabled = true → x.port ≤ if x.display then 3 else 23) → s0.pipeLocked n x = false →
        s0.pipeLocked n { s.stream n with w0 := w 0 &&& 0x000001FFFFFFFFFF, w1 := w 1, w2 := w 2 &&& 0x01FFFFFFFFFFFFFF,
                                          w3 := w 3 &&& 0x0000003FFFFFFFFF } = false →
        ∃ t, exec (.streamSet side n b) s = .next t ∧ t.vesper.answer = [0] ∧ t.ctxs = s.ctxs ∧
          (t.stream n).w0 = w 0 &&& 0x000001FFFFFFFFFF ∧ (t.stream n).w1 = w 1 ∧
          (t.stream n).w2 = w 2 &&& 0x01FFFFFFFFFFFFFF ∧ (t.stream n).w3 = w 3 &&& 0x0000003FFFFFFFFF ∧
          (x.enabled = true → (s.stream n).enabled = false → (t.stream n).start = s.time)) ∧
      (∀ r x, r < 4 → votes = [(r, x)] → clocks = [] →
        ∃ t, exec (.powerSet side votes clocks) s = .next t ∧ t.vesper.answer = [0] ∧ t.ctxs = s.ctxs ∧
          (t.rail r).vote = min x (Config.railClamp r)) ∧
      (∀ k x, k < 8 → votes = [] → clocks = [(k, x)] →
        ∃ t, exec (.powerSet side votes clocks) s = .next t ∧ t.vesper.answer = [0] ∧ t.ctxs = s.ctxs ∧
          (t.cluster k).fReq = (x.extractLsb' 0 7).toNat ∧ (t.cluster k).vReq = (x.extractLsb' 8 7).toNat) ∧
      (target = 1 → ∃ t, exec (.powerState side target mask idle) s = .next t ∧ t.vesper.answer = [0] ∧ t.ctxs = s.ctxs ∧
        t.power.idleInterval = if idle = 0 then s.power.idleInterval else min 100000 (max 10 idle)) ∧
      (target = 2 → (∀ e ∈ s.ctxs, e.2.bound = false) →
        ∃ t, exec (.powerState side target mask idle) s = .next t ∧ t.vesper.answer = [0] ∧
          ∀ p, p < 8 → mask.testBit p = true → (t.part p).off = true ∧ ∀ g, t.partOf g = p → t.mayRun g = false) ∧
      (target = 3 → (∀ e ∈ s.ctxs, e.2.bound = false) →
        ∃ t, exec (.powerState side target mask idle) s = .next t ∧ t.vesper.answer = [0] ∧ t.power.state = .retention ∧
          t.dram.bytes = s.dram.bytes)) ∧
    (s.vesper.ready = true → b = [] →
      ∃ t k, exec (.debugUnlock side b) s = .next t ∧ t.trust.nonce = some (k, s.time + 60000000) ∧ k.length = 32 ∧
        t.vesper.answer = 0 :: k ∧ t.trust.debug = s.trust.debug ∧ t.ctxs = s.ctxs) ∧
    (s.vesper.ready = true → b ≠ [] → s0.inTransition = false →
      ∃ t, exec (.debugUnlock side b) s = .next t ∧ t.trust.nonce = none ∧ t.ctxs = s.ctxs ∧
        (s0.tokenOk b = true → t.vesper.answer = [0] ∧
          ((recField b 0 8).testBit 8 = true → t.trust.debug = 2 ∧ t.trust.keys = false) ∧
          (∀ p, p < 8 → (recField b 0 8).testBit p = true → t.trust.unlocked.getLsbD p = true)) ∧
        (s0.tokenOk b = false → t.vesper.answer = [3] ∧ t.trust.debug = s.trust.debug ∧
          t.trust.unlocked = s.trust.unlocked ∧ t.trust.keys = s.trust.keys)))) ∧
  ∀ s : State, s.power.state ≠ .off →
    let req := s.vesper.mbox.read 0 128
    (Config.mboxDecode req = none → ∃ t, exec .mboxGo s = .next t ∧ t.ctxs = s.ctxs ∧ t.vesper.mbox.byte 0xFC = 0 ∧
      t.vesper.mbox.byte 0x80 = 2) ∧
    (Config.mboxDecode req = some .lockAcquire → s.vesper.lock = none →
      ∃ t, exec .mboxGo s = .next t ∧ t.ctxs = s.ctxs ∧ t.vesper.lock = some .host ∧ t.vesper.mbox.byte 0xFC = 0 ∧
        t.vesper.mbox.byte 0x80 = 0)

/-- 23 R433, R434, R441, R443, R444, Table 23.5: boot takes the first copy that is accepted, measures it, and releases
the cores, or releases none; a nonce ends at its time; the debugger acts on a context only where debug is unlocked, on
a halted one; SPDM goes through version, capabilities and algorithms before it answers, signs only while the keys
exist, and keeps its sessions until they end or the debug state changes. Algorithms without a body are log entry 10,
manifest checks 71, the order of SPDM 78, debug reach 80. -/
def Obligations.BootDebugAndAttestation : Prop :=
  (∀ s : State, s.trust.booted = false → s.trust.failed = none →
    ([0, 0x01000000].find? s.trust.accepts = none →
      ∃ t, exec .keyOnBoot s = .next t ∧ t.trust.booted = false ∧ t.trust.failed = some (1, 64) ∧ t.fws = s.fws ∧
        t.vesper.ready = s.vesper.ready ∧
        t.trust.meas.get 0 0 = Config.sha512 (digestBytes 0 ++ digestBytes Config.romDigest)) ∧
    (∀ base, [0, 0x01000000].find? s.trust.accepts = some base →
      let l := entriesAt s.trust.flash base
      ((∀ e ∈ l, e.kind = 4 ∨ Config.sha512 (e.image s.trust.flash) = e.digest) →
        (∀ e ∈ l, e.kind = 3 → fitted e.load = true ∧ fitted (e.load + (e.length - 1)) = true) →
        ∃ t, exec .keyOnBoot s = .next t ∧ t.trust.booted = true ∧ t.trust.failed = none ∧ t.vesper.ready = true ∧
          s.trust.floor ≤ t.trust.floor ∧ (∀ r ∈ t.trust.policy, r.type = 0 → (r.part, r.base, r.size) ∈ t.ranges) ∧
          (∀ e ∈ l, e.kind = 0 → e.target < 4 → (t.fwCore e.target).released = true)) ∧
      ((∃ e ∈ l, e.kind ≠ 4 ∧ Config.sha512 (e.image s.trust.flash) ≠ e.digest) →
        ∃ t n, exec .keyOnBoot s = .next t ∧ t.trust.booted = false ∧ t.trust.failed = some (if base = 0 then 0 else 1, n) ∧
          t.fws = s.fws ∧ t.vesper.ready = s.vesper.ready))) ∧
  (∀ (n : List Byte) (due : Nat) (s : State), s.trust.nonce = some (n, due) →
    ∃ t, exec .nonceExpiry s = .next t ∧ { t with trust := s.trust } = s ∧
      t.trust = if due ≤ s.time then { s.trust with nonce := none } else s.trust) ∧
  (∀ (core slot : Nat) (op : DebugOp) (y : Sq) (r a : Nat) (v : Word) (s : State),
    let c := s.ctx core slot
    (s.debuggable core slot = false → exec (.debugAccess core slot op) s = .next s.wake) ∧
    (s.debuggable core slot = true →
      (∃ t, exec (.debugAccess core slot .halt) s = .next t ∧ t.ctx core slot = { c with halted := true }) ∧
      (∃ t, exec (.debugAccess core slot .release) s = .next t ∧ t.ctx core slot = { c with halted := false }) ∧
      (c.halted = true → c.quiet = true → r < 32 →
        (∃ t, exec (.debugAccess core slot (.readReg y r)) s = .next t ∧ t.trust.debugAnswer = (c.seq.get y).reg r ∧
          t.ctx core slot = c ∧ t.dram = s.dram) ∧
        (∃ t, exec (.debugAccess core slot (.writeReg y r v)) s = .next t ∧
          (r ≠ 0 → ((t.ctx core slot).seq.get y).reg r = v) ∧ ((t.ctx core slot).seq.get y).reg 0 = 0 ∧
          ∀ k, k ≠ r → ((t.ctx core slot).seq.get y).reg k = (c.seq.get y).reg k) ∧
        (∃ t, exec (.debugAccess core slot (.readPc y)) s = .next t ∧
          t.trust.debugAnswer = (c.seq.get y).pc.setWidth 64) ∧
        (∃ t, exec (.debugAccess core slot (.writePc y (v.setWidth 57))) s = .next t ∧
          ((t.ctx core slot).seq.get y).pc = v.setWidth 57 &&& ~~~7#57 ∧ ((t.ctx core slot).seq.get y).s = (c.seq.get y).s) ∧
        (c.allocated a = true →
          (∃ t, exec (.debugAccess core slot (.readSpad a)) s = .next t ∧
            t.trust.debugAnswer = (c.spad.bytes.byte a).setWidth 64 ∧ t.ctx core slot = c) ∧
          ∃ t, exec (.debugAccess core slot (.writeSpad a (v.setWidth 8))) s = .next t ∧
            (t.ctx core slot).spad.bytes.byte a = v.setWidth 8 ∧
            ∀ x, x ≠ a → (t.ctx core slot).spad.bytes.byte x = c.spad.bytes.byte x) ∧
        (∀ n w, c.readSr core slot (s.core core).cycle y n = some w →
          ∃ t, exec (.debugAccess core slot (.readSr y n)) s = .next t ∧ t.trust.debugAnswer = w ∧ t.ctx core slot = c) ∧
        (∀ n, srWritable n = true →
          ∃ t, exec (.debugAccess core slot (.writeSr n v)) s = .next t ∧ t.ctx core slot = c.writeSr n v) ∧
        (∀ z i k, z < c.tilesN → i < 64 → k < 64 →
          (∃ t, exec (.debugAccess core slot (.readCell z i k)) s = .next t ∧
            t.trust.debugAnswer = ((c.tile z).cell i k).setWidth 64 ∧ t.ctx core slot = c) ∧
          ∃ t, exec (.debugAccess core slot (.writeCell z i k (v.setWidth 32))) s = .next t ∧
            ((t.ctx core slot).tile z).cell i k = v.setWidth 32 ∧
            ∀ x, x ≠ z → (t.ctx core slot).tile x = c.tile x) ∧
        (∀ p i, 1 ≤ p → p < 8 → i < 4 →
          (∃ t, exec (.debugAccess core slot (.readPred p i)) s = .next t ∧
            t.trust.debugAnswer = (c.pred p).extractLsb' (64 * i) 64 ∧ t.ctx core slot = c) ∧
          ∃ t, exec (.debugAccess core slot (.writePred p i v)) s = .next t ∧
            ((t.ctx core slot).pred p).extractLsb' (64 * i) 64 = v)))) ∧
  ∀ (chain block session slots : Nat) (data : List Byte) (s : State), s.powered = true →
    let u := s.trust
    let replies (o : Out) (code : Nat) (fields : List (List Byte)) (v : Trust) : Prop :=
      ∃ t, o = .next t ∧ t.trust = { v with spdmAnswer := Config.spdmFormat code fields } ∧
        { t with trust := s.trust, free := s.free } = s
    let sig (fields : List (List Byte)) : List Byte := Config.sign chain (u.meas.get 0 1) fields.flatten
    replies (exec .getVersion s) 0x04 [[0x13]] { u with spdm := 1, algs := 0, sessions := [] } ∧
    (u.spdm = 1 → replies (exec .getCapabilities s) 0x61 [] { u with spdm := 2 }) ∧
    (u.spdm = 2 → replies (exec (.negotiateAlgorithms slots) s) 0x63 [leBytes 1 (slots % 4)] { u with spdm := 3, algs := slots % 4 }) ∧
    (u.spdm = 3 → ∀ n v, u.block n = some v → 1 ≤ n → n < 0xFF →
      replies (exec (.getMeasurements chain n false) s) 0x60 [v] u ∧
      (chain < 2 → u.algs.testBit chain = true → u.keys = true →
        replies (exec (.getMeasurements chain n true) s) 0x60 [v, sig [v]] u)) ∧
    (u.spdm = 3 → chain < 2 → u.algs.testBit chain = true →
      replies (exec (.getCertificate chain) s) 0x02 [Config.certChain chain] u ∧
      (u.algs = 3 → replies (exec .getDigests s) 0x01
        [digestBytes (Config.sha512 (Config.certChain 0)), digestBytes (Config.sha512 (Config.certChain 1))] u) ∧
      (u.keys = true →
        (let f := [digestBytes (Config.sha512 (Config.certChain chain)), data]
         replies (exec (.challenge chain data) s) 0x03 (f ++ [sig f]) u) ∧
        ∃ n, n < 2 ^ 32 ∧
          let f := [leBytes 4 n, data]
          replies (exec (.keyExchange chain data) s) 0x64 (f ++ [sig f]) { u with sessions := (n, false) :: u.sessions }) ∧
      (u.keys = false →
        replies (exec (.challenge chain data) s) 0x7F [] u ∧ replies (exec (.keyExchange chain data) s) 0x7F [] u ∧
        replies (exec (.getMeasurements chain block true) s) 0x7F [] u)) ∧
    (u.sessions.contains (session, false) = true →
      replies (exec (.finish session) s) 0x65 []
        { u with sessions := u.sessions.map fun e => if e.1 = session then (e.1, true) else e }) ∧
    (u.sessions.contains (session, true) = true →
      replies (exec (.endSession session) s) 0x6C [] { u with sessions := u.sessions.filter fun e => e.1 != session })
end

