-- ==== Sys2Proof/Laws/Arms.lean ====
section
/-! SUPPORT. Each arm of `exec` by name, so that no proof unfolds the whole dispatch. -/
namespace Sys2Proof.Machine

theorem exec_add (cm d a b) (s : State) : exec (.add cm d a b) s = execAdd cm d a b s := rfl
theorem exec_sub (cm d a b) (s : State) : exec (.sub cm d a b) s = execSub cm d a b s := rfl
theorem exec_mul (cm d a b) (s : State) : exec (.mul cm d a b) s = execMul cm d a b s := rfl
theorem exec_mulh (cm d a b) (s : State) : exec (.mulh cm d a b) s = execMulh cm d a b s := rfl
theorem exec_mulhu (cm d a b) (s : State) : exec (.mulhu cm d a b) s = execMulhu cm d a b s := rfl
theorem exec_div (cm d a b) (s : State) : exec (.div cm d a b) s = execDiv cm d a b s := rfl
theorem exec_divu (cm d a b) (s : State) : exec (.divu cm d a b) s = execDivu cm d a b s := rfl
theorem exec_rem (cm d a b) (s : State) : exec (.rem cm d a b) s = execRem cm d a b s := rfl
theorem exec_remu (cm d a b) (s : State) : exec (.remu cm d a b) s = execRemu cm d a b s := rfl
theorem exec_andR (cm d a b) (s : State) : exec (.andR cm d a b) s = execAnd cm d a b s := rfl
theorem exec_orR (cm d a b) (s : State) : exec (.orR cm d a b) s = execOr cm d a b s := rfl
theorem exec_xorR (cm d a b) (s : State) : exec (.xorR cm d a b) s = execXor cm d a b s := rfl
theorem exec_sll (cm d a b) (s : State) : exec (.sll cm d a b) s = execSll cm d a b s := rfl
theorem exec_srl (cm d a b) (s : State) : exec (.srl cm d a b) s = execSrl cm d a b s := rfl
theorem exec_sra (cm d a b) (s : State) : exec (.sra cm d a b) s = execSra cm d a b s := rfl
theorem exec_minR (cm d a b) (s : State) : exec (.minR cm d a b) s = execMin cm d a b s := rfl
theorem exec_maxR (cm d a b) (s : State) : exec (.maxR cm d a b) s = execMax cm d a b s := rfl
theorem exec_minu (cm d a b) (s : State) : exec (.minu cm d a b) s = execMinu cm d a b s := rfl
theorem exec_maxu (cm d a b) (s : State) : exec (.maxu cm d a b) s = execMaxu cm d a b s := rfl
theorem exec_slt (cm d a b) (s : State) : exec (.slt cm d a b) s = execSlt cm d a b s := rfl
theorem exec_sltu (cm d a b) (s : State) : exec (.sltu cm d a b) s = execSltu cm d a b s := rfl
theorem exec_addi (cm d a imm) (s : State) : exec (.addi cm d a imm) s = execAddi cm d a imm s := rfl
theorem exec_andi (cm d a imm) (s : State) : exec (.andi cm d a imm) s = execAndi cm d a imm s := rfl
theorem exec_ori (cm d a imm) (s : State) : exec (.ori cm d a imm) s = execOri cm d a imm s := rfl
theorem exec_xori (cm d a imm) (s : State) : exec (.xori cm d a imm) s = execXori cm d a imm s := rfl
theorem exec_slli (cm d a sh) (s : State) : exec (.slli cm d a sh) s = execSlli cm d a sh s := rfl
theorem exec_srli (cm d a sh) (s : State) : exec (.srli cm d a sh) s = execSrli cm d a sh s := rfl
theorem exec_srai (cm d a sh) (s : State) : exec (.srai cm d a sh) s = execSrai cm d a sh s := rfl
theorem exec_slti (cm d a imm) (s : State) : exec (.slti cm d a imm) s = execSlti cm d a imm s := rfl
theorem exec_li (cm d v) (s : State) : exec (.li cm d v) s = execLi cm d v s := rfl
theorem exec_bfx (cm d a pos lenM1 sx) (s : State) : exec (.bfx cm d a pos lenM1 sx) s = execBfx cm d a pos lenM1 sx s := rfl
theorem exec_bfi (cm d a pos lenM1) (s : State) : exec (.bfi cm d a pos lenM1) s = execBfi cm d a pos lenM1 s := rfl
theorem exec_clz (cm d a) (s : State) : exec (.clz cm d a) s = execClz cm d a s := rfl
theorem exec_ctz (cm d a) (s : State) : exec (.ctz cm d a) s = execCtz cm d a s := rfl
theorem exec_popc (cm d a) (s : State) : exec (.popc cm d a) s = execPopc cm d a s := rfl
theorem exec_cmp (cm kd a b cond) (s : State) : exec (.cmp cm kd a b cond) s = execCmp cm kd a b cond s := rfl
theorem exec_cmpi (cm kd a cond imm) (s : State) : exec (.cmpi cm kd a cond imm) s = execCmpi cm kd a cond imm s := rfl
theorem exec_kop (cm kd ka kb table) (s : State) : exec (.kop cm kd ka kb table) s = execKop cm kd ka kb table s := rfl
theorem exec_sel (cm d a b k neg) (s : State) : exec (.sel cm d a b k neg) s = execSel cm d a b k neg s := rfl
theorem exec_pbr (cm bn off) (s : State) : exec (.pbr cm bn off) s = execPbr cm bn off s := rfl
theorem exec_pbrr (cm bn a) (s : State) : exec (.pbrr cm bn a) s = execPbrr cm bn a s := rfl
theorem exec_br (cm bn k neg) (s : State) : exec (.br cm bn k neg) s = execBr cm bn k neg s := rfl
theorem exec_call (cm bn k neg) (s : State) : exec (.call cm bn k neg) s = execCall cm bn k neg s := rfl
theorem exec_loop (cm level count body) (s : State) : exec (.loop cm level count body) s = execLoop cm level count body s := rfl
theorem exec_endl (cm level k neg) (s : State) : exec (.endl cm level k neg) s = execEndl cm level k neg s := rfl
theorem exec_mfs (cm d num) (s : State) : exec (.mfs cm d num) s = execMfs cm d num s := rfl
theorem exec_mts (cm num a) (s : State) : exec (.mts cm num a) s = execMts cm num a s := rfl
theorem exec_nop (cm) (s : State) : exec (.nop cm) s = execNop cm s := rfl
theorem exec_endSeq (cm) (s : State) : exec (.endSeq cm) s = execEnd cm s := rfl
theorem exec_qdisc (cm srcs kinds) (s : State) : exec (.qdisc cm srcs kinds) s = execQdisc cm srcs kinds s := rfl
theorem exec_qstat (cm d ch) (s : State) : exec (.qstat cm d ch) s = execQstat cm d ch s := rfl
theorem exec_evset (cm a mask) (s : State) : exec (.evset cm a mask) s = execEvset cm a mask s := rfl
theorem exec_evclr (cm a mask) (s : State) : exec (.evclr cm a mask) s = execEvclr cm a mask s := rfl
theorem exec_evwaitm (cm d mask any) (s : State) : exec (.evwaitm cm d mask any) s = execEvwaitm cm d mask any s := rfl
theorem exec_bopush (cm dest k neg) (s : State) : exec (.bopush cm dest k neg) s = execBopush cm dest k neg s := rfl
theorem exec_brq (cm bn src neg) (s : State) : exec (.brq cm bn src neg) s = execBrq cm bn src neg s := rfl
theorem exec_rinit (cm rg a) (s : State) : exec (.rinit cm rg a) s = execRinit cm rg a s := rfl
theorem exec_racq (cm d rg) (s : State) : exec (.racq cm d rg) s = execRacq cm d rg s := rfl
theorem exec_rput (cm rg) (s : State) : exec (.rput cm rg) s = execRput cm rg s := rfl
theorem exec_rget (cm d rg) (s : State) : exec (.rget cm d rg) s = execRget cm d rg s := rfl
theorem exec_rrel (cm rg) (s : State) : exec (.rrel cm rg) s = execRrel cm rg s := rfl
theorem exec_rstat (cm d rg) (s : State) : exec (.rstat cm d rg) s = execRstat cm d rg s := rfl
theorem exec_wdog (cm d n) (s : State) : exec (.wdog cm d n) s = execWdog cm d n s := rfl
theorem exec_lds (cm d a size sx off) (s : State) : exec (.lds cm d a size sx off) s = execLds cm d a size sx off s := rfl
theorem exec_sts (cm d a size off) (s : State) : exec (.sts cm d a size off) s = execSts cm d a size off s := rfl
theorem exec_vldAddress (cm d a tag off) (s : State) : exec (.vldAddress cm d a tag off) s = execVldAddress cm d a tag off s := rfl
theorem exec_vldGenerator (cm d g tag) (s : State) : exec (.vldGenerator cm d g tag) s = execVldGenerator cm d g tag s := rfl
theorem exec_vstAddress (cm d a off) (s : State) : exec (.vstAddress cm d a off) s = execVstAddress cm d a off s := rfl
theorem exec_vstGenerator (cm g a) (s : State) : exec (.vstGenerator cm g a) s = execVstGenerator cm g a s := rfl
theorem exec_gset (cm g a) (s : State) : exec (.gset cm g a) s = execGset cm g a s := rfl
theorem exec_gpos (cm g a) (s : State) : exec (.gpos cm g a) s = execGpos cm g a s := rfl
theorem exec_genstat (cm d g) (s : State) : exec (.genstat cm d g) s = execGenstat cm d g s := rfl
theorem exec_zzero (cm tile countM1) (s : State) : exec (.zzero cm tile countM1) s = execZzero cm tile countM1 s := rfl
theorem exec_zinfo (cm d tile) (s : State) : exec (.zinfo cm d tile) s = execZinfo cm d tile s := rfl
theorem exec_ld (cm d a size sx off) (s : State) : exec (.ld cm d a size sx off) s = execLd cm d a size sx off s := rfl
theorem exec_st (cm d a size off) (s : State) : exec (.st cm d a size off) s = execSt cm d a size off s := rfl
theorem exec_lda (cm d a scope width) (s : State) : exec (.lda cm d a scope width) s = execLda cm d a scope width s := rfl
theorem exec_stl (cm a b scope width) (s : State) : exec (.stl cm a b scope width) s = execStl cm a b scope width s := rfl
theorem exec_amo (cm d a b scope op width) (s : State) : exec (.amo cm d a b scope op width) s = execAmo cm d a b scope op width s := rfl
theorem exec_cas (cm d a b scope width) (s : State) : exec (.cas cm d a b scope width) s = execCas cm d a b scope width s := rfl
theorem exec_red (cm a b scope op width) (s : State) : exec (.red cm a b scope op width) s = execRed cm a b scope op width s := rfl
theorem exec_fence (cm scope kinds) (s : State) : exec (.fence cm scope kinds) s = execFence cm scope kinds s := rfl
theorem exec_scset (cm n a d) (s : State) : exec (.scset cm n a d) s = execScset cm n a d s := rfl
theorem exec_scget (cm d n slices) (s : State) : exec (.scget cm d n slices) s = execScget cm d n slices s := rfl
theorem exec_cpush (cm d q a) (s : State) : exec (.cpush cm d q a) s = execCpush cm d q a s := rfl
theorem exec_cpop (cm d q) (s : State) : exec (.cpop cm d q) s = execCpop cm d q s := rfl
theorem exec_cpeek (cm d q) (s : State) : exec (.cpeek cm d q) s = execCpeek cm d q s := rfl
theorem exec_cchain (cm q a spad) (s : State) : exec (.cchain cm q a spad) s = execCchain cm q a spad s := rfl
theorem exec_ckick (cm q a n) (s : State) : exec (.ckick cm q a n) s = execCkick cm q a n s := rfl
theorem exec_cqstat (cm d q) (s : State) : exec (.cqstat cm d q) s = execCqstat cm d q s := rfl
theorem exec_cabort (cm q a) (s : State) : exec (.cabort cm q a) s = execCabort cm q a s := rfl
theorem exec_cvt (cm d a tag part sat p) (s : State) : exec (.cvt cm d a tag part sat p) s = execCvt cm d a tag part sat p s := rfl
theorem exec_cvtr (cm d a b p) (s : State) : exec (.cvtr cm d a b p) s = execCvtr cm d a b p s := rfl
theorem exec_qmx (cm d a sc prec part fit) (s : State) : exec (.qmx cm d a sc prec part fit) s = execQmx cm d a sc prec part fit s := rfl
theorem exec_dqmx (cm d a sc fmt part p) (s : State) : exec (.dqmx cm d a sc fmt part p) s = execDqmx cm d a sc fmt part p s := rfl
theorem exec_pack (cm d a b p) (s : State) : exec (.pack cm d a b p) s = execPack cm d a b p s := rfl
theorem exec_unpack (cm d a tag hi p) (s : State) : exec (.unpack cm d a tag hi p) s = execUnpack cm d a tag hi p s := rfl
theorem exec_ztag (cm tile tag) (s : State) : exec (.ztag cm tile tag) s = execZtag cm tile tag s := rfl
theorem exec_ztagr (cm d a b) (s : State) : exec (.ztagr cm d a b) s = execZtagr cm d a b s := rfl
theorem exec_vfadd (cm d a b p) (s : State) : exec (.vfadd cm d a b p) s = execVfadd cm d a b p s := rfl
theorem exec_vfsub (cm d a b p) (s : State) : exec (.vfsub cm d a b p) s = execVfsub cm d a b p s := rfl
theorem exec_vfmul (cm d a b p) (s : State) : exec (.vfmul cm d a b p) s = execVfmul cm d a b p s := rfl
theorem exec_vfma (cm d a b p) (s : State) : exec (.vfma cm d a b p) s = execVfma cm d a b p s := rfl
theorem exec_vfms (cm d a b p) (s : State) : exec (.vfms cm d a b p) s = execVfms cm d a b p s := rfl
theorem exec_vfnma (cm d a b p) (s : State) : exec (.vfnma cm d a b p) s = execVfnma cm d a b p s := rfl
theorem exec_vfmin (cm d a b p) (s : State) : exec (.vfmin cm d a b p) s = execVfmin cm d a b p s := rfl
theorem exec_vfmax (cm d a b p) (s : State) : exec (.vfmax cm d a b p) s = execVfmax cm d a b p s := rfl
theorem exec_vfabs (cm d a p) (s : State) : exec (.vfabs cm d a p) s = execVfabs cm d a p s := rfl
theorem exec_vfneg (cm d a p) (s : State) : exec (.vfneg cm d a p) s = execVfneg cm d a p s := rfl
theorem exec_vfscale (cm d a b p) (s : State) : exec (.vfscale cm d a b p) s = execVfscale cm d a b p s := rfl
theorem exec_vfrcp (cm d a p) (s : State) : exec (.vfrcp cm d a p) s = execVfrcp cm d a p s := rfl
theorem exec_vfrsq (cm d a p) (s : State) : exec (.vfrsq cm d a p) s = execVfrsq cm d a p s := rfl
theorem exec_vfsqrt (cm d a p) (s : State) : exec (.vfsqrt cm d a p) s = execVfsqrt cm d a p s := rfl
theorem exec_vfexp2 (cm d a p) (s : State) : exec (.vfexp2 cm d a p) s = execVfexp2 cm d a p s := rfl
theorem exec_vflog2 (cm d a p) (s : State) : exec (.vflog2 cm d a p) s = execVflog2 cm d a p s := rfl
theorem exec_vftanh (cm d a p) (s : State) : exec (.vftanh cm d a p) s = execVftanh cm d a p s := rfl
theorem exec_vfsigm (cm d a p) (s : State) : exec (.vfsigm cm d a p) s = execVfsigm cm d a p s := rfl
theorem exec_vfcmp (cm pd cond a b p) (s : State) : exec (.vfcmp cm pd cond a b p) s = execVfcmp cm pd cond a b p s := rfl
theorem exec_vfred (cm d a op p) (s : State) : exec (.vfred cm d a op p) s = execVfred cm d a op p s := rfl
theorem exec_vfscan (cm d a op p) (s : State) : exec (.vfscan cm d a op p) s = execVfscan cm d a op p s := rfl
theorem exec_viadd (cm d a b p) (s : State) : exec (.viadd cm d a b p) s = execViadd cm d a b p s := rfl
theorem exec_visub (cm d a b p) (s : State) : exec (.visub cm d a b p) s = execVisub cm d a b p s := rfl
theorem exec_vimul (cm d a b p) (s : State) : exec (.vimul cm d a b p) s = execVimul cm d a b p s := rfl
theorem exec_vimulh (cm d a b p) (s : State) : exec (.vimulh cm d a b p) s = execVimulh cm d a b p s := rfl
theorem exec_vimin (cm d a b p) (s : State) : exec (.vimin cm d a b p) s = execVimin cm d a b p s := rfl
theorem exec_vimax (cm d a b p) (s : State) : exec (.vimax cm d a b p) s = execVimax cm d a b p s := rfl
theorem exec_viand (cm d a b p) (s : State) : exec (.viand cm d a b p) s = execViand cm d a b p s := rfl
theorem exec_vior (cm d a b p) (s : State) : exec (.vior cm d a b p) s = execVior cm d a b p s := rfl
theorem exec_vixor (cm d a b p) (s : State) : exec (.vixor cm d a b p) s = execVixor cm d a b p s := rfl
theorem exec_vishl (cm d a b p) (s : State) : exec (.vishl cm d a b p) s = execVishl cm d a b p s := rfl
theorem exec_vishr (cm d a b p) (s : State) : exec (.vishr cm d a b p) s = execVishr cm d a b p s := rfl
theorem exec_vicmp (cm pd cond a b p) (s : State) : exec (.vicmp cm pd cond a b p) s = execVicmp cm pd cond a b p s := rfl
theorem exec_vired (cm d a op p) (s : State) : exec (.vired cm d a op p) s = execVired cm d a op p s := rfl
theorem exec_viadds (cm d a b p) (s : State) : exec (.viadds cm d a b p) s = execViadds cm d a b p s := rfl
theorem exec_vsel (cm d a b p) (s : State) : exec (.vsel cm d a b p) s = execVsel cm d a b p s := rfl
theorem exec_vmov (cm d a p) (s : State) : exec (.vmov cm d a p) s = execVmov cm d a p s := rfl
theorem exec_vbcastLine (cm d a index p) (s : State) : exec (.vbcastLine cm d a index p) s = execVbcastLine cm d a index p s := rfl
theorem exec_vbcastScalar (cm d sc tag p) (s : State) : exec (.vbcastScalar cm d sc tag p) s = execVbcastScalar cm d sc tag p s := rfl
theorem exec_vextIndex (cm d a index) (s : State) : exec (.vextIndex cm d a index) s = execVextIndex cm d a index s := rfl
theorem exec_vextScalar (cm d a sc) (s : State) : exec (.vextScalar cm d a sc) s = execVextScalar cm d a sc s := rfl
theorem exec_vinsIndex (cm d a index) (s : State) : exec (.vinsIndex cm d a index) s = execVinsIndex cm d a index s := rfl
theorem exec_vinsScalar (cm d a sc) (s : State) : exec (.vinsScalar cm d a sc) s = execVinsScalar cm d a sc s := rfl
theorem exec_vshuf (cm d a b p) (s : State) : exec (.vshuf cm d a b p) s = execVshuf cm d a b p s := rfl
theorem exec_vargmax (cm d a p) (s : State) : exec (.vargmax cm d a p) s = execVargmax cm d a p s := rfl
theorem exec_vrng (cm d p) (s : State) : exec (.vrng cm d p) s = execVrng cm d p s := rfl
theorem exec_plopLogical (cm pd pa pb table) (s : State) : exec (.plopLogical cm pd pa pb table) s = execPlopLogical cm pd pa pb table s := rfl
theorem exec_plopFirst (cm pd a) (s : State) : exec (.plopFirst cm pd a) s = execPlopFirst cm pd a s := rfl
theorem exec_pcnt (cm d pa pb first) (s : State) : exec (.pcnt cm d pa pb first) s = execPcnt cm d pa pb first s := rfl
theorem exec_mshape (cm shape) (s : State) : exec (.mshape cm shape) s = execMshape cm shape s := rfl
theorem exec_mma (cm acc ga gb bo init) (s : State) : exec (.mma cm acc ga gb bo init) s = execMma cm acc ga gb bo init s := rfl
theorem exec_mmas (cm acc ga gb bo init) (s : State) : exec (.mmas cm acc ga gb bo init) s = execMmas cm acc ga gb bo init s := rfl
theorem exec_mmac (cm acc ga gb bo init) (s : State) : exec (.mmac cm acc ga gb bo init) s = execMmac cm acc ga gb bo init s := rfl
theorem exec_mzero (cm acc bo) (s : State) : exec (.mzero cm acc bo) s = execMzero cm acc bo s := rfl
theorem exec_mplane (cm acc ga bo fmt block) (s : State) : exec (.mplane cm acc ga bo fmt block) s = execMplane cm acc ga bo fmt block s := rfl
theorem exec_mspack (cm acc ga bo fmt group) (s : State) : exec (.mspack cm acc ga bo fmt group) s = execMspack cm acc ga bo fmt group s := rfl
theorem exec_oqbind (cm a role) (s : State) : exec (.oqbind cm a role) s = execOqbind cm a role s := rfl
theorem exec_oqunbind (cm) (s : State) : exec (.oqunbind cm) s = execOqunbind cm s := rfl
theorem exec_mstat (cm d item) (s : State) : exec (.mstat cm d item) s = execMstat cm d item s := rfl
theorem exec_feedpop (cm d f a) (s : State) : exec (.feedpop cm d f a) s = execFeedpop cm d f a s := rfl
theorem exec_feedpush (cm d f a nowait) (s : State) : exec (.feedpush cm d f a nowait) s = execFeedpush cm d f a nowait s := rfl
theorem exec_feedstat (cm d f) (s : State) : exec (.feedstat cm d f) s = execFeedstat cm d f s := rfl
theorem exec_taskpush (cm d t a) (s : State) : exec (.taskpush cm d t a) s = execTaskpush cm d t a s := rfl
theorem exec_taskpop (cm d a) (s : State) : exec (.taskpop cm d a) s = execTaskpop cm d a s := rfl
theorem exec_taskdone (cm rerun) (s : State) : exec (.taskdone cm rerun) s = execTaskdone cm rerun s := rfl
theorem exec_sleep (cm d mask task) (s : State) : exec (.sleep cm d mask task) s = execSleep cm d mask task s := rfl
theorem exec_fork (cm d f a) (s : State) : exec (.fork cm d f a) s = execFork cm d f a s := rfl
theorem exec_garrive (cm a idx rew) (s : State) : exec (.garrive cm a idx rew) s = execGarrive cm a idx rew s := rfl
theorem exec_gwait (cm d a idx) (s : State) : exec (.gwait cm d a idx) s = execGwait cm d a idx s := rfl
theorem exec_gcancel (cm a idx) (s : State) : exec (.gcancel cm a idx) s = execGcancel cm a idx s := rfl
theorem exec_grpstat (cm d a) (s : State) : exec (.grpstat cm d a) s = execGrpstat cm d a s := rfl
theorem exec_pwracq (cm d level nowait) (s : State) : exec (.pwracq cm d level nowait) s = execPwracq cm d level nowait s := rfl
theorem exec_pwrrel (cm level) (s : State) : exec (.pwrrel cm level) s = execPwrrel cm level s := rfl
theorem exec_pwrq (cm d item) (s : State) : exec (.pwrq cm d item) s = execPwrq cm d item s := rfl
theorem exec_trap (cm a code) (s : State) : exec (.trap cm a code) s = execTrap cm a code s := rfl
theorem exec_brk (cm code) (s : State) : exec (.brk cm code) s = execBrk cm code s := rfl
theorem exec_hcall (cm d a code) (s : State) : exec (.hcall cm d a code) s = execHcall cm d a code s := rfl
theorem exec_tret (cm) (s : State) : exec (.tret cm) s = execTret cm s := rfl
theorem exec_budget (cm d a n) (s : State) : exec (.budget cm d a n) s = execBudget cm d a n s := rfl
theorem exec_discard (cm a d kind) (s : State) : exec (.discard cm a d kind) s = execDiscard cm a d kind s := rfl
theorem exec_ifence (cm) (s : State) : exec (.ifence cm) s = execIfence cm s := rfl
theorem exec_yield (cm) (s : State) : exec (.yield cm) s = execYield cm s := rfl
theorem exec_rfetch (rd rs1) (s : State) : exec (.rfetch rd rs1) s = execRfetch rd rs1 s := rfl
theorem exec_bfext (rd rs1 rs2) (s : State) : exec (.bfext rd rs1 rs2) s = execBfext rd rs1 rs2 s := rfl
theorem exec_swait (rd rs1 rs2) (s : State) : exec (.swait rd rs1 rs2) s = execSwait rd rs1 rs2 s := rfl
theorem exec_pclr (rs1) (s : State) : exec (.pclr rs1) s = execPclr rs1 s := rfl
theorem exec_dispatch (rd rs1 rs2) (s : State) : exec (.dispatch rd rs1 rs2) s = execDispatch rd rs1 rs2 s := rfl
theorem exec_qsave (rd rs1 rs2) (s : State) : exec (.qsave rd rs1 rs2) s = execQsave rd rs1 rs2 s := rfl
theorem exec_qload (rd rs1 rs2) (s : State) : exec (.qload rd rs1 rs2) s = execQload rd rs1 rs2 s := rfl
theorem exec_qbind (rd rs1 rs2) (s : State) : exec (.qbind rd rs1 rs2) s = execQbind rd rs1 rs2 s := rfl
theorem exec_instructionRetire (core slot y) (s : State) : exec (.instructionRetire core slot y) s = execInstructionRetire core slot y s := rfl
theorem exec_codeFetch (core slot y line) (s : State) : exec (.codeFetch core slot y line) s = execCodeFetch core slot y line s := rfl
theorem exec_waitTimeout (core slot y) (s : State) : exec (.waitTimeout core slot y) s = execWaitTimeout core slot y s := rfl
theorem exec_trapEntry (core slot) (s : State) : exec (.trapEntry core slot) s = execTrapEntry core slot s := rfl
theorem exec_budgetExpiry (core slot) (s : State) : exec (.budgetExpiry core slot) s = execBudgetExpiry core slot s := rfl
theorem exec_generatorRefill (core slot g) (s : State) : exec (.generatorRefill core slot g) s = execGeneratorRefill core slot g s := rfl
theorem exec_scrubPass (core corrTile corrSpad found) (s : State) : exec (.scrubPass core corrTile corrSpad found) s = execScrubPass core corrTile corrSpad found s := rfl
theorem exec_leaseExpiry (core line) (s : State) : exec (.leaseExpiry core line) s = execLeaseExpiry core line s := rfl
theorem exec_timeRebase (amount) (s : State) : exec (.timeRebase amount) s = execTimeRebase amount s := rfl
theorem exec_tableWalk (core slot va acc) (s : State) : exec (.tableWalk core slot va acc) s = execTableWalk core slot va acc s := rfl
theorem exec_pageMigrationSwitch (page dest lock) (s : State) : exec (.pageMigrationSwitch page dest lock) s = execPageMigrationSwitch page dest lock s := rfl
theorem exec_lazyPageLoad (guest ia) (s : State) : exec (.lazyPageLoad guest ia) s = execLazyPageLoad guest ia s := rfl
theorem exec_copy (core slot q seq n) (s : State) : exec (.copy core slot q seq n) s = execCopy core slot q seq n s := rfl
theorem exec_gather (core slot q seq n) (s : State) : exec (.gather core slot q seq n) s = execGather core slot q seq n s := rfl
theorem exec_scatter (core slot q seq n) (s : State) : exec (.scatter core slot q seq n) s = execScatter core slot q seq n s := rfl
theorem exec_reduce (core slot q seq n) (s : State) : exec (.reduce core slot q seq n) s = execReduce core slot q seq n s := rfl
theorem exec_fill (core slot q seq n) (s : State) : exec (.fill core slot q seq n) s = execFill core slot q seq n s := rfl
theorem exec_chainFetch (core slot q) (s : State) : exec (.chainFetch core slot q) s = execChainFetch core slot q s := rfl
theorem exec_commandComplete (core slot q seq) (s : State) : exec (.commandComplete core slot q seq) s = execCommandComplete core slot q seq s := rfl
theorem exec_engineTimeout (core slot q seq) (s : State) : exec (.engineTimeout core slot q seq) s = execEngineTimeout core slot q seq s := rfl
theorem exec_matrixComplete (core slot n residue) (s : State) : exec (.matrixComplete core slot n residue) s = execMatrixComplete core slot n residue s := rfl
theorem exec_jointOperationStart (core slot) (s : State) : exec (.jointOperationStart core slot) s = execJointOperationStart core slot s := rfl
theorem exec_launch (queue) (s : State) : exec (.launch queue) s = execLaunch queue s := rfl
theorem exec_instanceBind (launch inst) (s : State) : exec (.instanceBind launch inst) s = execInstanceBind launch inst s := rfl
theorem exec_instanceComplete (core slot) (s : State) : exec (.instanceComplete core slot) s = execInstanceComplete core slot s := rfl
theorem exec_launchCompletionPost (launch) (s : State) : exec (.launchCompletionPost launch) s = execLaunchCompletionPost launch s := rfl
theorem exec_dependenceMet (task) (s : State) : exec (.dependenceMet task) s = execDependenceMet task s := rfl
theorem exec_taskPlace (task) (s : State) : exec (.taskPlace task) s = execTaskPlace task s := rfl
theorem exec_taskAgeingExpiry (task) (s : State) : exec (.taskAgeingExpiry task) s = execTaskAgeingExpiry task s := rfl
theorem exec_taskSteal (task core slot) (s : State) : exec (.taskSteal task core slot) s = execTaskSteal task core slot s := rfl
theorem exec_groupTimeout (pa) (s : State) : exec (.groupTimeout pa) s = execGroupTimeout pa s := rfl
theorem exec_groupComplete (pa) (s : State) : exec (.groupComplete pa) s = execGroupComplete pa s := rfl
theorem exec_powerGrant (core slot) (s : State) : exec (.powerGrant core slot) s = execPowerGrant core slot s := rfl
theorem exec_loanReclaim (partition) (s : State) : exec (.loanReclaim partition) s = execLoanReclaim partition s := rfl
theorem exec_loanRestore (partition) (s : State) : exec (.loanRestore partition) s = execLoanRestore partition s := rfl
theorem exec_clockRequest (cluster v) (s : State) : exec (.clockRequest cluster v) s = execClockRequest cluster v s := rfl
theorem exec_clockSwitch (cluster) (s : State) : exec (.clockSwitch cluster) s = execClockSwitch cluster s := rfl
theorem exec_voteWithdraw (cluster) (s : State) : exec (.voteWithdraw cluster) s = execVoteWithdraw cluster s := rfl
theorem exec_railHoldExpiry (rail) (s : State) : exec (.railHoldExpiry rail) s = execRailHoldExpiry rail s := rfl
theorem exec_railMove (cluster v) (s : State) : exec (.railMove cluster v) s = execRailMove cluster v s := rfl
theorem exec_stallSample (cluster active mem pwr) (s : State) : exec (.stallSample cluster active mem pwr) s = execStallSample cluster active mem pwr s := rfl
theorem exec_pwrStallRead (cluster half) (s : State) : exec (.pwrStallRead cluster half) s = execPwrStallRead cluster half s := rfl
theorem exec_thermalSample (temps) (s : State) : exec (.thermalSample temps) s = execThermalSample temps s := rfl
theorem exec_throttleStep (cluster) (s : State) : exec (.throttleStep cluster) s = execThrottleStep cluster s := rfl
theorem exec_tripResume (by_) (s : State) : exec (.tripResume by_) s = execTripResume by_ s := rfl
theorem exec_idleEntry (s : State) : exec (.idleEntry) s = execIdleEntry s := rfl
theorem exec_idleExit (s : State) : exec (.idleExit) s = execIdleExit s := rfl
theorem exec_wakeInputRise (s : State) : exec (.wakeInputRise) s = execWakeInputRise s := rfl
theorem exec_wakeInputFall (s : State) : exec (.wakeInputFall) s = execWakeInputFall s := rfl
theorem exec_supplyRemoval (s : State) : exec (.supplyRemoval) s = execSupplyRemoval s := rfl
theorem exec_preemptRequest (core slot why blocks) (s : State) : exec (.preemptRequest core slot why blocks) s = execPreemptRequest core slot why blocks s := rfl
theorem exec_contextSave (core slot) (s : State) : exec (.contextSave core slot) s = execContextSave core slot s := rfl
theorem exec_contextRestore (saved) (s : State) : exec (.contextRestore saved) s = execContextRestore saved s := rfl
theorem exec_xlateInv (v) (s : State) : exec (.xlateInv v) s = execXlateInv v s := rfl
theorem exec_invalidationComplete (s : State) : exec (.invalidationComplete) s = execInvalidationComplete s := rfl
theorem exec_kick (ring tail) (s : State) : exec (.kick ring tail) s = execKick ring tail s := rfl
theorem exec_ringConfigWrite (by_ ring off size v) (s : State) : exec (.ringConfigWrite by_ ring off size v) s = execRingConfigWrite by_ ring off size v s := rfl
theorem exec_ageTick (s : State) : exec (.ageTick) s = execAgeTick s := rfl
theorem exec_completionEntryWrite (guest) (s : State) : exec (.completionEntryWrite guest) s = execCompletionEntryWrite guest s := rfl
theorem exec_eventRecordPost (fw) (s : State) : exec (.eventRecordPost fw) s = execEventRecordPost fw s := rfl
theorem exec_fwAnswerResume (ticket) (s : State) : exec (.fwAnswerResume ticket) s = execFwAnswerResume ticket s := rfl
theorem exec_fwAnswerDiscard (ticket) (s : State) : exec (.fwAnswerDiscard ticket) s = execFwAnswerDiscard ticket s := rfl
theorem exec_fwAnswerResult (ticket) (s : State) : exec (.fwAnswerResult ticket) s = execFwAnswerResult ticket s := rfl
theorem exec_contractWrite (by_ guest off size v) (s : State) : exec (.contractWrite by_ guest off size v) s = execContractWrite by_ guest off size v s := rfl
theorem exec_wayChg (guest) (s : State) : exec (.wayChg guest) s = execWayChg guest s := rfl
theorem exec_partitionConfigWrite (part off access v) (s : State) : exec (.partitionConfigWrite part off access v) s = execPartitionConfigWrite part off access v s := rfl
theorem exec_queueConfigWrite (queue off access v) (s : State) : exec (.queueConfigWrite queue off access v) s = execQueueConfigWrite queue off access v s := rfl
theorem exec_windowBoundary (part) (s : State) : exec (.windowBoundary part) s = execWindowBoundary part s := rfl
theorem exec_tileTimeExhausted (guest) (s : State) : exec (.tileTimeExhausted guest) s = execTileTimeExhausted guest s := rfl
theorem exec_partMovePairs (src dst mask) (s : State) : exec (.partMovePairs src dst mask) s = execPartMovePairs src dst mask s := rfl
theorem exec_partMoveSlices (src dst mask) (s : State) : exec (.partMoveSlices src dst mask) s = execPartMoveSlices src dst mask s := rfl
theorem exec_partMoveChannels (src dst mask) (s : State) : exec (.partMoveChannels src dst mask) s = execPartMoveChannels src dst mask s := rfl
theorem exec_partMoveLanes (src dst mask lane) (s : State) : exec (.partMoveLanes src dst mask lane) s = execPartMoveLanes src dst mask lane s := rfl
theorem exec_functionLevelReset (fn) (s : State) : exec (.functionLevelReset fn) s = execFunctionLevelReset fn s := rfl
theorem exec_vfReset (vf) (s : State) : exec (.vfReset vf) s = execVfReset vf s := rfl
theorem exec_guestReset (side guest) (s : State) : exec (.guestReset side guest) s = execGuestReset side guest s := rfl
theorem exec_memoryTempSample (ctrl temp rate) (s : State) : exec (.memoryTempSample ctrl temp rate) s = execMemoryTempSample ctrl temp rate s := rfl
theorem exec_registerWrite (by_ addr size v) (s : State) : exec (.registerWrite by_ addr size v) s = execRegisterWrite by_ addr size v s := rfl
theorem exec_windowRead (fn off size) (s : State) : exec (.windowRead fn off size) s = execWindowRead fn off size s := rfl
theorem exec_windowWrite (fn off bytes) (s : State) : exec (.windowWrite fn off bytes) s = execWindowWrite fn off bytes s := rfl
theorem exec_cqHeadWrite (fn head) (s : State) : exec (.cqHeadWrite fn head) s = execCqHeadWrite fn head s := rfl
theorem exec_hostLinkDown (s : State) : exec (.hostLinkDown) s = execHostLinkDown s := rfl
theorem exec_peerWrite (addr bytes) (s : State) : exec (.peerWrite addr bytes) s = execPeerWrite addr bytes s := rfl
theorem exec_peerAtomic (addr op width v expect) (s : State) : exec (.peerAtomic addr op width v expect) s = execPeerAtomic addr op width v expect s := rfl
theorem exec_walzelLinkDown (link) (s : State) : exec (.walzelLinkDown link) s = execWalzelLinkDown link s := rfl
theorem exec_cameraFrame (stream bytes) (s : State) : exec (.cameraFrame stream bytes) s = execCameraFrame stream bytes s := rfl
theorem exec_cameraPeriodEnd (stream) (s : State) : exec (.cameraPeriodEnd stream) s = execCameraPeriodEnd stream s := rfl
theorem exec_displayPeriodStart (stream) (s : State) : exec (.displayPeriodStart stream) s = execDisplayPeriodStart stream s := rfl
theorem exec_mboxGo (s : State) : exec (.mboxGo) s = execMboxGo s := rfl
theorem exec_getStatus (side) (s : State) : exec (.getStatus side) s = execGetStatus side s := rfl
theorem exec_lockAcquire (side) (s : State) : exec (.lockAcquire side) s = execLockAcquire side s := rfl
theorem exec_lockRelease (side) (s : State) : exec (.lockRelease side) s = execLockRelease side s := rfl
theorem exec_partMove (side v) (s : State) : exec (.partMove side v) s = execPartMove side v s := rfl
theorem exec_streamSet (side stream v) (s : State) : exec (.streamSet side stream v) s = execStreamSet side stream v s := rfl
theorem exec_powerSet (side votes clocks) (s : State) : exec (.powerSet side votes clocks) s = execPowerSet side votes clocks s := rfl
theorem exec_powerState (side target mask idle) (s : State) : exec (.powerState side target mask idle) s = execPowerState side target mask idle s := rfl
theorem exec_debugUnlock (side token) (s : State) : exec (.debugUnlock side token) s = execDebugUnlock side token s := rfl
theorem exec_nonceExpiry (s : State) : exec (.nonceExpiry) s = execNonceExpiry s := rfl
theorem exec_debugAccess (core slot op) (s : State) : exec (.debugAccess core slot op) s = execDebugAccess core slot op s := rfl
theorem exec_getVersion (s : State) : exec (.getVersion) s = execGetVersion s := rfl
theorem exec_getCapabilities (s : State) : exec (.getCapabilities) s = execGetCapabilities s := rfl
theorem exec_negotiateAlgorithms (slots) (s : State) : exec (.negotiateAlgorithms slots) s = execNegotiateAlgorithms slots s := rfl
theorem exec_getDigests (s : State) : exec (.getDigests) s = execGetDigests s := rfl
theorem exec_getCertificate (chain) (s : State) : exec (.getCertificate chain) s = execGetCertificate chain s := rfl
theorem exec_challenge (chain nonce) (s : State) : exec (.challenge chain nonce) s = execChallenge chain nonce s := rfl
theorem exec_getMeasurements (chain block sign) (s : State) : exec (.getMeasurements chain block sign) s = execGetMeasurements chain block sign s := rfl
theorem exec_keyExchange (chain data) (s : State) : exec (.keyExchange chain data) s = execKeyExchange chain data s := rfl
theorem exec_finish (session) (s : State) : exec (.finish session) s = execFinish session s := rfl
theorem exec_endSession (session) (s : State) : exec (.endSession session) s = execEndSession session s := rfl
theorem exec_keyOnBoot (s : State) : exec (.keyOnBoot) s = execKeyOnBoot s := rfl
theorem exec_walzelLinkUp (link width) (s : State) : exec (.walzelLinkUp link width) s = execWalzelLinkUp link width s := rfl
theorem exec_hostLinkUp (width rate) (s : State) : exec (.hostLinkUp width rate) s = execHostLinkUp width rate s := rfl
theorem exec_crcFailure (link) (s : State) : exec (.crcFailure link) s = execCrcFailure link s := rfl
theorem exec_peerRead (addr size) (s : State) : exec (.peerRead addr size) s = execPeerRead addr size s := rfl
theorem exec_railRampComplete (rail) (s : State) : exec (.railRampComplete rail) s = execRailRampComplete rail s := rfl

end Sys2Proof.Machine
end

