-- ==== Sys2Proof/Laws/Tbl.lean ====
section
/-! SUPPORT. Sparse tables: what is read after a write, and the canonical form. The read laws hold of every
table, canonical or not. -/
namespace Sys2Proof

/-- Reading past a prefix of keys that are at most `k`. -/
theorem Tbl.get_above {α : Type} (d : α) (t : Tbl α) (k j : Nat) (h : k < j) :
    Tbl.get d (Tbl.above t k) j = Tbl.get d t j := by
  induction t with
  | nil => rfl
  | cons e t ih =>
    obtain ⟨a, w⟩ := e
    by_cases ha : a ≤ k
    · rw [show Tbl.above ((a, w) :: t) k = Tbl.above t k by simp [Tbl.above, ha], ih]
      simp only [Tbl.get]
      rw [if_neg (by omega), if_neg (by omega)]
    · rw [show Tbl.above ((a, w) :: t) k = (a, w) :: t by simp [Tbl.above, ha]]

/-- Keys at most `k` are gone above `k`. -/
theorem Tbl.get_above_self {α : Type} (d : α) (t : Tbl α) (k j : Nat) (h : j ≤ k) :
    Tbl.get d (Tbl.above t k) j = d := by
  induction t with
  | nil => rfl
  | cons e t ih =>
    obtain ⟨a, w⟩ := e
    by_cases ha : a ≤ k
    · rw [show Tbl.above ((a, w) :: t) k = Tbl.above t k by simp [Tbl.above, ha], ih]
    · rw [show Tbl.above ((a, w) :: t) k = (a, w) :: t by simp [Tbl.above, ha]]
      simp only [Tbl.get]
      rw [if_neg (by omega), if_pos (by omega)]

/-- What a table reads as at a key just written. -/
@[simp] theorem Tbl.get_put_same {α : Type} [DecidableEq α] (d : α) (t : Tbl α) (k : Nat) (v : α) :
    Tbl.get d (Tbl.put d t k v) k = v := by
  induction t with
  | nil => by_cases h : v = d <;> simp [Tbl.put, Tbl.get, h]
  | cons e t ih =>
    obtain ⟨a, w⟩ := e
    simp only [Tbl.put]
    split
    · split
      · rename_i h; rw [Tbl.get_above_self d t k k le_rfl, h]
      · simp [Tbl.get]
    · split
      · split
        · rename_i h1 h2 h3; simp [Tbl.get, h1, h2, h3]
        · simp [Tbl.get]
      · rename_i h1 h2; simp [Tbl.get, h1, h2, ih]

/-- What a table reads as at every other key. -/
theorem Tbl.get_put_ne {α : Type} [DecidableEq α] (d : α) (t : Tbl α) (k j : Nat) (v : α) (h : j ≠ k) :
    Tbl.get d (Tbl.put d t k v) j = Tbl.get d t j := by
  induction t with
  | nil =>
    by_cases hv : v = d
    · simp [Tbl.put, hv]
    · simp [Tbl.put, hv, Tbl.get, Ne.symm h]
  | cons e t ih =>
    obtain ⟨a, w⟩ := e
    simp only [Tbl.put]
    split
    · rename_i ha
      split
      · rcases Nat.lt_or_gt_of_ne h with hj | hj
        · rw [Tbl.get_above_self d t k j (by omega)]
          simp only [Tbl.get]; rw [if_neg (by omega), if_pos (by omega)]
        · rw [Tbl.get_above d t k j hj]
          simp only [Tbl.get]; rw [if_neg (by omega), if_neg (by omega)]
      · simp only [Tbl.get, ha, if_neg (Ne.symm h)]
    · rename_i ha
      split
      · rename_i hk
        split
        · rfl
        · simp only [Tbl.get]
          rw [if_neg (Ne.symm h)]
          split
          · rw [if_neg (by omega), if_pos (by omega)]
          · rfl
      · simp only [Tbl.get, ih]

/-- Reading a table after a write, in one line. -/
theorem Tbl.get_put {α : Type} [DecidableEq α] (d : α) (t : Tbl α) (k j : Nat) (v : α) :
    Tbl.get d (Tbl.put d t k v) j = if j = k then v else Tbl.get d t j := by
  split
  · rename_i h; rw [h, Tbl.get_put_same]
  · rename_i h; exact Tbl.get_put_ne d t k j v h

/-- What a table with presence finds at a key just entered. -/
@[simp] theorem Tbl.find_ins_same {α : Type} (t : Tbl α) (k : Nat) (v : α) : Tbl.find (Tbl.ins t k v) k = some v := by
  induction t with
  | nil => simp [Tbl.ins, Tbl.find]
  | cons e t ih =>
    obtain ⟨a, w⟩ := e
    simp only [Tbl.ins]
    split
    · simp [Tbl.find]
    · split
      · simp [Tbl.find]
      · rename_i h1 h2; simp [Tbl.find, h1, h2, ih]

/-- What it finds at every other key. -/
theorem Tbl.find_ins_ne {α : Type} (t : Tbl α) (k j : Nat) (v : α) (h : j ≠ k) :
    Tbl.find (Tbl.ins t k v) j = Tbl.find t j := by
  induction t with
  | nil => simp [Tbl.ins, Tbl.find, Ne.symm h]
  | cons e t ih =>
    obtain ⟨a, w⟩ := e
    simp only [Tbl.ins]
    split
    · rename_i ha; simp only [Tbl.find, ha, if_neg (Ne.symm h)]
    · split
      · simp only [Tbl.find]
        rw [if_neg (Ne.symm h)]
        split
        · rw [if_neg (by omega), if_pos (by omega)]
        · rfl
      · simp only [Tbl.find, ih]

/-- A table that rises from a bound rises from every lower one. -/
theorem Tbl.rising_mono {α : Type} (t : Tbl α) (m n : Nat) (h : m ≤ n) (r : Tbl.rising n t = true) :
    Tbl.rising m t = true := by
  cases t with
  | nil => rfl
  | cons e t =>
    obtain ⟨a, w⟩ := e
    simp only [Tbl.rising, Bool.and_eq_true, decide_eq_true_eq] at r ⊢
    exact ⟨by omega, r.2⟩

/-- In a canonical table nothing stands at or below a passed key. -/
theorem Tbl.above_rising {α : Type} (t : Tbl α) (k : Nat) (r : Tbl.rising (k + 1) t = true) :
    Tbl.above t k = t := by
  cases t with
  | nil => rfl
  | cons e t =>
    obtain ⟨a, w⟩ := e
    simp only [Tbl.rising, Bool.and_eq_true, decide_eq_true_eq] at r
    simp [Tbl.above, show ¬ a ≤ k by omega]

/-- A write keeps the keys rising. -/
theorem Tbl.rising_put {α : Type} [DecidableEq α] (d : α) (t : Tbl α) (k : Nat) (v : α) (n : Nat) (hn : n ≤ k)
    (r : Tbl.rising n t = true) : Tbl.rising n (Tbl.put d t k v) = true := by
  induction t generalizing n with
  | nil => by_cases h : v = d <;> simp [Tbl.put, Tbl.rising, h, hn]
  | cons e t ih =>
    obtain ⟨a, w⟩ := e
    simp only [Tbl.rising, Bool.and_eq_true, decide_eq_true_eq] at r
    simp only [Tbl.put]
    split
    · rename_i ha; subst ha
      split
      · rw [Tbl.above_rising t a r.2]; exact Tbl.rising_mono t n (a + 1) (by omega) r.2
      · simp [Tbl.rising, r]
    · split
      · split
        · simp [Tbl.rising, r]
        · simp only [Tbl.rising, Bool.and_eq_true, decide_eq_true_eq]; exact ⟨hn, by omega, r.2⟩
      · simp only [Tbl.rising, Bool.and_eq_true, decide_eq_true_eq]
        exact ⟨r.1, ih (a + 1) (by omega) r.2⟩

/-- A write lists no default. -/
theorem Tbl.listed_put {α : Type} [DecidableEq α] (d : α) (t : Tbl α) (k : Nat) (v : α)
    (r : (t.all fun e => decide (e.2 ≠ d)) = true) : ((Tbl.put d t k v).all fun e => decide (e.2 ≠ d)) = true := by
  induction t with
  | nil => by_cases h : v = d <;> simp [Tbl.put, h]
  | cons e t ih =>
    obtain ⟨a, w⟩ := e
    simp only [List.all_cons, Bool.and_eq_true] at r
    simp only [Tbl.put]
    split
    · split
      · rw [List.all_eq_true] at r ⊢
        intro x hx
        exact r.2 x (List.dropWhile_suffix _ |>.subset hx)
      · rename_i hv; simp only [List.all_cons, Bool.and_eq_true]; exact ⟨by simpa using hv, r.2⟩
    · split
      · split
        · simp only [List.all_cons, Bool.and_eq_true]; exact r
        · rename_i hv; simp only [List.all_cons, Bool.and_eq_true]; exact ⟨by simpa using hv, r⟩
      · simp only [List.all_cons, Bool.and_eq_true]; exact ⟨r.1, ih r.2⟩

/-- A write keeps the canonical form. -/
theorem Tbl.wf_put {α : Type} [DecidableEq α] (d : α) (t : Tbl α) (k : Nat) (v : α) (h : Tbl.wf d t = true) :
    Tbl.wf d (Tbl.put d t k v) = true := by
  simp only [Tbl.wf, Bool.and_eq_true] at h ⊢
  exact ⟨Tbl.rising_put d t k v 0 (Nat.zero_le _) h.1, Tbl.listed_put d t k v h.2⟩

/-- A prefix of a canonical table is canonical when its keys stay rising; dropping entries keeps them so. -/
theorem Tbl.rising_filter {α : Type} (p : Nat × α → Bool) (t : Tbl α) (n : Nat) (r : Tbl.rising n t = true) :
    Tbl.rising n (t.filter p) = true := by
  induction t generalizing n with
  | nil => rfl
  | cons e t ih =>
    obtain ⟨a, w⟩ := e
    simp only [Tbl.rising, Bool.and_eq_true, decide_eq_true_eq] at r
    by_cases h : p (a, w) = true
    · simp only [List.filter_cons, h, if_true, Tbl.rising, Bool.and_eq_true, decide_eq_true_eq]
      exact ⟨r.1, ih (a + 1) r.2⟩
    · simp only [List.filter_cons, h, if_false, Bool.false_eq_true]
      exact Tbl.rising_mono _ n (a + 1) (by omega) (ih (a + 1) r.2)

/-- Dropping entries keeps the canonical form. -/
theorem Tbl.wf_filter {α : Type} [DecidableEq α] (d : α) (p : Nat × α → Bool) (t : Tbl α) (h : Tbl.wf d t = true) :
    Tbl.wf d (t.filter p) = true := by
  simp only [Tbl.wf, Bool.and_eq_true] at h ⊢
  refine ⟨Tbl.rising_filter p t 0 h.1, ?_⟩
  rw [List.all_eq_true] at h ⊢
  intro x hx
  exact h.2 x (List.mem_of_mem_filter hx)

end Sys2Proof
end

