-- ==== Sys2Proof/Laws/State.lean ====
section
/-! SUPPORT. One lemma for each field of State under each of its updates, and what the accessors read after
them. -/
namespace Sys2Proof.Machine

/-! ### setCtx -/

@[simp] theorem State.setCtx_moves (s : State) (a b : Nat) (c : Ctx) : (s.setCtx a b c).moves = s.moves := rfl
@[simp] theorem State.setCtx_free (s : State) (a b : Nat) (c : Ctx) : (s.setCtx a b c).free = s.free := rfl
@[simp] theorem State.setCtx_who (s : State) (a b : Nat) (c : Ctx) : (s.setCtx a b c).who = s.who := rfl
@[simp] theorem State.setCtx_fw (s : State) (a b : Nat) (c : Ctx) : (s.setCtx a b c).fw = s.fw := rfl
@[simp] theorem State.setCtx_time (s : State) (a b : Nat) (c : Ctx) : (s.setCtx a b c).time = s.time := rfl
@[simp] theorem State.setCtx_nextUid (s : State) (a b : Nat) (c : Ctx) : (s.setCtx a b c).nextUid = s.nextUid := rfl
@[simp] theorem State.setCtx_ticks (s : State) (a b : Nat) (c : Ctx) : (s.setCtx a b c).ticks = s.ticks := rfl
@[simp] theorem State.setCtx_cores (s : State) (a b : Nat) (c : Ctx) : (s.setCtx a b c).cores = s.cores := rfl
@[simp] theorem State.setCtx_dram (s : State) (a b : Nat) (c : Ctx) : (s.setCtx a b c).dram = s.dram := rfl
@[simp] theorem State.setCtx_staging (s : State) (a b : Nat) (c : Ctx) : (s.setCtx a b c).staging = s.staging := rfl
@[simp] theorem State.setCtx_host (s : State) (a b : Nat) (c : Ctx) : (s.setCtx a b c).host = s.host := rfl
@[simp] theorem State.setCtx_peer (s : State) (a b : Nat) (c : Ctx) : (s.setCtx a b c).peer = s.peer := rfl
@[simp] theorem State.setCtx_xlat (s : State) (a b : Nat) (c : Ctx) : (s.setCtx a b c).xlat = s.xlat := rfl
@[simp] theorem State.setCtx_guests (s : State) (a b : Nat) (c : Ctx) : (s.setCtx a b c).guests = s.guests := rfl
@[simp] theorem State.setCtx_parts (s : State) (a b : Nat) (c : Ctx) : (s.setCtx a b c).parts = s.parts := rfl
@[simp] theorem State.setCtx_ranges (s : State) (a b : Nat) (c : Ctx) : (s.setCtx a b c).ranges = s.ranges := rfl
@[simp] theorem State.setCtx_buckets (s : State) (a b : Nat) (c : Ctx) : (s.setCtx a b c).buckets = s.buckets := rfl
@[simp] theorem State.setCtx_ctrlBuckets (s : State) (a b : Nat) (c : Ctx) : (s.setCtx a b c).ctrlBuckets = s.ctrlBuckets := rfl
@[simp] theorem State.setCtx_lanes (s : State) (a b : Nat) (c : Ctx) : (s.setCtx a b c).lanes = s.lanes := rfl
@[simp] theorem State.setCtx_ctrls (s : State) (a b : Nat) (c : Ctx) : (s.setCtx a b c).ctrls = s.ctrls := rfl
@[simp] theorem State.setCtx_move15 (s : State) (a b : Nat) (c : Ctx) : (s.setCtx a b c).move15 = s.move15 := rfl
@[simp] theorem State.setCtx_queues (s : State) (a b : Nat) (c : Ctx) : (s.setCtx a b c).queues = s.queues := rfl
@[simp] theorem State.setCtx_tasks (s : State) (a b : Nat) (c : Ctx) : (s.setCtx a b c).tasks = s.tasks := rfl
@[simp] theorem State.setCtx_launches (s : State) (a b : Nat) (c : Ctx) : (s.setCtx a b c).launches = s.launches := rfl
@[simp] theorem State.setCtx_saved (s : State) (a b : Nat) (c : Ctx) : (s.setCtx a b c).saved = s.saved := rfl
@[simp] theorem State.setCtx_groups (s : State) (a b : Nat) (c : Ctx) : (s.setCtx a b c).groups = s.groups := rfl
@[simp] theorem State.setCtx_fws (s : State) (a b : Nat) (c : Ctx) : (s.setCtx a b c).fws = s.fws := rfl
@[simp] theorem State.setCtx_fwResult (s : State) (a b : Nat) (c : Ctx) : (s.setCtx a b c).fwResult = s.fwResult := rfl
@[simp] theorem State.setCtx_route (s : State) (a b : Nat) (c : Ctx) : (s.setCtx a b c).route = s.route := rfl
@[simp] theorem State.setCtx_rings (s : State) (a b : Nat) (c : Ctx) : (s.setCtx a b c).rings = s.rings := rfl
@[simp] theorem State.setCtx_cqs (s : State) (a b : Nat) (c : Ctx) : (s.setCtx a b c).cqs = s.cqs := rfl
@[simp] theorem State.setCtx_fns (s : State) (a b : Nat) (c : Ctx) : (s.setCtx a b c).fns = s.fns := rfl
@[simp] theorem State.setCtx_pf0Guest (s : State) (a b : Nat) (c : Ctx) : (s.setCtx a b c).pf0Guest = s.pf0Guest := rfl
@[simp] theorem State.setCtx_irqs (s : State) (a b : Nat) (c : Ctx) : (s.setCtx a b c).irqs = s.irqs := rfl
@[simp] theorem State.setCtx_peerBase (s : State) (a b : Nat) (c : Ctx) : (s.setCtx a b c).peerBase = s.peerBase := rfl
@[simp] theorem State.setCtx_peerSize (s : State) (a b : Nat) (c : Ctx) : (s.setCtx a b c).peerSize = s.peerSize := rfl
@[simp] theorem State.setCtx_resets (s : State) (a b : Nat) (c : Ctx) : (s.setCtx a b c).resets = s.resets := rfl
@[simp] theorem State.setCtx_resetsLater (s : State) (a b : Nat) (c : Ctx) : (s.setCtx a b c).resetsLater = s.resetsLater := rfl
@[simp] theorem State.setCtx_power (s : State) (a b : Nat) (c : Ctx) : (s.setCtx a b c).power = s.power := rfl
@[simp] theorem State.setCtx_streams (s : State) (a b : Nat) (c : Ctx) : (s.setCtx a b c).streams = s.streams := rfl
@[simp] theorem State.setCtx_links (s : State) (a b : Nat) (c : Ctx) : (s.setCtx a b c).links = s.links := rfl
@[simp] theorem State.setCtx_vesper (s : State) (a b : Nat) (c : Ctx) : (s.setCtx a b c).vesper = s.vesper := rfl
@[simp] theorem State.setCtx_trust (s : State) (a b : Nat) (c : Ctx) : (s.setCtx a b c).trust = s.trust := rfl
@[simp] theorem State.setCtx_windowRead (s : State) (a b : Nat) (c : Ctx) : (s.setCtx a b c).windowRead = s.windowRead := rfl

/-! ### setMe -/

@[simp] theorem State.setMe_moves (s : State) (c : Ctx) : (s.setMe c).moves = s.moves := rfl
@[simp] theorem State.setMe_free (s : State) (c : Ctx) : (s.setMe c).free = s.free := rfl
@[simp] theorem State.setMe_who (s : State) (c : Ctx) : (s.setMe c).who = s.who := rfl
@[simp] theorem State.setMe_fw (s : State) (c : Ctx) : (s.setMe c).fw = s.fw := rfl
@[simp] theorem State.setMe_time (s : State) (c : Ctx) : (s.setMe c).time = s.time := rfl
@[simp] theorem State.setMe_nextUid (s : State) (c : Ctx) : (s.setMe c).nextUid = s.nextUid := rfl
@[simp] theorem State.setMe_ticks (s : State) (c : Ctx) : (s.setMe c).ticks = s.ticks := rfl
@[simp] theorem State.setMe_cores (s : State) (c : Ctx) : (s.setMe c).cores = s.cores := rfl
@[simp] theorem State.setMe_dram (s : State) (c : Ctx) : (s.setMe c).dram = s.dram := rfl
@[simp] theorem State.setMe_staging (s : State) (c : Ctx) : (s.setMe c).staging = s.staging := rfl
@[simp] theorem State.setMe_host (s : State) (c : Ctx) : (s.setMe c).host = s.host := rfl
@[simp] theorem State.setMe_peer (s : State) (c : Ctx) : (s.setMe c).peer = s.peer := rfl
@[simp] theorem State.setMe_xlat (s : State) (c : Ctx) : (s.setMe c).xlat = s.xlat := rfl
@[simp] theorem State.setMe_guests (s : State) (c : Ctx) : (s.setMe c).guests = s.guests := rfl
@[simp] theorem State.setMe_parts (s : State) (c : Ctx) : (s.setMe c).parts = s.parts := rfl
@[simp] theorem State.setMe_ranges (s : State) (c : Ctx) : (s.setMe c).ranges = s.ranges := rfl
@[simp] theorem State.setMe_buckets (s : State) (c : Ctx) : (s.setMe c).buckets = s.buckets := rfl
@[simp] theorem State.setMe_ctrlBuckets (s : State) (c : Ctx) : (s.setMe c).ctrlBuckets = s.ctrlBuckets := rfl
@[simp] theorem State.setMe_lanes (s : State) (c : Ctx) : (s.setMe c).lanes = s.lanes := rfl
@[simp] theorem State.setMe_ctrls (s : State) (c : Ctx) : (s.setMe c).ctrls = s.ctrls := rfl
@[simp] theorem State.setMe_move15 (s : State) (c : Ctx) : (s.setMe c).move15 = s.move15 := rfl
@[simp] theorem State.setMe_queues (s : State) (c : Ctx) : (s.setMe c).queues = s.queues := rfl
@[simp] theorem State.setMe_tasks (s : State) (c : Ctx) : (s.setMe c).tasks = s.tasks := rfl
@[simp] theorem State.setMe_launches (s : State) (c : Ctx) : (s.setMe c).launches = s.launches := rfl
@[simp] theorem State.setMe_saved (s : State) (c : Ctx) : (s.setMe c).saved = s.saved := rfl
@[simp] theorem State.setMe_groups (s : State) (c : Ctx) : (s.setMe c).groups = s.groups := rfl
@[simp] theorem State.setMe_fws (s : State) (c : Ctx) : (s.setMe c).fws = s.fws := rfl
@[simp] theorem State.setMe_fwResult (s : State) (c : Ctx) : (s.setMe c).fwResult = s.fwResult := rfl
@[simp] theorem State.setMe_route (s : State) (c : Ctx) : (s.setMe c).route = s.route := rfl
@[simp] theorem State.setMe_rings (s : State) (c : Ctx) : (s.setMe c).rings = s.rings := rfl
@[simp] theorem State.setMe_cqs (s : State) (c : Ctx) : (s.setMe c).cqs = s.cqs := rfl
@[simp] theorem State.setMe_fns (s : State) (c : Ctx) : (s.setMe c).fns = s.fns := rfl
@[simp] theorem State.setMe_pf0Guest (s : State) (c : Ctx) : (s.setMe c).pf0Guest = s.pf0Guest := rfl
@[simp] theorem State.setMe_irqs (s : State) (c : Ctx) : (s.setMe c).irqs = s.irqs := rfl
@[simp] theorem State.setMe_peerBase (s : State) (c : Ctx) : (s.setMe c).peerBase = s.peerBase := rfl
@[simp] theorem State.setMe_peerSize (s : State) (c : Ctx) : (s.setMe c).peerSize = s.peerSize := rfl
@[simp] theorem State.setMe_resets (s : State) (c : Ctx) : (s.setMe c).resets = s.resets := rfl
@[simp] theorem State.setMe_resetsLater (s : State) (c : Ctx) : (s.setMe c).resetsLater = s.resetsLater := rfl
@[simp] theorem State.setMe_power (s : State) (c : Ctx) : (s.setMe c).power = s.power := rfl
@[simp] theorem State.setMe_streams (s : State) (c : Ctx) : (s.setMe c).streams = s.streams := rfl
@[simp] theorem State.setMe_links (s : State) (c : Ctx) : (s.setMe c).links = s.links := rfl
@[simp] theorem State.setMe_vesper (s : State) (c : Ctx) : (s.setMe c).vesper = s.vesper := rfl
@[simp] theorem State.setMe_trust (s : State) (c : Ctx) : (s.setMe c).trust = s.trust := rfl
@[simp] theorem State.setMe_windowRead (s : State) (c : Ctx) : (s.setMe c).windowRead = s.windowRead := rfl

/-! ### setSq -/

@[simp] theorem State.setSq_moves (s : State) (q : Seqr) : (s.setSq q).moves = s.moves := rfl
@[simp] theorem State.setSq_free (s : State) (q : Seqr) : (s.setSq q).free = s.free := rfl
@[simp] theorem State.setSq_who (s : State) (q : Seqr) : (s.setSq q).who = s.who := rfl
@[simp] theorem State.setSq_fw (s : State) (q : Seqr) : (s.setSq q).fw = s.fw := rfl
@[simp] theorem State.setSq_time (s : State) (q : Seqr) : (s.setSq q).time = s.time := rfl
@[simp] theorem State.setSq_nextUid (s : State) (q : Seqr) : (s.setSq q).nextUid = s.nextUid := rfl
@[simp] theorem State.setSq_ticks (s : State) (q : Seqr) : (s.setSq q).ticks = s.ticks := rfl
@[simp] theorem State.setSq_cores (s : State) (q : Seqr) : (s.setSq q).cores = s.cores := rfl
@[simp] theorem State.setSq_dram (s : State) (q : Seqr) : (s.setSq q).dram = s.dram := rfl
@[simp] theorem State.setSq_staging (s : State) (q : Seqr) : (s.setSq q).staging = s.staging := rfl
@[simp] theorem State.setSq_host (s : State) (q : Seqr) : (s.setSq q).host = s.host := rfl
@[simp] theorem State.setSq_peer (s : State) (q : Seqr) : (s.setSq q).peer = s.peer := rfl
@[simp] theorem State.setSq_xlat (s : State) (q : Seqr) : (s.setSq q).xlat = s.xlat := rfl
@[simp] theorem State.setSq_guests (s : State) (q : Seqr) : (s.setSq q).guests = s.guests := rfl
@[simp] theorem State.setSq_parts (s : State) (q : Seqr) : (s.setSq q).parts = s.parts := rfl
@[simp] theorem State.setSq_ranges (s : State) (q : Seqr) : (s.setSq q).ranges = s.ranges := rfl
@[simp] theorem State.setSq_buckets (s : State) (q : Seqr) : (s.setSq q).buckets = s.buckets := rfl
@[simp] theorem State.setSq_ctrlBuckets (s : State) (q : Seqr) : (s.setSq q).ctrlBuckets = s.ctrlBuckets := rfl
@[simp] theorem State.setSq_lanes (s : State) (q : Seqr) : (s.setSq q).lanes = s.lanes := rfl
@[simp] theorem State.setSq_ctrls (s : State) (q : Seqr) : (s.setSq q).ctrls = s.ctrls := rfl
@[simp] theorem State.setSq_move15 (s : State) (q : Seqr) : (s.setSq q).move15 = s.move15 := rfl
@[simp] theorem State.setSq_queues (s : State) (q : Seqr) : (s.setSq q).queues = s.queues := rfl
@[simp] theorem State.setSq_tasks (s : State) (q : Seqr) : (s.setSq q).tasks = s.tasks := rfl
@[simp] theorem State.setSq_launches (s : State) (q : Seqr) : (s.setSq q).launches = s.launches := rfl
@[simp] theorem State.setSq_saved (s : State) (q : Seqr) : (s.setSq q).saved = s.saved := rfl
@[simp] theorem State.setSq_groups (s : State) (q : Seqr) : (s.setSq q).groups = s.groups := rfl
@[simp] theorem State.setSq_fws (s : State) (q : Seqr) : (s.setSq q).fws = s.fws := rfl
@[simp] theorem State.setSq_fwResult (s : State) (q : Seqr) : (s.setSq q).fwResult = s.fwResult := rfl
@[simp] theorem State.setSq_route (s : State) (q : Seqr) : (s.setSq q).route = s.route := rfl
@[simp] theorem State.setSq_rings (s : State) (q : Seqr) : (s.setSq q).rings = s.rings := rfl
@[simp] theorem State.setSq_cqs (s : State) (q : Seqr) : (s.setSq q).cqs = s.cqs := rfl
@[simp] theorem State.setSq_fns (s : State) (q : Seqr) : (s.setSq q).fns = s.fns := rfl
@[simp] theorem State.setSq_pf0Guest (s : State) (q : Seqr) : (s.setSq q).pf0Guest = s.pf0Guest := rfl
@[simp] theorem State.setSq_irqs (s : State) (q : Seqr) : (s.setSq q).irqs = s.irqs := rfl
@[simp] theorem State.setSq_peerBase (s : State) (q : Seqr) : (s.setSq q).peerBase = s.peerBase := rfl
@[simp] theorem State.setSq_peerSize (s : State) (q : Seqr) : (s.setSq q).peerSize = s.peerSize := rfl
@[simp] theorem State.setSq_resets (s : State) (q : Seqr) : (s.setSq q).resets = s.resets := rfl
@[simp] theorem State.setSq_resetsLater (s : State) (q : Seqr) : (s.setSq q).resetsLater = s.resetsLater := rfl
@[simp] theorem State.setSq_power (s : State) (q : Seqr) : (s.setSq q).power = s.power := rfl
@[simp] theorem State.setSq_streams (s : State) (q : Seqr) : (s.setSq q).streams = s.streams := rfl
@[simp] theorem State.setSq_links (s : State) (q : Seqr) : (s.setSq q).links = s.links := rfl
@[simp] theorem State.setSq_vesper (s : State) (q : Seqr) : (s.setSq q).vesper = s.vesper := rfl
@[simp] theorem State.setSq_trust (s : State) (q : Seqr) : (s.setSq q).trust = s.trust := rfl
@[simp] theorem State.setSq_windowRead (s : State) (q : Seqr) : (s.setSq q).windowRead = s.windowRead := rfl

/-! ### fresh -/

@[simp] theorem State.fresh_moves (s : State) : (s.fresh).moves = s.moves := rfl
@[simp] theorem State.fresh_who (s : State) : (s.fresh).who = s.who := rfl
@[simp] theorem State.fresh_fw (s : State) : (s.fresh).fw = s.fw := rfl
@[simp] theorem State.fresh_time (s : State) : (s.fresh).time = s.time := rfl
@[simp] theorem State.fresh_nextUid (s : State) : (s.fresh).nextUid = s.nextUid := rfl
@[simp] theorem State.fresh_ticks (s : State) : (s.fresh).ticks = s.ticks := rfl
@[simp] theorem State.fresh_ctxs (s : State) : (s.fresh).ctxs = s.ctxs := rfl
@[simp] theorem State.fresh_cores (s : State) : (s.fresh).cores = s.cores := rfl
@[simp] theorem State.fresh_dram (s : State) : (s.fresh).dram = s.dram := rfl
@[simp] theorem State.fresh_staging (s : State) : (s.fresh).staging = s.staging := rfl
@[simp] theorem State.fresh_host (s : State) : (s.fresh).host = s.host := rfl
@[simp] theorem State.fresh_peer (s : State) : (s.fresh).peer = s.peer := rfl
@[simp] theorem State.fresh_xlat (s : State) : (s.fresh).xlat = s.xlat := rfl
@[simp] theorem State.fresh_guests (s : State) : (s.fresh).guests = s.guests := rfl
@[simp] theorem State.fresh_parts (s : State) : (s.fresh).parts = s.parts := rfl
@[simp] theorem State.fresh_ranges (s : State) : (s.fresh).ranges = s.ranges := rfl
@[simp] theorem State.fresh_buckets (s : State) : (s.fresh).buckets = s.buckets := rfl
@[simp] theorem State.fresh_ctrlBuckets (s : State) : (s.fresh).ctrlBuckets = s.ctrlBuckets := rfl
@[simp] theorem State.fresh_lanes (s : State) : (s.fresh).lanes = s.lanes := rfl
@[simp] theorem State.fresh_ctrls (s : State) : (s.fresh).ctrls = s.ctrls := rfl
@[simp] theorem State.fresh_move15 (s : State) : (s.fresh).move15 = s.move15 := rfl
@[simp] theorem State.fresh_queues (s : State) : (s.fresh).queues = s.queues := rfl
@[simp] theorem State.fresh_tasks (s : State) : (s.fresh).tasks = s.tasks := rfl
@[simp] theorem State.fresh_launches (s : State) : (s.fresh).launches = s.launches := rfl
@[simp] theorem State.fresh_saved (s : State) : (s.fresh).saved = s.saved := rfl
@[simp] theorem State.fresh_groups (s : State) : (s.fresh).groups = s.groups := rfl
@[simp] theorem State.fresh_fws (s : State) : (s.fresh).fws = s.fws := rfl
@[simp] theorem State.fresh_fwResult (s : State) : (s.fresh).fwResult = s.fwResult := rfl
@[simp] theorem State.fresh_route (s : State) : (s.fresh).route = s.route := rfl
@[simp] theorem State.fresh_rings (s : State) : (s.fresh).rings = s.rings := rfl
@[simp] theorem State.fresh_cqs (s : State) : (s.fresh).cqs = s.cqs := rfl
@[simp] theorem State.fresh_fns (s : State) : (s.fresh).fns = s.fns := rfl
@[simp] theorem State.fresh_pf0Guest (s : State) : (s.fresh).pf0Guest = s.pf0Guest := rfl
@[simp] theorem State.fresh_irqs (s : State) : (s.fresh).irqs = s.irqs := rfl
@[simp] theorem State.fresh_peerBase (s : State) : (s.fresh).peerBase = s.peerBase := rfl
@[simp] theorem State.fresh_peerSize (s : State) : (s.fresh).peerSize = s.peerSize := rfl
@[simp] theorem State.fresh_resets (s : State) : (s.fresh).resets = s.resets := rfl
@[simp] theorem State.fresh_resetsLater (s : State) : (s.fresh).resetsLater = s.resetsLater := rfl
@[simp] theorem State.fresh_power (s : State) : (s.fresh).power = s.power := rfl
@[simp] theorem State.fresh_streams (s : State) : (s.fresh).streams = s.streams := rfl
@[simp] theorem State.fresh_links (s : State) : (s.fresh).links = s.links := rfl
@[simp] theorem State.fresh_vesper (s : State) : (s.fresh).vesper = s.vesper := rfl
@[simp] theorem State.fresh_trust (s : State) : (s.fresh).trust = s.trust := rfl
@[simp] theorem State.fresh_windowRead (s : State) : (s.fresh).windowRead = s.windowRead := rfl

/-! ### setCore -/

@[simp] theorem State.setCore_moves (s : State) (n : Nat) (c : CoreSt) : (s.setCore n c).moves = s.moves := rfl
@[simp] theorem State.setCore_free (s : State) (n : Nat) (c : CoreSt) : (s.setCore n c).free = s.free := rfl
@[simp] theorem State.setCore_who (s : State) (n : Nat) (c : CoreSt) : (s.setCore n c).who = s.who := rfl
@[simp] theorem State.setCore_fw (s : State) (n : Nat) (c : CoreSt) : (s.setCore n c).fw = s.fw := rfl
@[simp] theorem State.setCore_time (s : State) (n : Nat) (c : CoreSt) : (s.setCore n c).time = s.time := rfl
@[simp] theorem State.setCore_nextUid (s : State) (n : Nat) (c : CoreSt) : (s.setCore n c).nextUid = s.nextUid := rfl
@[simp] theorem State.setCore_ticks (s : State) (n : Nat) (c : CoreSt) : (s.setCore n c).ticks = s.ticks := rfl
@[simp] theorem State.setCore_ctxs (s : State) (n : Nat) (c : CoreSt) : (s.setCore n c).ctxs = s.ctxs := rfl
@[simp] theorem State.setCore_dram (s : State) (n : Nat) (c : CoreSt) : (s.setCore n c).dram = s.dram := rfl
@[simp] theorem State.setCore_staging (s : State) (n : Nat) (c : CoreSt) : (s.setCore n c).staging = s.staging := rfl
@[simp] theorem State.setCore_host (s : State) (n : Nat) (c : CoreSt) : (s.setCore n c).host = s.host := rfl
@[simp] theorem State.setCore_peer (s : State) (n : Nat) (c : CoreSt) : (s.setCore n c).peer = s.peer := rfl
@[simp] theorem State.setCore_xlat (s : State) (n : Nat) (c : CoreSt) : (s.setCore n c).xlat = s.xlat := rfl
@[simp] theorem State.setCore_guests (s : State) (n : Nat) (c : CoreSt) : (s.setCore n c).guests = s.guests := rfl
@[simp] theorem State.setCore_parts (s : State) (n : Nat) (c : CoreSt) : (s.setCore n c).parts = s.parts := rfl
@[simp] theorem State.setCore_ranges (s : State) (n : Nat) (c : CoreSt) : (s.setCore n c).ranges = s.ranges := rfl
@[simp] theorem State.setCore_buckets (s : State) (n : Nat) (c : CoreSt) : (s.setCore n c).buckets = s.buckets := rfl
@[simp] theorem State.setCore_ctrlBuckets (s : State) (n : Nat) (c : CoreSt) : (s.setCore n c).ctrlBuckets = s.ctrlBuckets := rfl
@[simp] theorem State.setCore_lanes (s : State) (n : Nat) (c : CoreSt) : (s.setCore n c).lanes = s.lanes := rfl
@[simp] theorem State.setCore_ctrls (s : State) (n : Nat) (c : CoreSt) : (s.setCore n c).ctrls = s.ctrls := rfl
@[simp] theorem State.setCore_move15 (s : State) (n : Nat) (c : CoreSt) : (s.setCore n c).move15 = s.move15 := rfl
@[simp] theorem State.setCore_queues (s : State) (n : Nat) (c : CoreSt) : (s.setCore n c).queues = s.queues := rfl
@[simp] theorem State.setCore_tasks (s : State) (n : Nat) (c : CoreSt) : (s.setCore n c).tasks = s.tasks := rfl
@[simp] theorem State.setCore_launches (s : State) (n : Nat) (c : CoreSt) : (s.setCore n c).launches = s.launches := rfl
@[simp] theorem State.setCore_saved (s : State) (n : Nat) (c : CoreSt) : (s.setCore n c).saved = s.saved := rfl
@[simp] theorem State.setCore_groups (s : State) (n : Nat) (c : CoreSt) : (s.setCore n c).groups = s.groups := rfl
@[simp] theorem State.setCore_fws (s : State) (n : Nat) (c : CoreSt) : (s.setCore n c).fws = s.fws := rfl
@[simp] theorem State.setCore_fwResult (s : State) (n : Nat) (c : CoreSt) : (s.setCore n c).fwResult = s.fwResult := rfl
@[simp] theorem State.setCore_route (s : State) (n : Nat) (c : CoreSt) : (s.setCore n c).route = s.route := rfl
@[simp] theorem State.setCore_rings (s : State) (n : Nat) (c : CoreSt) : (s.setCore n c).rings = s.rings := rfl
@[simp] theorem State.setCore_cqs (s : State) (n : Nat) (c : CoreSt) : (s.setCore n c).cqs = s.cqs := rfl
@[simp] theorem State.setCore_fns (s : State) (n : Nat) (c : CoreSt) : (s.setCore n c).fns = s.fns := rfl
@[simp] theorem State.setCore_pf0Guest (s : State) (n : Nat) (c : CoreSt) : (s.setCore n c).pf0Guest = s.pf0Guest := rfl
@[simp] theorem State.setCore_irqs (s : State) (n : Nat) (c : CoreSt) : (s.setCore n c).irqs = s.irqs := rfl
@[simp] theorem State.setCore_peerBase (s : State) (n : Nat) (c : CoreSt) : (s.setCore n c).peerBase = s.peerBase := rfl
@[simp] theorem State.setCore_peerSize (s : State) (n : Nat) (c : CoreSt) : (s.setCore n c).peerSize = s.peerSize := rfl
@[simp] theorem State.setCore_resets (s : State) (n : Nat) (c : CoreSt) : (s.setCore n c).resets = s.resets := rfl
@[simp] theorem State.setCore_resetsLater (s : State) (n : Nat) (c : CoreSt) : (s.setCore n c).resetsLater = s.resetsLater := rfl
@[simp] theorem State.setCore_power (s : State) (n : Nat) (c : CoreSt) : (s.setCore n c).power = s.power := rfl
@[simp] theorem State.setCore_streams (s : State) (n : Nat) (c : CoreSt) : (s.setCore n c).streams = s.streams := rfl
@[simp] theorem State.setCore_links (s : State) (n : Nat) (c : CoreSt) : (s.setCore n c).links = s.links := rfl
@[simp] theorem State.setCore_vesper (s : State) (n : Nat) (c : CoreSt) : (s.setCore n c).vesper = s.vesper := rfl
@[simp] theorem State.setCore_trust (s : State) (n : Nat) (c : CoreSt) : (s.setCore n c).trust = s.trust := rfl
@[simp] theorem State.setCore_windowRead (s : State) (n : Nat) (c : CoreSt) : (s.setCore n c).windowRead = s.windowRead := rfl

/-! ### setCluster -/

@[simp] theorem State.setCluster_moves (s : State) (n : Nat) (c : Cluster) : (s.setCluster n c).moves = s.moves := rfl
@[simp] theorem State.setCluster_free (s : State) (n : Nat) (c : Cluster) : (s.setCluster n c).free = s.free := rfl
@[simp] theorem State.setCluster_who (s : State) (n : Nat) (c : Cluster) : (s.setCluster n c).who = s.who := rfl
@[simp] theorem State.setCluster_fw (s : State) (n : Nat) (c : Cluster) : (s.setCluster n c).fw = s.fw := rfl
@[simp] theorem State.setCluster_time (s : State) (n : Nat) (c : Cluster) : (s.setCluster n c).time = s.time := rfl
@[simp] theorem State.setCluster_nextUid (s : State) (n : Nat) (c : Cluster) : (s.setCluster n c).nextUid = s.nextUid := rfl
@[simp] theorem State.setCluster_ticks (s : State) (n : Nat) (c : Cluster) : (s.setCluster n c).ticks = s.ticks := rfl
@[simp] theorem State.setCluster_ctxs (s : State) (n : Nat) (c : Cluster) : (s.setCluster n c).ctxs = s.ctxs := rfl
@[simp] theorem State.setCluster_cores (s : State) (n : Nat) (c : Cluster) : (s.setCluster n c).cores = s.cores := rfl
@[simp] theorem State.setCluster_dram (s : State) (n : Nat) (c : Cluster) : (s.setCluster n c).dram = s.dram := rfl
@[simp] theorem State.setCluster_staging (s : State) (n : Nat) (c : Cluster) : (s.setCluster n c).staging = s.staging := rfl
@[simp] theorem State.setCluster_host (s : State) (n : Nat) (c : Cluster) : (s.setCluster n c).host = s.host := rfl
@[simp] theorem State.setCluster_peer (s : State) (n : Nat) (c : Cluster) : (s.setCluster n c).peer = s.peer := rfl
@[simp] theorem State.setCluster_xlat (s : State) (n : Nat) (c : Cluster) : (s.setCluster n c).xlat = s.xlat := rfl
@[simp] theorem State.setCluster_guests (s : State) (n : Nat) (c : Cluster) : (s.setCluster n c).guests = s.guests := rfl
@[simp] theorem State.setCluster_parts (s : State) (n : Nat) (c : Cluster) : (s.setCluster n c).parts = s.parts := rfl
@[simp] theorem State.setCluster_ranges (s : State) (n : Nat) (c : Cluster) : (s.setCluster n c).ranges = s.ranges := rfl
@[simp] theorem State.setCluster_buckets (s : State) (n : Nat) (c : Cluster) : (s.setCluster n c).buckets = s.buckets := rfl
@[simp] theorem State.setCluster_ctrlBuckets (s : State) (n : Nat) (c : Cluster) : (s.setCluster n c).ctrlBuckets = s.ctrlBuckets := rfl
@[simp] theorem State.setCluster_lanes (s : State) (n : Nat) (c : Cluster) : (s.setCluster n c).lanes = s.lanes := rfl
@[simp] theorem State.setCluster_ctrls (s : State) (n : Nat) (c : Cluster) : (s.setCluster n c).ctrls = s.ctrls := rfl
@[simp] theorem State.setCluster_move15 (s : State) (n : Nat) (c : Cluster) : (s.setCluster n c).move15 = s.move15 := rfl
@[simp] theorem State.setCluster_queues (s : State) (n : Nat) (c : Cluster) : (s.setCluster n c).queues = s.queues := rfl
@[simp] theorem State.setCluster_tasks (s : State) (n : Nat) (c : Cluster) : (s.setCluster n c).tasks = s.tasks := rfl
@[simp] theorem State.setCluster_launches (s : State) (n : Nat) (c : Cluster) : (s.setCluster n c).launches = s.launches := rfl
@[simp] theorem State.setCluster_saved (s : State) (n : Nat) (c : Cluster) : (s.setCluster n c).saved = s.saved := rfl
@[simp] theorem State.setCluster_groups (s : State) (n : Nat) (c : Cluster) : (s.setCluster n c).groups = s.groups := rfl
@[simp] theorem State.setCluster_fws (s : State) (n : Nat) (c : Cluster) : (s.setCluster n c).fws = s.fws := rfl
@[simp] theorem State.setCluster_fwResult (s : State) (n : Nat) (c : Cluster) : (s.setCluster n c).fwResult = s.fwResult := rfl
@[simp] theorem State.setCluster_route (s : State) (n : Nat) (c : Cluster) : (s.setCluster n c).route = s.route := rfl
@[simp] theorem State.setCluster_rings (s : State) (n : Nat) (c : Cluster) : (s.setCluster n c).rings = s.rings := rfl
@[simp] theorem State.setCluster_cqs (s : State) (n : Nat) (c : Cluster) : (s.setCluster n c).cqs = s.cqs := rfl
@[simp] theorem State.setCluster_fns (s : State) (n : Nat) (c : Cluster) : (s.setCluster n c).fns = s.fns := rfl
@[simp] theorem State.setCluster_pf0Guest (s : State) (n : Nat) (c : Cluster) : (s.setCluster n c).pf0Guest = s.pf0Guest := rfl
@[simp] theorem State.setCluster_irqs (s : State) (n : Nat) (c : Cluster) : (s.setCluster n c).irqs = s.irqs := rfl
@[simp] theorem State.setCluster_peerBase (s : State) (n : Nat) (c : Cluster) : (s.setCluster n c).peerBase = s.peerBase := rfl
@[simp] theorem State.setCluster_peerSize (s : State) (n : Nat) (c : Cluster) : (s.setCluster n c).peerSize = s.peerSize := rfl
@[simp] theorem State.setCluster_resets (s : State) (n : Nat) (c : Cluster) : (s.setCluster n c).resets = s.resets := rfl
@[simp] theorem State.setCluster_resetsLater (s : State) (n : Nat) (c : Cluster) : (s.setCluster n c).resetsLater = s.resetsLater := rfl
@[simp] theorem State.setCluster_streams (s : State) (n : Nat) (c : Cluster) : (s.setCluster n c).streams = s.streams := rfl
@[simp] theorem State.setCluster_links (s : State) (n : Nat) (c : Cluster) : (s.setCluster n c).links = s.links := rfl
@[simp] theorem State.setCluster_vesper (s : State) (n : Nat) (c : Cluster) : (s.setCluster n c).vesper = s.vesper := rfl
@[simp] theorem State.setCluster_trust (s : State) (n : Nat) (c : Cluster) : (s.setCluster n c).trust = s.trust := rfl
@[simp] theorem State.setCluster_windowRead (s : State) (n : Nat) (c : Cluster) : (s.setCluster n c).windowRead = s.windowRead := rfl

/-! ### setRail -/

@[simp] theorem State.setRail_moves (s : State) (n : Nat) (c : Rail) : (s.setRail n c).moves = s.moves := rfl
@[simp] theorem State.setRail_free (s : State) (n : Nat) (c : Rail) : (s.setRail n c).free = s.free := rfl
@[simp] theorem State.setRail_who (s : State) (n : Nat) (c : Rail) : (s.setRail n c).who = s.who := rfl
@[simp] theorem State.setRail_fw (s : State) (n : Nat) (c : Rail) : (s.setRail n c).fw = s.fw := rfl
@[simp] theorem State.setRail_time (s : State) (n : Nat) (c : Rail) : (s.setRail n c).time = s.time := rfl
@[simp] theorem State.setRail_nextUid (s : State) (n : Nat) (c : Rail) : (s.setRail n c).nextUid = s.nextUid := rfl
@[simp] theorem State.setRail_ticks (s : State) (n : Nat) (c : Rail) : (s.setRail n c).ticks = s.ticks := rfl
@[simp] theorem State.setRail_ctxs (s : State) (n : Nat) (c : Rail) : (s.setRail n c).ctxs = s.ctxs := rfl
@[simp] theorem State.setRail_cores (s : State) (n : Nat) (c : Rail) : (s.setRail n c).cores = s.cores := rfl
@[simp] theorem State.setRail_dram (s : State) (n : Nat) (c : Rail) : (s.setRail n c).dram = s.dram := rfl
@[simp] theorem State.setRail_staging (s : State) (n : Nat) (c : Rail) : (s.setRail n c).staging = s.staging := rfl
@[simp] theorem State.setRail_host (s : State) (n : Nat) (c : Rail) : (s.setRail n c).host = s.host := rfl
@[simp] theorem State.setRail_peer (s : State) (n : Nat) (c : Rail) : (s.setRail n c).peer = s.peer := rfl
@[simp] theorem State.setRail_xlat (s : State) (n : Nat) (c : Rail) : (s.setRail n c).xlat = s.xlat := rfl
@[simp] theorem State.setRail_guests (s : State) (n : Nat) (c : Rail) : (s.setRail n c).guests = s.guests := rfl
@[simp] theorem State.setRail_parts (s : State) (n : Nat) (c : Rail) : (s.setRail n c).parts = s.parts := rfl
@[simp] theorem State.setRail_ranges (s : State) (n : Nat) (c : Rail) : (s.setRail n c).ranges = s.ranges := rfl
@[simp] theorem State.setRail_buckets (s : State) (n : Nat) (c : Rail) : (s.setRail n c).buckets = s.buckets := rfl
@[simp] theorem State.setRail_ctrlBuckets (s : State) (n : Nat) (c : Rail) : (s.setRail n c).ctrlBuckets = s.ctrlBuckets := rfl
@[simp] theorem State.setRail_lanes (s : State) (n : Nat) (c : Rail) : (s.setRail n c).lanes = s.lanes := rfl
@[simp] theorem State.setRail_ctrls (s : State) (n : Nat) (c : Rail) : (s.setRail n c).ctrls = s.ctrls := rfl
@[simp] theorem State.setRail_move15 (s : State) (n : Nat) (c : Rail) : (s.setRail n c).move15 = s.move15 := rfl
@[simp] theorem State.setRail_queues (s : State) (n : Nat) (c : Rail) : (s.setRail n c).queues = s.queues := rfl
@[simp] theorem State.setRail_tasks (s : State) (n : Nat) (c : Rail) : (s.setRail n c).tasks = s.tasks := rfl
@[simp] theorem State.setRail_launches (s : State) (n : Nat) (c : Rail) : (s.setRail n c).launches = s.launches := rfl
@[simp] theorem State.setRail_saved (s : State) (n : Nat) (c : Rail) : (s.setRail n c).saved = s.saved := rfl
@[simp] theorem State.setRail_groups (s : State) (n : Nat) (c : Rail) : (s.setRail n c).groups = s.groups := rfl
@[simp] theorem State.setRail_fws (s : State) (n : Nat) (c : Rail) : (s.setRail n c).fws = s.fws := rfl
@[simp] theorem State.setRail_fwResult (s : State) (n : Nat) (c : Rail) : (s.setRail n c).fwResult = s.fwResult := rfl
@[simp] theorem State.setRail_route (s : State) (n : Nat) (c : Rail) : (s.setRail n c).route = s.route := rfl
@[simp] theorem State.setRail_rings (s : State) (n : Nat) (c : Rail) : (s.setRail n c).rings = s.rings := rfl
@[simp] theorem State.setRail_cqs (s : State) (n : Nat) (c : Rail) : (s.setRail n c).cqs = s.cqs := rfl
@[simp] theorem State.setRail_fns (s : State) (n : Nat) (c : Rail) : (s.setRail n c).fns = s.fns := rfl
@[simp] theorem State.setRail_pf0Guest (s : State) (n : Nat) (c : Rail) : (s.setRail n c).pf0Guest = s.pf0Guest := rfl
@[simp] theorem State.setRail_irqs (s : State) (n : Nat) (c : Rail) : (s.setRail n c).irqs = s.irqs := rfl
@[simp] theorem State.setRail_peerBase (s : State) (n : Nat) (c : Rail) : (s.setRail n c).peerBase = s.peerBase := rfl
@[simp] theorem State.setRail_peerSize (s : State) (n : Nat) (c : Rail) : (s.setRail n c).peerSize = s.peerSize := rfl
@[simp] theorem State.setRail_resets (s : State) (n : Nat) (c : Rail) : (s.setRail n c).resets = s.resets := rfl
@[simp] theorem State.setRail_resetsLater (s : State) (n : Nat) (c : Rail) : (s.setRail n c).resetsLater = s.resetsLater := rfl
@[simp] theorem State.setRail_streams (s : State) (n : Nat) (c : Rail) : (s.setRail n c).streams = s.streams := rfl
@[simp] theorem State.setRail_links (s : State) (n : Nat) (c : Rail) : (s.setRail n c).links = s.links := rfl
@[simp] theorem State.setRail_vesper (s : State) (n : Nat) (c : Rail) : (s.setRail n c).vesper = s.vesper := rfl
@[simp] theorem State.setRail_trust (s : State) (n : Nat) (c : Rail) : (s.setRail n c).trust = s.trust := rfl
@[simp] theorem State.setRail_windowRead (s : State) (n : Nat) (c : Rail) : (s.setRail n c).windowRead = s.windowRead := rfl

/-! ### setQueue -/

@[simp] theorem State.setQueue_moves (s : State) (n : Nat) (c : BQueue) : (s.setQueue n c).moves = s.moves := rfl
@[simp] theorem State.setQueue_free (s : State) (n : Nat) (c : BQueue) : (s.setQueue n c).free = s.free := rfl
@[simp] theorem State.setQueue_who (s : State) (n : Nat) (c : BQueue) : (s.setQueue n c).who = s.who := rfl
@[simp] theorem State.setQueue_fw (s : State) (n : Nat) (c : BQueue) : (s.setQueue n c).fw = s.fw := rfl
@[simp] theorem State.setQueue_time (s : State) (n : Nat) (c : BQueue) : (s.setQueue n c).time = s.time := rfl
@[simp] theorem State.setQueue_nextUid (s : State) (n : Nat) (c : BQueue) : (s.setQueue n c).nextUid = s.nextUid := rfl
@[simp] theorem State.setQueue_ticks (s : State) (n : Nat) (c : BQueue) : (s.setQueue n c).ticks = s.ticks := rfl
@[simp] theorem State.setQueue_ctxs (s : State) (n : Nat) (c : BQueue) : (s.setQueue n c).ctxs = s.ctxs := rfl
@[simp] theorem State.setQueue_cores (s : State) (n : Nat) (c : BQueue) : (s.setQueue n c).cores = s.cores := rfl
@[simp] theorem State.setQueue_dram (s : State) (n : Nat) (c : BQueue) : (s.setQueue n c).dram = s.dram := rfl
@[simp] theorem State.setQueue_staging (s : State) (n : Nat) (c : BQueue) : (s.setQueue n c).staging = s.staging := rfl
@[simp] theorem State.setQueue_host (s : State) (n : Nat) (c : BQueue) : (s.setQueue n c).host = s.host := rfl
@[simp] theorem State.setQueue_peer (s : State) (n : Nat) (c : BQueue) : (s.setQueue n c).peer = s.peer := rfl
@[simp] theorem State.setQueue_xlat (s : State) (n : Nat) (c : BQueue) : (s.setQueue n c).xlat = s.xlat := rfl
@[simp] theorem State.setQueue_guests (s : State) (n : Nat) (c : BQueue) : (s.setQueue n c).guests = s.guests := rfl
@[simp] theorem State.setQueue_parts (s : State) (n : Nat) (c : BQueue) : (s.setQueue n c).parts = s.parts := rfl
@[simp] theorem State.setQueue_ranges (s : State) (n : Nat) (c : BQueue) : (s.setQueue n c).ranges = s.ranges := rfl
@[simp] theorem State.setQueue_buckets (s : State) (n : Nat) (c : BQueue) : (s.setQueue n c).buckets = s.buckets := rfl
@[simp] theorem State.setQueue_ctrlBuckets (s : State) (n : Nat) (c : BQueue) : (s.setQueue n c).ctrlBuckets = s.ctrlBuckets := rfl
@[simp] theorem State.setQueue_lanes (s : State) (n : Nat) (c : BQueue) : (s.setQueue n c).lanes = s.lanes := rfl
@[simp] theorem State.setQueue_ctrls (s : State) (n : Nat) (c : BQueue) : (s.setQueue n c).ctrls = s.ctrls := rfl
@[simp] theorem State.setQueue_move15 (s : State) (n : Nat) (c : BQueue) : (s.setQueue n c).move15 = s.move15 := rfl
@[simp] theorem State.setQueue_tasks (s : State) (n : Nat) (c : BQueue) : (s.setQueue n c).tasks = s.tasks := rfl
@[simp] theorem State.setQueue_launches (s : State) (n : Nat) (c : BQueue) : (s.setQueue n c).launches = s.launches := rfl
@[simp] theorem State.setQueue_saved (s : State) (n : Nat) (c : BQueue) : (s.setQueue n c).saved = s.saved := rfl
@[simp] theorem State.setQueue_groups (s : State) (n : Nat) (c : BQueue) : (s.setQueue n c).groups = s.groups := rfl
@[simp] theorem State.setQueue_fws (s : State) (n : Nat) (c : BQueue) : (s.setQueue n c).fws = s.fws := rfl
@[simp] theorem State.setQueue_fwResult (s : State) (n : Nat) (c : BQueue) : (s.setQueue n c).fwResult = s.fwResult := rfl
@[simp] theorem State.setQueue_route (s : State) (n : Nat) (c : BQueue) : (s.setQueue n c).route = s.route := rfl
@[simp] theorem State.setQueue_rings (s : State) (n : Nat) (c : BQueue) : (s.setQueue n c).rings = s.rings := rfl
@[simp] theorem State.setQueue_cqs (s : State) (n : Nat) (c : BQueue) : (s.setQueue n c).cqs = s.cqs := rfl
@[simp] theorem State.setQueue_fns (s : State) (n : Nat) (c : BQueue) : (s.setQueue n c).fns = s.fns := rfl
@[simp] theorem State.setQueue_pf0Guest (s : State) (n : Nat) (c : BQueue) : (s.setQueue n c).pf0Guest = s.pf0Guest := rfl
@[simp] theorem State.setQueue_irqs (s : State) (n : Nat) (c : BQueue) : (s.setQueue n c).irqs = s.irqs := rfl
@[simp] theorem State.setQueue_peerBase (s : State) (n : Nat) (c : BQueue) : (s.setQueue n c).peerBase = s.peerBase := rfl
@[simp] theorem State.setQueue_peerSize (s : State) (n : Nat) (c : BQueue) : (s.setQueue n c).peerSize = s.peerSize := rfl
@[simp] theorem State.setQueue_resets (s : State) (n : Nat) (c : BQueue) : (s.setQueue n c).resets = s.resets := rfl
@[simp] theorem State.setQueue_resetsLater (s : State) (n : Nat) (c : BQueue) : (s.setQueue n c).resetsLater = s.resetsLater := rfl
@[simp] theorem State.setQueue_power (s : State) (n : Nat) (c : BQueue) : (s.setQueue n c).power = s.power := rfl
@[simp] theorem State.setQueue_streams (s : State) (n : Nat) (c : BQueue) : (s.setQueue n c).streams = s.streams := rfl
@[simp] theorem State.setQueue_links (s : State) (n : Nat) (c : BQueue) : (s.setQueue n c).links = s.links := rfl
@[simp] theorem State.setQueue_vesper (s : State) (n : Nat) (c : BQueue) : (s.setQueue n c).vesper = s.vesper := rfl
@[simp] theorem State.setQueue_trust (s : State) (n : Nat) (c : BQueue) : (s.setQueue n c).trust = s.trust := rfl
@[simp] theorem State.setQueue_windowRead (s : State) (n : Nat) (c : BQueue) : (s.setQueue n c).windowRead = s.windowRead := rfl

/-! ### setRing -/

@[simp] theorem State.setRing_moves (s : State) (n : Nat) (c : KRing) : (s.setRing n c).moves = s.moves := rfl
@[simp] theorem State.setRing_free (s : State) (n : Nat) (c : KRing) : (s.setRing n c).free = s.free := rfl
@[simp] theorem State.setRing_who (s : State) (n : Nat) (c : KRing) : (s.setRing n c).who = s.who := rfl
@[simp] theorem State.setRing_fw (s : State) (n : Nat) (c : KRing) : (s.setRing n c).fw = s.fw := rfl
@[simp] theorem State.setRing_time (s : State) (n : Nat) (c : KRing) : (s.setRing n c).time = s.time := rfl
@[simp] theorem State.setRing_nextUid (s : State) (n : Nat) (c : KRing) : (s.setRing n c).nextUid = s.nextUid := rfl
@[simp] theorem State.setRing_ticks (s : State) (n : Nat) (c : KRing) : (s.setRing n c).ticks = s.ticks := rfl
@[simp] theorem State.setRing_ctxs (s : State) (n : Nat) (c : KRing) : (s.setRing n c).ctxs = s.ctxs := rfl
@[simp] theorem State.setRing_cores (s : State) (n : Nat) (c : KRing) : (s.setRing n c).cores = s.cores := rfl
@[simp] theorem State.setRing_dram (s : State) (n : Nat) (c : KRing) : (s.setRing n c).dram = s.dram := rfl
@[simp] theorem State.setRing_staging (s : State) (n : Nat) (c : KRing) : (s.setRing n c).staging = s.staging := rfl
@[simp] theorem State.setRing_host (s : State) (n : Nat) (c : KRing) : (s.setRing n c).host = s.host := rfl
@[simp] theorem State.setRing_peer (s : State) (n : Nat) (c : KRing) : (s.setRing n c).peer = s.peer := rfl
@[simp] theorem State.setRing_xlat (s : State) (n : Nat) (c : KRing) : (s.setRing n c).xlat = s.xlat := rfl
@[simp] theorem State.setRing_guests (s : State) (n : Nat) (c : KRing) : (s.setRing n c).guests = s.guests := rfl
@[simp] theorem State.setRing_parts (s : State) (n : Nat) (c : KRing) : (s.setRing n c).parts = s.parts := rfl
@[simp] theorem State.setRing_ranges (s : State) (n : Nat) (c : KRing) : (s.setRing n c).ranges = s.ranges := rfl
@[simp] theorem State.setRing_buckets (s : State) (n : Nat) (c : KRing) : (s.setRing n c).buckets = s.buckets := rfl
@[simp] theorem State.setRing_ctrlBuckets (s : State) (n : Nat) (c : KRing) : (s.setRing n c).ctrlBuckets = s.ctrlBuckets := rfl
@[simp] theorem State.setRing_lanes (s : State) (n : Nat) (c : KRing) : (s.setRing n c).lanes = s.lanes := rfl
@[simp] theorem State.setRing_ctrls (s : State) (n : Nat) (c : KRing) : (s.setRing n c).ctrls = s.ctrls := rfl
@[simp] theorem State.setRing_move15 (s : State) (n : Nat) (c : KRing) : (s.setRing n c).move15 = s.move15 := rfl
@[simp] theorem State.setRing_queues (s : State) (n : Nat) (c : KRing) : (s.setRing n c).queues = s.queues := rfl
@[simp] theorem State.setRing_tasks (s : State) (n : Nat) (c : KRing) : (s.setRing n c).tasks = s.tasks := rfl
@[simp] theorem State.setRing_launches (s : State) (n : Nat) (c : KRing) : (s.setRing n c).launches = s.launches := rfl
@[simp] theorem State.setRing_saved (s : State) (n : Nat) (c : KRing) : (s.setRing n c).saved = s.saved := rfl
@[simp] theorem State.setRing_groups (s : State) (n : Nat) (c : KRing) : (s.setRing n c).groups = s.groups := rfl
@[simp] theorem State.setRing_fws (s : State) (n : Nat) (c : KRing) : (s.setRing n c).fws = s.fws := rfl
@[simp] theorem State.setRing_fwResult (s : State) (n : Nat) (c : KRing) : (s.setRing n c).fwResult = s.fwResult := rfl
@[simp] theorem State.setRing_route (s : State) (n : Nat) (c : KRing) : (s.setRing n c).route = s.route := rfl
@[simp] theorem State.setRing_cqs (s : State) (n : Nat) (c : KRing) : (s.setRing n c).cqs = s.cqs := rfl
@[simp] theorem State.setRing_fns (s : State) (n : Nat) (c : KRing) : (s.setRing n c).fns = s.fns := rfl
@[simp] theorem State.setRing_pf0Guest (s : State) (n : Nat) (c : KRing) : (s.setRing n c).pf0Guest = s.pf0Guest := rfl
@[simp] theorem State.setRing_irqs (s : State) (n : Nat) (c : KRing) : (s.setRing n c).irqs = s.irqs := rfl
@[simp] theorem State.setRing_peerBase (s : State) (n : Nat) (c : KRing) : (s.setRing n c).peerBase = s.peerBase := rfl
@[simp] theorem State.setRing_peerSize (s : State) (n : Nat) (c : KRing) : (s.setRing n c).peerSize = s.peerSize := rfl
@[simp] theorem State.setRing_resets (s : State) (n : Nat) (c : KRing) : (s.setRing n c).resets = s.resets := rfl
@[simp] theorem State.setRing_resetsLater (s : State) (n : Nat) (c : KRing) : (s.setRing n c).resetsLater = s.resetsLater := rfl
@[simp] theorem State.setRing_power (s : State) (n : Nat) (c : KRing) : (s.setRing n c).power = s.power := rfl
@[simp] theorem State.setRing_streams (s : State) (n : Nat) (c : KRing) : (s.setRing n c).streams = s.streams := rfl
@[simp] theorem State.setRing_links (s : State) (n : Nat) (c : KRing) : (s.setRing n c).links = s.links := rfl
@[simp] theorem State.setRing_vesper (s : State) (n : Nat) (c : KRing) : (s.setRing n c).vesper = s.vesper := rfl
@[simp] theorem State.setRing_trust (s : State) (n : Nat) (c : KRing) : (s.setRing n c).trust = s.trust := rfl
@[simp] theorem State.setRing_windowRead (s : State) (n : Nat) (c : KRing) : (s.setRing n c).windowRead = s.windowRead := rfl

/-! ### setFw -/

@[simp] theorem State.setFw_moves (s : State) (n : Nat) (c : FwCore) : (s.setFw n c).moves = s.moves := rfl
@[simp] theorem State.setFw_free (s : State) (n : Nat) (c : FwCore) : (s.setFw n c).free = s.free := rfl
@[simp] theorem State.setFw_who (s : State) (n : Nat) (c : FwCore) : (s.setFw n c).who = s.who := rfl
@[simp] theorem State.setFw_fw (s : State) (n : Nat) (c : FwCore) : (s.setFw n c).fw = s.fw := rfl
@[simp] theorem State.setFw_time (s : State) (n : Nat) (c : FwCore) : (s.setFw n c).time = s.time := rfl
@[simp] theorem State.setFw_nextUid (s : State) (n : Nat) (c : FwCore) : (s.setFw n c).nextUid = s.nextUid := rfl
@[simp] theorem State.setFw_ticks (s : State) (n : Nat) (c : FwCore) : (s.setFw n c).ticks = s.ticks := rfl
@[simp] theorem State.setFw_ctxs (s : State) (n : Nat) (c : FwCore) : (s.setFw n c).ctxs = s.ctxs := rfl
@[simp] theorem State.setFw_cores (s : State) (n : Nat) (c : FwCore) : (s.setFw n c).cores = s.cores := rfl
@[simp] theorem State.setFw_dram (s : State) (n : Nat) (c : FwCore) : (s.setFw n c).dram = s.dram := rfl
@[simp] theorem State.setFw_staging (s : State) (n : Nat) (c : FwCore) : (s.setFw n c).staging = s.staging := rfl
@[simp] theorem State.setFw_host (s : State) (n : Nat) (c : FwCore) : (s.setFw n c).host = s.host := rfl
@[simp] theorem State.setFw_peer (s : State) (n : Nat) (c : FwCore) : (s.setFw n c).peer = s.peer := rfl
@[simp] theorem State.setFw_xlat (s : State) (n : Nat) (c : FwCore) : (s.setFw n c).xlat = s.xlat := rfl
@[simp] theorem State.setFw_guests (s : State) (n : Nat) (c : FwCore) : (s.setFw n c).guests = s.guests := rfl
@[simp] theorem State.setFw_parts (s : State) (n : Nat) (c : FwCore) : (s.setFw n c).parts = s.parts := rfl
@[simp] theorem State.setFw_ranges (s : State) (n : Nat) (c : FwCore) : (s.setFw n c).ranges = s.ranges := rfl
@[simp] theorem State.setFw_buckets (s : State) (n : Nat) (c : FwCore) : (s.setFw n c).buckets = s.buckets := rfl
@[simp] theorem State.setFw_ctrlBuckets (s : State) (n : Nat) (c : FwCore) : (s.setFw n c).ctrlBuckets = s.ctrlBuckets := rfl
@[simp] theorem State.setFw_lanes (s : State) (n : Nat) (c : FwCore) : (s.setFw n c).lanes = s.lanes := rfl
@[simp] theorem State.setFw_ctrls (s : State) (n : Nat) (c : FwCore) : (s.setFw n c).ctrls = s.ctrls := rfl
@[simp] theorem State.setFw_move15 (s : State) (n : Nat) (c : FwCore) : (s.setFw n c).move15 = s.move15 := rfl
@[simp] theorem State.setFw_queues (s : State) (n : Nat) (c : FwCore) : (s.setFw n c).queues = s.queues := rfl
@[simp] theorem State.setFw_tasks (s : State) (n : Nat) (c : FwCore) : (s.setFw n c).tasks = s.tasks := rfl
@[simp] theorem State.setFw_launches (s : State) (n : Nat) (c : FwCore) : (s.setFw n c).launches = s.launches := rfl
@[simp] theorem State.setFw_saved (s : State) (n : Nat) (c : FwCore) : (s.setFw n c).saved = s.saved := rfl
@[simp] theorem State.setFw_groups (s : State) (n : Nat) (c : FwCore) : (s.setFw n c).groups = s.groups := rfl
@[simp] theorem State.setFw_fwResult (s : State) (n : Nat) (c : FwCore) : (s.setFw n c).fwResult = s.fwResult := rfl
@[simp] theorem State.setFw_route (s : State) (n : Nat) (c : FwCore) : (s.setFw n c).route = s.route := rfl
@[simp] theorem State.setFw_rings (s : State) (n : Nat) (c : FwCore) : (s.setFw n c).rings = s.rings := rfl
@[simp] theorem State.setFw_cqs (s : State) (n : Nat) (c : FwCore) : (s.setFw n c).cqs = s.cqs := rfl
@[simp] theorem State.setFw_fns (s : State) (n : Nat) (c : FwCore) : (s.setFw n c).fns = s.fns := rfl
@[simp] theorem State.setFw_pf0Guest (s : State) (n : Nat) (c : FwCore) : (s.setFw n c).pf0Guest = s.pf0Guest := rfl
@[simp] theorem State.setFw_irqs (s : State) (n : Nat) (c : FwCore) : (s.setFw n c).irqs = s.irqs := rfl
@[simp] theorem State.setFw_peerBase (s : State) (n : Nat) (c : FwCore) : (s.setFw n c).peerBase = s.peerBase := rfl
@[simp] theorem State.setFw_peerSize (s : State) (n : Nat) (c : FwCore) : (s.setFw n c).peerSize = s.peerSize := rfl
@[simp] theorem State.setFw_resets (s : State) (n : Nat) (c : FwCore) : (s.setFw n c).resets = s.resets := rfl
@[simp] theorem State.setFw_resetsLater (s : State) (n : Nat) (c : FwCore) : (s.setFw n c).resetsLater = s.resetsLater := rfl
@[simp] theorem State.setFw_power (s : State) (n : Nat) (c : FwCore) : (s.setFw n c).power = s.power := rfl
@[simp] theorem State.setFw_streams (s : State) (n : Nat) (c : FwCore) : (s.setFw n c).streams = s.streams := rfl
@[simp] theorem State.setFw_links (s : State) (n : Nat) (c : FwCore) : (s.setFw n c).links = s.links := rfl
@[simp] theorem State.setFw_vesper (s : State) (n : Nat) (c : FwCore) : (s.setFw n c).vesper = s.vesper := rfl
@[simp] theorem State.setFw_trust (s : State) (n : Nat) (c : FwCore) : (s.setFw n c).trust = s.trust := rfl
@[simp] theorem State.setFw_windowRead (s : State) (n : Nat) (c : FwCore) : (s.setFw n c).windowRead = s.windowRead := rfl

/-! ### setFwMe -/

@[simp] theorem State.setFwMe_moves (s : State) (c : FwCore) : (s.setFwMe c).moves = s.moves := rfl
@[simp] theorem State.setFwMe_free (s : State) (c : FwCore) : (s.setFwMe c).free = s.free := rfl
@[simp] theorem State.setFwMe_who (s : State) (c : FwCore) : (s.setFwMe c).who = s.who := rfl
@[simp] theorem State.setFwMe_fw (s : State) (c : FwCore) : (s.setFwMe c).fw = s.fw := rfl
@[simp] theorem State.setFwMe_time (s : State) (c : FwCore) : (s.setFwMe c).time = s.time := rfl
@[simp] theorem State.setFwMe_nextUid (s : State) (c : FwCore) : (s.setFwMe c).nextUid = s.nextUid := rfl
@[simp] theorem State.setFwMe_ticks (s : State) (c : FwCore) : (s.setFwMe c).ticks = s.ticks := rfl
@[simp] theorem State.setFwMe_ctxs (s : State) (c : FwCore) : (s.setFwMe c).ctxs = s.ctxs := rfl
@[simp] theorem State.setFwMe_cores (s : State) (c : FwCore) : (s.setFwMe c).cores = s.cores := rfl
@[simp] theorem State.setFwMe_dram (s : State) (c : FwCore) : (s.setFwMe c).dram = s.dram := rfl
@[simp] theorem State.setFwMe_staging (s : State) (c : FwCore) : (s.setFwMe c).staging = s.staging := rfl
@[simp] theorem State.setFwMe_host (s : State) (c : FwCore) : (s.setFwMe c).host = s.host := rfl
@[simp] theorem State.setFwMe_peer (s : State) (c : FwCore) : (s.setFwMe c).peer = s.peer := rfl
@[simp] theorem State.setFwMe_xlat (s : State) (c : FwCore) : (s.setFwMe c).xlat = s.xlat := rfl
@[simp] theorem State.setFwMe_guests (s : State) (c : FwCore) : (s.setFwMe c).guests = s.guests := rfl
@[simp] theorem State.setFwMe_parts (s : State) (c : FwCore) : (s.setFwMe c).parts = s.parts := rfl
@[simp] theorem State.setFwMe_ranges (s : State) (c : FwCore) : (s.setFwMe c).ranges = s.ranges := rfl
@[simp] theorem State.setFwMe_buckets (s : State) (c : FwCore) : (s.setFwMe c).buckets = s.buckets := rfl
@[simp] theorem State.setFwMe_ctrlBuckets (s : State) (c : FwCore) : (s.setFwMe c).ctrlBuckets = s.ctrlBuckets := rfl
@[simp] theorem State.setFwMe_lanes (s : State) (c : FwCore) : (s.setFwMe c).lanes = s.lanes := rfl
@[simp] theorem State.setFwMe_ctrls (s : State) (c : FwCore) : (s.setFwMe c).ctrls = s.ctrls := rfl
@[simp] theorem State.setFwMe_move15 (s : State) (c : FwCore) : (s.setFwMe c).move15 = s.move15 := rfl
@[simp] theorem State.setFwMe_queues (s : State) (c : FwCore) : (s.setFwMe c).queues = s.queues := rfl
@[simp] theorem State.setFwMe_tasks (s : State) (c : FwCore) : (s.setFwMe c).tasks = s.tasks := rfl
@[simp] theorem State.setFwMe_launches (s : State) (c : FwCore) : (s.setFwMe c).launches = s.launches := rfl
@[simp] theorem State.setFwMe_saved (s : State) (c : FwCore) : (s.setFwMe c).saved = s.saved := rfl
@[simp] theorem State.setFwMe_groups (s : State) (c : FwCore) : (s.setFwMe c).groups = s.groups := rfl
@[simp] theorem State.setFwMe_fwResult (s : State) (c : FwCore) : (s.setFwMe c).fwResult = s.fwResult := rfl
@[simp] theorem State.setFwMe_route (s : State) (c : FwCore) : (s.setFwMe c).route = s.route := rfl
@[simp] theorem State.setFwMe_rings (s : State) (c : FwCore) : (s.setFwMe c).rings = s.rings := rfl
@[simp] theorem State.setFwMe_cqs (s : State) (c : FwCore) : (s.setFwMe c).cqs = s.cqs := rfl
@[simp] theorem State.setFwMe_fns (s : State) (c : FwCore) : (s.setFwMe c).fns = s.fns := rfl
@[simp] theorem State.setFwMe_pf0Guest (s : State) (c : FwCore) : (s.setFwMe c).pf0Guest = s.pf0Guest := rfl
@[simp] theorem State.setFwMe_irqs (s : State) (c : FwCore) : (s.setFwMe c).irqs = s.irqs := rfl
@[simp] theorem State.setFwMe_peerBase (s : State) (c : FwCore) : (s.setFwMe c).peerBase = s.peerBase := rfl
@[simp] theorem State.setFwMe_peerSize (s : State) (c : FwCore) : (s.setFwMe c).peerSize = s.peerSize := rfl
@[simp] theorem State.setFwMe_resets (s : State) (c : FwCore) : (s.setFwMe c).resets = s.resets := rfl
@[simp] theorem State.setFwMe_resetsLater (s : State) (c : FwCore) : (s.setFwMe c).resetsLater = s.resetsLater := rfl
@[simp] theorem State.setFwMe_power (s : State) (c : FwCore) : (s.setFwMe c).power = s.power := rfl
@[simp] theorem State.setFwMe_streams (s : State) (c : FwCore) : (s.setFwMe c).streams = s.streams := rfl
@[simp] theorem State.setFwMe_links (s : State) (c : FwCore) : (s.setFwMe c).links = s.links := rfl
@[simp] theorem State.setFwMe_vesper (s : State) (c : FwCore) : (s.setFwMe c).vesper = s.vesper := rfl
@[simp] theorem State.setFwMe_trust (s : State) (c : FwCore) : (s.setFwMe c).trust = s.trust := rfl
@[simp] theorem State.setFwMe_windowRead (s : State) (c : FwCore) : (s.setFwMe c).windowRead = s.windowRead := rfl

/-! ### setCq -/

@[simp] theorem State.setCq_moves (s : State) (n : Nat) (c : Cq) : (s.setCq n c).moves = s.moves := rfl
@[simp] theorem State.setCq_free (s : State) (n : Nat) (c : Cq) : (s.setCq n c).free = s.free := rfl
@[simp] theorem State.setCq_who (s : State) (n : Nat) (c : Cq) : (s.setCq n c).who = s.who := rfl
@[simp] theorem State.setCq_fw (s : State) (n : Nat) (c : Cq) : (s.setCq n c).fw = s.fw := rfl
@[simp] theorem State.setCq_time (s : State) (n : Nat) (c : Cq) : (s.setCq n c).time = s.time := rfl
@[simp] theorem State.setCq_nextUid (s : State) (n : Nat) (c : Cq) : (s.setCq n c).nextUid = s.nextUid := rfl
@[simp] theorem State.setCq_ticks (s : State) (n : Nat) (c : Cq) : (s.setCq n c).ticks = s.ticks := rfl
@[simp] theorem State.setCq_ctxs (s : State) (n : Nat) (c : Cq) : (s.setCq n c).ctxs = s.ctxs := rfl
@[simp] theorem State.setCq_cores (s : State) (n : Nat) (c : Cq) : (s.setCq n c).cores = s.cores := rfl
@[simp] theorem State.setCq_dram (s : State) (n : Nat) (c : Cq) : (s.setCq n c).dram = s.dram := rfl
@[simp] theorem State.setCq_staging (s : State) (n : Nat) (c : Cq) : (s.setCq n c).staging = s.staging := rfl
@[simp] theorem State.setCq_host (s : State) (n : Nat) (c : Cq) : (s.setCq n c).host = s.host := rfl
@[simp] theorem State.setCq_peer (s : State) (n : Nat) (c : Cq) : (s.setCq n c).peer = s.peer := rfl
@[simp] theorem State.setCq_xlat (s : State) (n : Nat) (c : Cq) : (s.setCq n c).xlat = s.xlat := rfl
@[simp] theorem State.setCq_guests (s : State) (n : Nat) (c : Cq) : (s.setCq n c).guests = s.guests := rfl
@[simp] theorem State.setCq_parts (s : State) (n : Nat) (c : Cq) : (s.setCq n c).parts = s.parts := rfl
@[simp] theorem State.setCq_ranges (s : State) (n : Nat) (c : Cq) : (s.setCq n c).ranges = s.ranges := rfl
@[simp] theorem State.setCq_buckets (s : State) (n : Nat) (c : Cq) : (s.setCq n c).buckets = s.buckets := rfl
@[simp] theorem State.setCq_ctrlBuckets (s : State) (n : Nat) (c : Cq) : (s.setCq n c).ctrlBuckets = s.ctrlBuckets := rfl
@[simp] theorem State.setCq_lanes (s : State) (n : Nat) (c : Cq) : (s.setCq n c).lanes = s.lanes := rfl
@[simp] theorem State.setCq_ctrls (s : State) (n : Nat) (c : Cq) : (s.setCq n c).ctrls = s.ctrls := rfl
@[simp] theorem State.setCq_move15 (s : State) (n : Nat) (c : Cq) : (s.setCq n c).move15 = s.move15 := rfl
@[simp] theorem State.setCq_queues (s : State) (n : Nat) (c : Cq) : (s.setCq n c).queues = s.queues := rfl
@[simp] theorem State.setCq_tasks (s : State) (n : Nat) (c : Cq) : (s.setCq n c).tasks = s.tasks := rfl
@[simp] theorem State.setCq_launches (s : State) (n : Nat) (c : Cq) : (s.setCq n c).launches = s.launches := rfl
@[simp] theorem State.setCq_saved (s : State) (n : Nat) (c : Cq) : (s.setCq n c).saved = s.saved := rfl
@[simp] theorem State.setCq_groups (s : State) (n : Nat) (c : Cq) : (s.setCq n c).groups = s.groups := rfl
@[simp] theorem State.setCq_fws (s : State) (n : Nat) (c : Cq) : (s.setCq n c).fws = s.fws := rfl
@[simp] theorem State.setCq_fwResult (s : State) (n : Nat) (c : Cq) : (s.setCq n c).fwResult = s.fwResult := rfl
@[simp] theorem State.setCq_route (s : State) (n : Nat) (c : Cq) : (s.setCq n c).route = s.route := rfl
@[simp] theorem State.setCq_rings (s : State) (n : Nat) (c : Cq) : (s.setCq n c).rings = s.rings := rfl
@[simp] theorem State.setCq_fns (s : State) (n : Nat) (c : Cq) : (s.setCq n c).fns = s.fns := rfl
@[simp] theorem State.setCq_pf0Guest (s : State) (n : Nat) (c : Cq) : (s.setCq n c).pf0Guest = s.pf0Guest := rfl
@[simp] theorem State.setCq_irqs (s : State) (n : Nat) (c : Cq) : (s.setCq n c).irqs = s.irqs := rfl
@[simp] theorem State.setCq_peerBase (s : State) (n : Nat) (c : Cq) : (s.setCq n c).peerBase = s.peerBase := rfl
@[simp] theorem State.setCq_peerSize (s : State) (n : Nat) (c : Cq) : (s.setCq n c).peerSize = s.peerSize := rfl
@[simp] theorem State.setCq_resets (s : State) (n : Nat) (c : Cq) : (s.setCq n c).resets = s.resets := rfl
@[simp] theorem State.setCq_resetsLater (s : State) (n : Nat) (c : Cq) : (s.setCq n c).resetsLater = s.resetsLater := rfl
@[simp] theorem State.setCq_power (s : State) (n : Nat) (c : Cq) : (s.setCq n c).power = s.power := rfl
@[simp] theorem State.setCq_streams (s : State) (n : Nat) (c : Cq) : (s.setCq n c).streams = s.streams := rfl
@[simp] theorem State.setCq_links (s : State) (n : Nat) (c : Cq) : (s.setCq n c).links = s.links := rfl
@[simp] theorem State.setCq_vesper (s : State) (n : Nat) (c : Cq) : (s.setCq n c).vesper = s.vesper := rfl
@[simp] theorem State.setCq_trust (s : State) (n : Nat) (c : Cq) : (s.setCq n c).trust = s.trust := rfl
@[simp] theorem State.setCq_windowRead (s : State) (n : Nat) (c : Cq) : (s.setCq n c).windowRead = s.windowRead := rfl

/-! ### setFn -/

@[simp] theorem State.setFn_moves (s : State) (n : Nat) (c : HostFn) : (s.setFn n c).moves = s.moves := rfl
@[simp] theorem State.setFn_free (s : State) (n : Nat) (c : HostFn) : (s.setFn n c).free = s.free := rfl
@[simp] theorem State.setFn_who (s : State) (n : Nat) (c : HostFn) : (s.setFn n c).who = s.who := rfl
@[simp] theorem State.setFn_fw (s : State) (n : Nat) (c : HostFn) : (s.setFn n c).fw = s.fw := rfl
@[simp] theorem State.setFn_time (s : State) (n : Nat) (c : HostFn) : (s.setFn n c).time = s.time := rfl
@[simp] theorem State.setFn_nextUid (s : State) (n : Nat) (c : HostFn) : (s.setFn n c).nextUid = s.nextUid := rfl
@[simp] theorem State.setFn_ticks (s : State) (n : Nat) (c : HostFn) : (s.setFn n c).ticks = s.ticks := rfl
@[simp] theorem State.setFn_ctxs (s : State) (n : Nat) (c : HostFn) : (s.setFn n c).ctxs = s.ctxs := rfl
@[simp] theorem State.setFn_cores (s : State) (n : Nat) (c : HostFn) : (s.setFn n c).cores = s.cores := rfl
@[simp] theorem State.setFn_dram (s : State) (n : Nat) (c : HostFn) : (s.setFn n c).dram = s.dram := rfl
@[simp] theorem State.setFn_staging (s : State) (n : Nat) (c : HostFn) : (s.setFn n c).staging = s.staging := rfl
@[simp] theorem State.setFn_host (s : State) (n : Nat) (c : HostFn) : (s.setFn n c).host = s.host := rfl
@[simp] theorem State.setFn_peer (s : State) (n : Nat) (c : HostFn) : (s.setFn n c).peer = s.peer := rfl
@[simp] theorem State.setFn_xlat (s : State) (n : Nat) (c : HostFn) : (s.setFn n c).xlat = s.xlat := rfl
@[simp] theorem State.setFn_guests (s : State) (n : Nat) (c : HostFn) : (s.setFn n c).guests = s.guests := rfl
@[simp] theorem State.setFn_parts (s : State) (n : Nat) (c : HostFn) : (s.setFn n c).parts = s.parts := rfl
@[simp] theorem State.setFn_ranges (s : State) (n : Nat) (c : HostFn) : (s.setFn n c).ranges = s.ranges := rfl
@[simp] theorem State.setFn_buckets (s : State) (n : Nat) (c : HostFn) : (s.setFn n c).buckets = s.buckets := rfl
@[simp] theorem State.setFn_ctrlBuckets (s : State) (n : Nat) (c : HostFn) : (s.setFn n c).ctrlBuckets = s.ctrlBuckets := rfl
@[simp] theorem State.setFn_lanes (s : State) (n : Nat) (c : HostFn) : (s.setFn n c).lanes = s.lanes := rfl
@[simp] theorem State.setFn_ctrls (s : State) (n : Nat) (c : HostFn) : (s.setFn n c).ctrls = s.ctrls := rfl
@[simp] theorem State.setFn_move15 (s : State) (n : Nat) (c : HostFn) : (s.setFn n c).move15 = s.move15 := rfl
@[simp] theorem State.setFn_queues (s : State) (n : Nat) (c : HostFn) : (s.setFn n c).queues = s.queues := rfl
@[simp] theorem State.setFn_tasks (s : State) (n : Nat) (c : HostFn) : (s.setFn n c).tasks = s.tasks := rfl
@[simp] theorem State.setFn_launches (s : State) (n : Nat) (c : HostFn) : (s.setFn n c).launches = s.launches := rfl
@[simp] theorem State.setFn_saved (s : State) (n : Nat) (c : HostFn) : (s.setFn n c).saved = s.saved := rfl
@[simp] theorem State.setFn_groups (s : State) (n : Nat) (c : HostFn) : (s.setFn n c).groups = s.groups := rfl
@[simp] theorem State.setFn_fws (s : State) (n : Nat) (c : HostFn) : (s.setFn n c).fws = s.fws := rfl
@[simp] theorem State.setFn_fwResult (s : State) (n : Nat) (c : HostFn) : (s.setFn n c).fwResult = s.fwResult := rfl
@[simp] theorem State.setFn_route (s : State) (n : Nat) (c : HostFn) : (s.setFn n c).route = s.route := rfl
@[simp] theorem State.setFn_rings (s : State) (n : Nat) (c : HostFn) : (s.setFn n c).rings = s.rings := rfl
@[simp] theorem State.setFn_cqs (s : State) (n : Nat) (c : HostFn) : (s.setFn n c).cqs = s.cqs := rfl
@[simp] theorem State.setFn_pf0Guest (s : State) (n : Nat) (c : HostFn) : (s.setFn n c).pf0Guest = s.pf0Guest := rfl
@[simp] theorem State.setFn_irqs (s : State) (n : Nat) (c : HostFn) : (s.setFn n c).irqs = s.irqs := rfl
@[simp] theorem State.setFn_peerBase (s : State) (n : Nat) (c : HostFn) : (s.setFn n c).peerBase = s.peerBase := rfl
@[simp] theorem State.setFn_peerSize (s : State) (n : Nat) (c : HostFn) : (s.setFn n c).peerSize = s.peerSize := rfl
@[simp] theorem State.setFn_resets (s : State) (n : Nat) (c : HostFn) : (s.setFn n c).resets = s.resets := rfl
@[simp] theorem State.setFn_resetsLater (s : State) (n : Nat) (c : HostFn) : (s.setFn n c).resetsLater = s.resetsLater := rfl
@[simp] theorem State.setFn_power (s : State) (n : Nat) (c : HostFn) : (s.setFn n c).power = s.power := rfl
@[simp] theorem State.setFn_streams (s : State) (n : Nat) (c : HostFn) : (s.setFn n c).streams = s.streams := rfl
@[simp] theorem State.setFn_links (s : State) (n : Nat) (c : HostFn) : (s.setFn n c).links = s.links := rfl
@[simp] theorem State.setFn_vesper (s : State) (n : Nat) (c : HostFn) : (s.setFn n c).vesper = s.vesper := rfl
@[simp] theorem State.setFn_trust (s : State) (n : Nat) (c : HostFn) : (s.setFn n c).trust = s.trust := rfl
@[simp] theorem State.setFn_windowRead (s : State) (n : Nat) (c : HostFn) : (s.setFn n c).windowRead = s.windowRead := rfl

/-! ### setPart -/

@[simp] theorem State.setPart_moves (s : State) (n : Nat) (c : PartSt) : (s.setPart n c).moves = s.moves := rfl
@[simp] theorem State.setPart_free (s : State) (n : Nat) (c : PartSt) : (s.setPart n c).free = s.free := rfl
@[simp] theorem State.setPart_who (s : State) (n : Nat) (c : PartSt) : (s.setPart n c).who = s.who := rfl
@[simp] theorem State.setPart_fw (s : State) (n : Nat) (c : PartSt) : (s.setPart n c).fw = s.fw := rfl
@[simp] theorem State.setPart_time (s : State) (n : Nat) (c : PartSt) : (s.setPart n c).time = s.time := rfl
@[simp] theorem State.setPart_nextUid (s : State) (n : Nat) (c : PartSt) : (s.setPart n c).nextUid = s.nextUid := rfl
@[simp] theorem State.setPart_ticks (s : State) (n : Nat) (c : PartSt) : (s.setPart n c).ticks = s.ticks := rfl
@[simp] theorem State.setPart_ctxs (s : State) (n : Nat) (c : PartSt) : (s.setPart n c).ctxs = s.ctxs := rfl
@[simp] theorem State.setPart_cores (s : State) (n : Nat) (c : PartSt) : (s.setPart n c).cores = s.cores := rfl
@[simp] theorem State.setPart_dram (s : State) (n : Nat) (c : PartSt) : (s.setPart n c).dram = s.dram := rfl
@[simp] theorem State.setPart_staging (s : State) (n : Nat) (c : PartSt) : (s.setPart n c).staging = s.staging := rfl
@[simp] theorem State.setPart_host (s : State) (n : Nat) (c : PartSt) : (s.setPart n c).host = s.host := rfl
@[simp] theorem State.setPart_peer (s : State) (n : Nat) (c : PartSt) : (s.setPart n c).peer = s.peer := rfl
@[simp] theorem State.setPart_xlat (s : State) (n : Nat) (c : PartSt) : (s.setPart n c).xlat = s.xlat := rfl
@[simp] theorem State.setPart_guests (s : State) (n : Nat) (c : PartSt) : (s.setPart n c).guests = s.guests := rfl
@[simp] theorem State.setPart_ranges (s : State) (n : Nat) (c : PartSt) : (s.setPart n c).ranges = s.ranges := rfl
@[simp] theorem State.setPart_buckets (s : State) (n : Nat) (c : PartSt) : (s.setPart n c).buckets = s.buckets := rfl
@[simp] theorem State.setPart_ctrlBuckets (s : State) (n : Nat) (c : PartSt) : (s.setPart n c).ctrlBuckets = s.ctrlBuckets := rfl
@[simp] theorem State.setPart_lanes (s : State) (n : Nat) (c : PartSt) : (s.setPart n c).lanes = s.lanes := rfl
@[simp] theorem State.setPart_ctrls (s : State) (n : Nat) (c : PartSt) : (s.setPart n c).ctrls = s.ctrls := rfl
@[simp] theorem State.setPart_move15 (s : State) (n : Nat) (c : PartSt) : (s.setPart n c).move15 = s.move15 := rfl
@[simp] theorem State.setPart_queues (s : State) (n : Nat) (c : PartSt) : (s.setPart n c).queues = s.queues := rfl
@[simp] theorem State.setPart_tasks (s : State) (n : Nat) (c : PartSt) : (s.setPart n c).tasks = s.tasks := rfl
@[simp] theorem State.setPart_launches (s : State) (n : Nat) (c : PartSt) : (s.setPart n c).launches = s.launches := rfl
@[simp] theorem State.setPart_saved (s : State) (n : Nat) (c : PartSt) : (s.setPart n c).saved = s.saved := rfl
@[simp] theorem State.setPart_groups (s : State) (n : Nat) (c : PartSt) : (s.setPart n c).groups = s.groups := rfl
@[simp] theorem State.setPart_fws (s : State) (n : Nat) (c : PartSt) : (s.setPart n c).fws = s.fws := rfl
@[simp] theorem State.setPart_fwResult (s : State) (n : Nat) (c : PartSt) : (s.setPart n c).fwResult = s.fwResult := rfl
@[simp] theorem State.setPart_route (s : State) (n : Nat) (c : PartSt) : (s.setPart n c).route = s.route := rfl
@[simp] theorem State.setPart_rings (s : State) (n : Nat) (c : PartSt) : (s.setPart n c).rings = s.rings := rfl
@[simp] theorem State.setPart_cqs (s : State) (n : Nat) (c : PartSt) : (s.setPart n c).cqs = s.cqs := rfl
@[simp] theorem State.setPart_fns (s : State) (n : Nat) (c : PartSt) : (s.setPart n c).fns = s.fns := rfl
@[simp] theorem State.setPart_pf0Guest (s : State) (n : Nat) (c : PartSt) : (s.setPart n c).pf0Guest = s.pf0Guest := rfl
@[simp] theorem State.setPart_irqs (s : State) (n : Nat) (c : PartSt) : (s.setPart n c).irqs = s.irqs := rfl
@[simp] theorem State.setPart_peerBase (s : State) (n : Nat) (c : PartSt) : (s.setPart n c).peerBase = s.peerBase := rfl
@[simp] theorem State.setPart_peerSize (s : State) (n : Nat) (c : PartSt) : (s.setPart n c).peerSize = s.peerSize := rfl
@[simp] theorem State.setPart_resets (s : State) (n : Nat) (c : PartSt) : (s.setPart n c).resets = s.resets := rfl
@[simp] theorem State.setPart_resetsLater (s : State) (n : Nat) (c : PartSt) : (s.setPart n c).resetsLater = s.resetsLater := rfl
@[simp] theorem State.setPart_power (s : State) (n : Nat) (c : PartSt) : (s.setPart n c).power = s.power := rfl
@[simp] theorem State.setPart_streams (s : State) (n : Nat) (c : PartSt) : (s.setPart n c).streams = s.streams := rfl
@[simp] theorem State.setPart_links (s : State) (n : Nat) (c : PartSt) : (s.setPart n c).links = s.links := rfl
@[simp] theorem State.setPart_vesper (s : State) (n : Nat) (c : PartSt) : (s.setPart n c).vesper = s.vesper := rfl
@[simp] theorem State.setPart_trust (s : State) (n : Nat) (c : PartSt) : (s.setPart n c).trust = s.trust := rfl
@[simp] theorem State.setPart_windowRead (s : State) (n : Nat) (c : PartSt) : (s.setPart n c).windowRead = s.windowRead := rfl

/-! ### setGuest -/

@[simp] theorem State.setGuest_moves (s : State) (n : Nat) (c : Guest) : (s.setGuest n c).moves = s.moves := rfl
@[simp] theorem State.setGuest_free (s : State) (n : Nat) (c : Guest) : (s.setGuest n c).free = s.free := rfl
@[simp] theorem State.setGuest_who (s : State) (n : Nat) (c : Guest) : (s.setGuest n c).who = s.who := rfl
@[simp] theorem State.setGuest_fw (s : State) (n : Nat) (c : Guest) : (s.setGuest n c).fw = s.fw := rfl
@[simp] theorem State.setGuest_time (s : State) (n : Nat) (c : Guest) : (s.setGuest n c).time = s.time := rfl
@[simp] theorem State.setGuest_nextUid (s : State) (n : Nat) (c : Guest) : (s.setGuest n c).nextUid = s.nextUid := rfl
@[simp] theorem State.setGuest_ticks (s : State) (n : Nat) (c : Guest) : (s.setGuest n c).ticks = s.ticks := rfl
@[simp] theorem State.setGuest_ctxs (s : State) (n : Nat) (c : Guest) : (s.setGuest n c).ctxs = s.ctxs := rfl
@[simp] theorem State.setGuest_cores (s : State) (n : Nat) (c : Guest) : (s.setGuest n c).cores = s.cores := rfl
@[simp] theorem State.setGuest_dram (s : State) (n : Nat) (c : Guest) : (s.setGuest n c).dram = s.dram := rfl
@[simp] theorem State.setGuest_staging (s : State) (n : Nat) (c : Guest) : (s.setGuest n c).staging = s.staging := rfl
@[simp] theorem State.setGuest_host (s : State) (n : Nat) (c : Guest) : (s.setGuest n c).host = s.host := rfl
@[simp] theorem State.setGuest_peer (s : State) (n : Nat) (c : Guest) : (s.setGuest n c).peer = s.peer := rfl
@[simp] theorem State.setGuest_xlat (s : State) (n : Nat) (c : Guest) : (s.setGuest n c).xlat = s.xlat := rfl
@[simp] theorem State.setGuest_parts (s : State) (n : Nat) (c : Guest) : (s.setGuest n c).parts = s.parts := rfl
@[simp] theorem State.setGuest_ranges (s : State) (n : Nat) (c : Guest) : (s.setGuest n c).ranges = s.ranges := rfl
@[simp] theorem State.setGuest_buckets (s : State) (n : Nat) (c : Guest) : (s.setGuest n c).buckets = s.buckets := rfl
@[simp] theorem State.setGuest_ctrlBuckets (s : State) (n : Nat) (c : Guest) : (s.setGuest n c).ctrlBuckets = s.ctrlBuckets := rfl
@[simp] theorem State.setGuest_lanes (s : State) (n : Nat) (c : Guest) : (s.setGuest n c).lanes = s.lanes := rfl
@[simp] theorem State.setGuest_ctrls (s : State) (n : Nat) (c : Guest) : (s.setGuest n c).ctrls = s.ctrls := rfl
@[simp] theorem State.setGuest_move15 (s : State) (n : Nat) (c : Guest) : (s.setGuest n c).move15 = s.move15 := rfl
@[simp] theorem State.setGuest_queues (s : State) (n : Nat) (c : Guest) : (s.setGuest n c).queues = s.queues := rfl
@[simp] theorem State.setGuest_tasks (s : State) (n : Nat) (c : Guest) : (s.setGuest n c).tasks = s.tasks := rfl
@[simp] theorem State.setGuest_launches (s : State) (n : Nat) (c : Guest) : (s.setGuest n c).launches = s.launches := rfl
@[simp] theorem State.setGuest_saved (s : State) (n : Nat) (c : Guest) : (s.setGuest n c).saved = s.saved := rfl
@[simp] theorem State.setGuest_groups (s : State) (n : Nat) (c : Guest) : (s.setGuest n c).groups = s.groups := rfl
@[simp] theorem State.setGuest_fws (s : State) (n : Nat) (c : Guest) : (s.setGuest n c).fws = s.fws := rfl
@[simp] theorem State.setGuest_fwResult (s : State) (n : Nat) (c : Guest) : (s.setGuest n c).fwResult = s.fwResult := rfl
@[simp] theorem State.setGuest_route (s : State) (n : Nat) (c : Guest) : (s.setGuest n c).route = s.route := rfl
@[simp] theorem State.setGuest_rings (s : State) (n : Nat) (c : Guest) : (s.setGuest n c).rings = s.rings := rfl
@[simp] theorem State.setGuest_cqs (s : State) (n : Nat) (c : Guest) : (s.setGuest n c).cqs = s.cqs := rfl
@[simp] theorem State.setGuest_fns (s : State) (n : Nat) (c : Guest) : (s.setGuest n c).fns = s.fns := rfl
@[simp] theorem State.setGuest_pf0Guest (s : State) (n : Nat) (c : Guest) : (s.setGuest n c).pf0Guest = s.pf0Guest := rfl
@[simp] theorem State.setGuest_irqs (s : State) (n : Nat) (c : Guest) : (s.setGuest n c).irqs = s.irqs := rfl
@[simp] theorem State.setGuest_peerBase (s : State) (n : Nat) (c : Guest) : (s.setGuest n c).peerBase = s.peerBase := rfl
@[simp] theorem State.setGuest_peerSize (s : State) (n : Nat) (c : Guest) : (s.setGuest n c).peerSize = s.peerSize := rfl
@[simp] theorem State.setGuest_resets (s : State) (n : Nat) (c : Guest) : (s.setGuest n c).resets = s.resets := rfl
@[simp] theorem State.setGuest_resetsLater (s : State) (n : Nat) (c : Guest) : (s.setGuest n c).resetsLater = s.resetsLater := rfl
@[simp] theorem State.setGuest_power (s : State) (n : Nat) (c : Guest) : (s.setGuest n c).power = s.power := rfl
@[simp] theorem State.setGuest_streams (s : State) (n : Nat) (c : Guest) : (s.setGuest n c).streams = s.streams := rfl
@[simp] theorem State.setGuest_links (s : State) (n : Nat) (c : Guest) : (s.setGuest n c).links = s.links := rfl
@[simp] theorem State.setGuest_vesper (s : State) (n : Nat) (c : Guest) : (s.setGuest n c).vesper = s.vesper := rfl
@[simp] theorem State.setGuest_trust (s : State) (n : Nat) (c : Guest) : (s.setGuest n c).trust = s.trust := rfl
@[simp] theorem State.setGuest_windowRead (s : State) (n : Nat) (c : Guest) : (s.setGuest n c).windowRead = s.windowRead := rfl

/-! ### setStream -/

@[simp] theorem State.setStream_moves (s : State) (n : Nat) (c : Stream) : (s.setStream n c).moves = s.moves := rfl
@[simp] theorem State.setStream_free (s : State) (n : Nat) (c : Stream) : (s.setStream n c).free = s.free := rfl
@[simp] theorem State.setStream_who (s : State) (n : Nat) (c : Stream) : (s.setStream n c).who = s.who := rfl
@[simp] theorem State.setStream_fw (s : State) (n : Nat) (c : Stream) : (s.setStream n c).fw = s.fw := rfl
@[simp] theorem State.setStream_time (s : State) (n : Nat) (c : Stream) : (s.setStream n c).time = s.time := rfl
@[simp] theorem State.setStream_nextUid (s : State) (n : Nat) (c : Stream) : (s.setStream n c).nextUid = s.nextUid := rfl
@[simp] theorem State.setStream_ticks (s : State) (n : Nat) (c : Stream) : (s.setStream n c).ticks = s.ticks := rfl
@[simp] theorem State.setStream_ctxs (s : State) (n : Nat) (c : Stream) : (s.setStream n c).ctxs = s.ctxs := rfl
@[simp] theorem State.setStream_cores (s : State) (n : Nat) (c : Stream) : (s.setStream n c).cores = s.cores := rfl
@[simp] theorem State.setStream_dram (s : State) (n : Nat) (c : Stream) : (s.setStream n c).dram = s.dram := rfl
@[simp] theorem State.setStream_staging (s : State) (n : Nat) (c : Stream) : (s.setStream n c).staging = s.staging := rfl
@[simp] theorem State.setStream_host (s : State) (n : Nat) (c : Stream) : (s.setStream n c).host = s.host := rfl
@[simp] theorem State.setStream_peer (s : State) (n : Nat) (c : Stream) : (s.setStream n c).peer = s.peer := rfl
@[simp] theorem State.setStream_xlat (s : State) (n : Nat) (c : Stream) : (s.setStream n c).xlat = s.xlat := rfl
@[simp] theorem State.setStream_guests (s : State) (n : Nat) (c : Stream) : (s.setStream n c).guests = s.guests := rfl
@[simp] theorem State.setStream_parts (s : State) (n : Nat) (c : Stream) : (s.setStream n c).parts = s.parts := rfl
@[simp] theorem State.setStream_ranges (s : State) (n : Nat) (c : Stream) : (s.setStream n c).ranges = s.ranges := rfl
@[simp] theorem State.setStream_buckets (s : State) (n : Nat) (c : Stream) : (s.setStream n c).buckets = s.buckets := rfl
@[simp] theorem State.setStream_ctrlBuckets (s : State) (n : Nat) (c : Stream) : (s.setStream n c).ctrlBuckets = s.ctrlBuckets := rfl
@[simp] theorem State.setStream_lanes (s : State) (n : Nat) (c : Stream) : (s.setStream n c).lanes = s.lanes := rfl
@[simp] theorem State.setStream_ctrls (s : State) (n : Nat) (c : Stream) : (s.setStream n c).ctrls = s.ctrls := rfl
@[simp] theorem State.setStream_move15 (s : State) (n : Nat) (c : Stream) : (s.setStream n c).move15 = s.move15 := rfl
@[simp] theorem State.setStream_queues (s : State) (n : Nat) (c : Stream) : (s.setStream n c).queues = s.queues := rfl
@[simp] theorem State.setStream_tasks (s : State) (n : Nat) (c : Stream) : (s.setStream n c).tasks = s.tasks := rfl
@[simp] theorem State.setStream_launches (s : State) (n : Nat) (c : Stream) : (s.setStream n c).launches = s.launches := rfl
@[simp] theorem State.setStream_saved (s : State) (n : Nat) (c : Stream) : (s.setStream n c).saved = s.saved := rfl
@[simp] theorem State.setStream_groups (s : State) (n : Nat) (c : Stream) : (s.setStream n c).groups = s.groups := rfl
@[simp] theorem State.setStream_fws (s : State) (n : Nat) (c : Stream) : (s.setStream n c).fws = s.fws := rfl
@[simp] theorem State.setStream_fwResult (s : State) (n : Nat) (c : Stream) : (s.setStream n c).fwResult = s.fwResult := rfl
@[simp] theorem State.setStream_route (s : State) (n : Nat) (c : Stream) : (s.setStream n c).route = s.route := rfl
@[simp] theorem State.setStream_rings (s : State) (n : Nat) (c : Stream) : (s.setStream n c).rings = s.rings := rfl
@[simp] theorem State.setStream_cqs (s : State) (n : Nat) (c : Stream) : (s.setStream n c).cqs = s.cqs := rfl
@[simp] theorem State.setStream_fns (s : State) (n : Nat) (c : Stream) : (s.setStream n c).fns = s.fns := rfl
@[simp] theorem State.setStream_pf0Guest (s : State) (n : Nat) (c : Stream) : (s.setStream n c).pf0Guest = s.pf0Guest := rfl
@[simp] theorem State.setStream_irqs (s : State) (n : Nat) (c : Stream) : (s.setStream n c).irqs = s.irqs := rfl
@[simp] theorem State.setStream_peerBase (s : State) (n : Nat) (c : Stream) : (s.setStream n c).peerBase = s.peerBase := rfl
@[simp] theorem State.setStream_peerSize (s : State) (n : Nat) (c : Stream) : (s.setStream n c).peerSize = s.peerSize := rfl
@[simp] theorem State.setStream_resets (s : State) (n : Nat) (c : Stream) : (s.setStream n c).resets = s.resets := rfl
@[simp] theorem State.setStream_resetsLater (s : State) (n : Nat) (c : Stream) : (s.setStream n c).resetsLater = s.resetsLater := rfl
@[simp] theorem State.setStream_power (s : State) (n : Nat) (c : Stream) : (s.setStream n c).power = s.power := rfl
@[simp] theorem State.setStream_links (s : State) (n : Nat) (c : Stream) : (s.setStream n c).links = s.links := rfl
@[simp] theorem State.setStream_vesper (s : State) (n : Nat) (c : Stream) : (s.setStream n c).vesper = s.vesper := rfl
@[simp] theorem State.setStream_trust (s : State) (n : Nat) (c : Stream) : (s.setStream n c).trust = s.trust := rfl
@[simp] theorem State.setStream_windowRead (s : State) (n : Nat) (c : Stream) : (s.setStream n c).windowRead = s.windowRead := rfl

/-! ### notice -/

@[simp] theorem State.notice_moves (s : State) (n : Notice) : (s.notice n).moves = s.moves := rfl
@[simp] theorem State.notice_free (s : State) (n : Notice) : (s.notice n).free = s.free := rfl
@[simp] theorem State.notice_who (s : State) (n : Notice) : (s.notice n).who = s.who := rfl
@[simp] theorem State.notice_fw (s : State) (n : Notice) : (s.notice n).fw = s.fw := rfl
@[simp] theorem State.notice_time (s : State) (n : Notice) : (s.notice n).time = s.time := rfl
@[simp] theorem State.notice_nextUid (s : State) (n : Notice) : (s.notice n).nextUid = s.nextUid := rfl
@[simp] theorem State.notice_ticks (s : State) (n : Notice) : (s.notice n).ticks = s.ticks := rfl
@[simp] theorem State.notice_ctxs (s : State) (n : Notice) : (s.notice n).ctxs = s.ctxs := rfl
@[simp] theorem State.notice_cores (s : State) (n : Notice) : (s.notice n).cores = s.cores := rfl
@[simp] theorem State.notice_dram (s : State) (n : Notice) : (s.notice n).dram = s.dram := rfl
@[simp] theorem State.notice_staging (s : State) (n : Notice) : (s.notice n).staging = s.staging := rfl
@[simp] theorem State.notice_host (s : State) (n : Notice) : (s.notice n).host = s.host := rfl
@[simp] theorem State.notice_peer (s : State) (n : Notice) : (s.notice n).peer = s.peer := rfl
@[simp] theorem State.notice_xlat (s : State) (n : Notice) : (s.notice n).xlat = s.xlat := rfl
@[simp] theorem State.notice_guests (s : State) (n : Notice) : (s.notice n).guests = s.guests := rfl
@[simp] theorem State.notice_parts (s : State) (n : Notice) : (s.notice n).parts = s.parts := rfl
@[simp] theorem State.notice_ranges (s : State) (n : Notice) : (s.notice n).ranges = s.ranges := rfl
@[simp] theorem State.notice_buckets (s : State) (n : Notice) : (s.notice n).buckets = s.buckets := rfl
@[simp] theorem State.notice_ctrlBuckets (s : State) (n : Notice) : (s.notice n).ctrlBuckets = s.ctrlBuckets := rfl
@[simp] theorem State.notice_lanes (s : State) (n : Notice) : (s.notice n).lanes = s.lanes := rfl
@[simp] theorem State.notice_ctrls (s : State) (n : Notice) : (s.notice n).ctrls = s.ctrls := rfl
@[simp] theorem State.notice_move15 (s : State) (n : Notice) : (s.notice n).move15 = s.move15 := rfl
@[simp] theorem State.notice_queues (s : State) (n : Notice) : (s.notice n).queues = s.queues := rfl
@[simp] theorem State.notice_tasks (s : State) (n : Notice) : (s.notice n).tasks = s.tasks := rfl
@[simp] theorem State.notice_launches (s : State) (n : Notice) : (s.notice n).launches = s.launches := rfl
@[simp] theorem State.notice_saved (s : State) (n : Notice) : (s.notice n).saved = s.saved := rfl
@[simp] theorem State.notice_groups (s : State) (n : Notice) : (s.notice n).groups = s.groups := rfl
@[simp] theorem State.notice_fws (s : State) (n : Notice) : (s.notice n).fws = s.fws := rfl
@[simp] theorem State.notice_fwResult (s : State) (n : Notice) : (s.notice n).fwResult = s.fwResult := rfl
@[simp] theorem State.notice_route (s : State) (n : Notice) : (s.notice n).route = s.route := rfl
@[simp] theorem State.notice_rings (s : State) (n : Notice) : (s.notice n).rings = s.rings := rfl
@[simp] theorem State.notice_cqs (s : State) (n : Notice) : (s.notice n).cqs = s.cqs := rfl
@[simp] theorem State.notice_fns (s : State) (n : Notice) : (s.notice n).fns = s.fns := rfl
@[simp] theorem State.notice_pf0Guest (s : State) (n : Notice) : (s.notice n).pf0Guest = s.pf0Guest := rfl
@[simp] theorem State.notice_irqs (s : State) (n : Notice) : (s.notice n).irqs = s.irqs := rfl
@[simp] theorem State.notice_peerBase (s : State) (n : Notice) : (s.notice n).peerBase = s.peerBase := rfl
@[simp] theorem State.notice_peerSize (s : State) (n : Notice) : (s.notice n).peerSize = s.peerSize := rfl
@[simp] theorem State.notice_resets (s : State) (n : Notice) : (s.notice n).resets = s.resets := rfl
@[simp] theorem State.notice_resetsLater (s : State) (n : Notice) : (s.notice n).resetsLater = s.resetsLater := rfl
@[simp] theorem State.notice_power (s : State) (n : Notice) : (s.notice n).power = s.power := rfl
@[simp] theorem State.notice_streams (s : State) (n : Notice) : (s.notice n).streams = s.streams := rfl
@[simp] theorem State.notice_links (s : State) (n : Notice) : (s.notice n).links = s.links := rfl
@[simp] theorem State.notice_trust (s : State) (n : Notice) : (s.notice n).trust = s.trust := rfl
@[simp] theorem State.notice_windowRead (s : State) (n : Notice) : (s.notice n).windowRead = s.windowRead := rfl

/-! ### answer -/

@[simp] theorem State.answer_moves (s : State) (b : List Byte) : (s.answer b).moves = s.moves := rfl
@[simp] theorem State.answer_free (s : State) (b : List Byte) : (s.answer b).free = s.free := rfl
@[simp] theorem State.answer_who (s : State) (b : List Byte) : (s.answer b).who = s.who := rfl
@[simp] theorem State.answer_fw (s : State) (b : List Byte) : (s.answer b).fw = s.fw := rfl
@[simp] theorem State.answer_time (s : State) (b : List Byte) : (s.answer b).time = s.time := rfl
@[simp] theorem State.answer_nextUid (s : State) (b : List Byte) : (s.answer b).nextUid = s.nextUid := rfl
@[simp] theorem State.answer_ticks (s : State) (b : List Byte) : (s.answer b).ticks = s.ticks := rfl
@[simp] theorem State.answer_ctxs (s : State) (b : List Byte) : (s.answer b).ctxs = s.ctxs := rfl
@[simp] theorem State.answer_cores (s : State) (b : List Byte) : (s.answer b).cores = s.cores := rfl
@[simp] theorem State.answer_dram (s : State) (b : List Byte) : (s.answer b).dram = s.dram := rfl
@[simp] theorem State.answer_staging (s : State) (b : List Byte) : (s.answer b).staging = s.staging := rfl
@[simp] theorem State.answer_host (s : State) (b : List Byte) : (s.answer b).host = s.host := rfl
@[simp] theorem State.answer_peer (s : State) (b : List Byte) : (s.answer b).peer = s.peer := rfl
@[simp] theorem State.answer_xlat (s : State) (b : List Byte) : (s.answer b).xlat = s.xlat := rfl
@[simp] theorem State.answer_guests (s : State) (b : List Byte) : (s.answer b).guests = s.guests := rfl
@[simp] theorem State.answer_parts (s : State) (b : List Byte) : (s.answer b).parts = s.parts := rfl
@[simp] theorem State.answer_ranges (s : State) (b : List Byte) : (s.answer b).ranges = s.ranges := rfl
@[simp] theorem State.answer_buckets (s : State) (b : List Byte) : (s.answer b).buckets = s.buckets := rfl
@[simp] theorem State.answer_ctrlBuckets (s : State) (b : List Byte) : (s.answer b).ctrlBuckets = s.ctrlBuckets := rfl
@[simp] theorem State.answer_lanes (s : State) (b : List Byte) : (s.answer b).lanes = s.lanes := rfl
@[simp] theorem State.answer_ctrls (s : State) (b : List Byte) : (s.answer b).ctrls = s.ctrls := rfl
@[simp] theorem State.answer_move15 (s : State) (b : List Byte) : (s.answer b).move15 = s.move15 := rfl
@[simp] theorem State.answer_queues (s : State) (b : List Byte) : (s.answer b).queues = s.queues := rfl
@[simp] theorem State.answer_tasks (s : State) (b : List Byte) : (s.answer b).tasks = s.tasks := rfl
@[simp] theorem State.answer_launches (s : State) (b : List Byte) : (s.answer b).launches = s.launches := rfl
@[simp] theorem State.answer_saved (s : State) (b : List Byte) : (s.answer b).saved = s.saved := rfl
@[simp] theorem State.answer_groups (s : State) (b : List Byte) : (s.answer b).groups = s.groups := rfl
@[simp] theorem State.answer_fws (s : State) (b : List Byte) : (s.answer b).fws = s.fws := rfl
@[simp] theorem State.answer_fwResult (s : State) (b : List Byte) : (s.answer b).fwResult = s.fwResult := rfl
@[simp] theorem State.answer_route (s : State) (b : List Byte) : (s.answer b).route = s.route := rfl
@[simp] theorem State.answer_rings (s : State) (b : List Byte) : (s.answer b).rings = s.rings := rfl
@[simp] theorem State.answer_cqs (s : State) (b : List Byte) : (s.answer b).cqs = s.cqs := rfl
@[simp] theorem State.answer_fns (s : State) (b : List Byte) : (s.answer b).fns = s.fns := rfl
@[simp] theorem State.answer_pf0Guest (s : State) (b : List Byte) : (s.answer b).pf0Guest = s.pf0Guest := rfl
@[simp] theorem State.answer_irqs (s : State) (b : List Byte) : (s.answer b).irqs = s.irqs := rfl
@[simp] theorem State.answer_peerBase (s : State) (b : List Byte) : (s.answer b).peerBase = s.peerBase := rfl
@[simp] theorem State.answer_peerSize (s : State) (b : List Byte) : (s.answer b).peerSize = s.peerSize := rfl
@[simp] theorem State.answer_resets (s : State) (b : List Byte) : (s.answer b).resets = s.resets := rfl
@[simp] theorem State.answer_resetsLater (s : State) (b : List Byte) : (s.answer b).resetsLater = s.resetsLater := rfl
@[simp] theorem State.answer_power (s : State) (b : List Byte) : (s.answer b).power = s.power := rfl
@[simp] theorem State.answer_streams (s : State) (b : List Byte) : (s.answer b).streams = s.streams := rfl
@[simp] theorem State.answer_links (s : State) (b : List Byte) : (s.answer b).links = s.links := rfl
@[simp] theorem State.answer_trust (s : State) (b : List Byte) : (s.answer b).trust = s.trust := rfl
@[simp] theorem State.answer_windowRead (s : State) (b : List Byte) : (s.answer b).windowRead = s.windowRead := rfl

/-! ### asWho -/

@[simp] theorem State.asWho_moves (s : State) (w : Who) : (s.asWho w).moves = s.moves := rfl
@[simp] theorem State.asWho_free (s : State) (w : Who) : (s.asWho w).free = s.free := rfl
@[simp] theorem State.asWho_fw (s : State) (w : Who) : (s.asWho w).fw = s.fw := rfl
@[simp] theorem State.asWho_time (s : State) (w : Who) : (s.asWho w).time = s.time := rfl
@[simp] theorem State.asWho_nextUid (s : State) (w : Who) : (s.asWho w).nextUid = s.nextUid := rfl
@[simp] theorem State.asWho_ticks (s : State) (w : Who) : (s.asWho w).ticks = s.ticks := rfl
@[simp] theorem State.asWho_ctxs (s : State) (w : Who) : (s.asWho w).ctxs = s.ctxs := rfl
@[simp] theorem State.asWho_cores (s : State) (w : Who) : (s.asWho w).cores = s.cores := rfl
@[simp] theorem State.asWho_dram (s : State) (w : Who) : (s.asWho w).dram = s.dram := rfl
@[simp] theorem State.asWho_staging (s : State) (w : Who) : (s.asWho w).staging = s.staging := rfl
@[simp] theorem State.asWho_host (s : State) (w : Who) : (s.asWho w).host = s.host := rfl
@[simp] theorem State.asWho_peer (s : State) (w : Who) : (s.asWho w).peer = s.peer := rfl
@[simp] theorem State.asWho_xlat (s : State) (w : Who) : (s.asWho w).xlat = s.xlat := rfl
@[simp] theorem State.asWho_guests (s : State) (w : Who) : (s.asWho w).guests = s.guests := rfl
@[simp] theorem State.asWho_parts (s : State) (w : Who) : (s.asWho w).parts = s.parts := rfl
@[simp] theorem State.asWho_ranges (s : State) (w : Who) : (s.asWho w).ranges = s.ranges := rfl
@[simp] theorem State.asWho_buckets (s : State) (w : Who) : (s.asWho w).buckets = s.buckets := rfl
@[simp] theorem State.asWho_ctrlBuckets (s : State) (w : Who) : (s.asWho w).ctrlBuckets = s.ctrlBuckets := rfl
@[simp] theorem State.asWho_lanes (s : State) (w : Who) : (s.asWho w).lanes = s.lanes := rfl
@[simp] theorem State.asWho_ctrls (s : State) (w : Who) : (s.asWho w).ctrls = s.ctrls := rfl
@[simp] theorem State.asWho_move15 (s : State) (w : Who) : (s.asWho w).move15 = s.move15 := rfl
@[simp] theorem State.asWho_queues (s : State) (w : Who) : (s.asWho w).queues = s.queues := rfl
@[simp] theorem State.asWho_tasks (s : State) (w : Who) : (s.asWho w).tasks = s.tasks := rfl
@[simp] theorem State.asWho_launches (s : State) (w : Who) : (s.asWho w).launches = s.launches := rfl
@[simp] theorem State.asWho_saved (s : State) (w : Who) : (s.asWho w).saved = s.saved := rfl
@[simp] theorem State.asWho_groups (s : State) (w : Who) : (s.asWho w).groups = s.groups := rfl
@[simp] theorem State.asWho_fws (s : State) (w : Who) : (s.asWho w).fws = s.fws := rfl
@[simp] theorem State.asWho_fwResult (s : State) (w : Who) : (s.asWho w).fwResult = s.fwResult := rfl
@[simp] theorem State.asWho_route (s : State) (w : Who) : (s.asWho w).route = s.route := rfl
@[simp] theorem State.asWho_rings (s : State) (w : Who) : (s.asWho w).rings = s.rings := rfl
@[simp] theorem State.asWho_cqs (s : State) (w : Who) : (s.asWho w).cqs = s.cqs := rfl
@[simp] theorem State.asWho_fns (s : State) (w : Who) : (s.asWho w).fns = s.fns := rfl
@[simp] theorem State.asWho_pf0Guest (s : State) (w : Who) : (s.asWho w).pf0Guest = s.pf0Guest := rfl
@[simp] theorem State.asWho_irqs (s : State) (w : Who) : (s.asWho w).irqs = s.irqs := rfl
@[simp] theorem State.asWho_peerBase (s : State) (w : Who) : (s.asWho w).peerBase = s.peerBase := rfl
@[simp] theorem State.asWho_peerSize (s : State) (w : Who) : (s.asWho w).peerSize = s.peerSize := rfl
@[simp] theorem State.asWho_resets (s : State) (w : Who) : (s.asWho w).resets = s.resets := rfl
@[simp] theorem State.asWho_resetsLater (s : State) (w : Who) : (s.asWho w).resetsLater = s.resetsLater := rfl
@[simp] theorem State.asWho_power (s : State) (w : Who) : (s.asWho w).power = s.power := rfl
@[simp] theorem State.asWho_streams (s : State) (w : Who) : (s.asWho w).streams = s.streams := rfl
@[simp] theorem State.asWho_links (s : State) (w : Who) : (s.asWho w).links = s.links := rfl
@[simp] theorem State.asWho_vesper (s : State) (w : Who) : (s.asWho w).vesper = s.vesper := rfl
@[simp] theorem State.asWho_trust (s : State) (w : Who) : (s.asWho w).trust = s.trust := rfl
@[simp] theorem State.asWho_windowRead (s : State) (w : Who) : (s.asWho w).windowRead = s.windowRead := rfl

/-! ### asFw -/

@[simp] theorem State.asFw_moves (s : State) (n : Nat) : (s.asFw n).moves = s.moves := rfl
@[simp] theorem State.asFw_free (s : State) (n : Nat) : (s.asFw n).free = s.free := rfl
@[simp] theorem State.asFw_who (s : State) (n : Nat) : (s.asFw n).who = s.who := rfl
@[simp] theorem State.asFw_time (s : State) (n : Nat) : (s.asFw n).time = s.time := rfl
@[simp] theorem State.asFw_nextUid (s : State) (n : Nat) : (s.asFw n).nextUid = s.nextUid := rfl
@[simp] theorem State.asFw_ticks (s : State) (n : Nat) : (s.asFw n).ticks = s.ticks := rfl
@[simp] theorem State.asFw_ctxs (s : State) (n : Nat) : (s.asFw n).ctxs = s.ctxs := rfl
@[simp] theorem State.asFw_cores (s : State) (n : Nat) : (s.asFw n).cores = s.cores := rfl
@[simp] theorem State.asFw_dram (s : State) (n : Nat) : (s.asFw n).dram = s.dram := rfl
@[simp] theorem State.asFw_staging (s : State) (n : Nat) : (s.asFw n).staging = s.staging := rfl
@[simp] theorem State.asFw_host (s : State) (n : Nat) : (s.asFw n).host = s.host := rfl
@[simp] theorem State.asFw_peer (s : State) (n : Nat) : (s.asFw n).peer = s.peer := rfl
@[simp] theorem State.asFw_xlat (s : State) (n : Nat) : (s.asFw n).xlat = s.xlat := rfl
@[simp] theorem State.asFw_guests (s : State) (n : Nat) : (s.asFw n).guests = s.guests := rfl
@[simp] theorem State.asFw_parts (s : State) (n : Nat) : (s.asFw n).parts = s.parts := rfl
@[simp] theorem State.asFw_ranges (s : State) (n : Nat) : (s.asFw n).ranges = s.ranges := rfl
@[simp] theorem State.asFw_buckets (s : State) (n : Nat) : (s.asFw n).buckets = s.buckets := rfl
@[simp] theorem State.asFw_ctrlBuckets (s : State) (n : Nat) : (s.asFw n).ctrlBuckets = s.ctrlBuckets := rfl
@[simp] theorem State.asFw_lanes (s : State) (n : Nat) : (s.asFw n).lanes = s.lanes := rfl
@[simp] theorem State.asFw_ctrls (s : State) (n : Nat) : (s.asFw n).ctrls = s.ctrls := rfl
@[simp] theorem State.asFw_move15 (s : State) (n : Nat) : (s.asFw n).move15 = s.move15 := rfl
@[simp] theorem State.asFw_queues (s : State) (n : Nat) : (s.asFw n).queues = s.queues := rfl
@[simp] theorem State.asFw_tasks (s : State) (n : Nat) : (s.asFw n).tasks = s.tasks := rfl
@[simp] theorem State.asFw_launches (s : State) (n : Nat) : (s.asFw n).launches = s.launches := rfl
@[simp] theorem State.asFw_saved (s : State) (n : Nat) : (s.asFw n).saved = s.saved := rfl
@[simp] theorem State.asFw_groups (s : State) (n : Nat) : (s.asFw n).groups = s.groups := rfl
@[simp] theorem State.asFw_fws (s : State) (n : Nat) : (s.asFw n).fws = s.fws := rfl
@[simp] theorem State.asFw_fwResult (s : State) (n : Nat) : (s.asFw n).fwResult = s.fwResult := rfl
@[simp] theorem State.asFw_route (s : State) (n : Nat) : (s.asFw n).route = s.route := rfl
@[simp] theorem State.asFw_rings (s : State) (n : Nat) : (s.asFw n).rings = s.rings := rfl
@[simp] theorem State.asFw_cqs (s : State) (n : Nat) : (s.asFw n).cqs = s.cqs := rfl
@[simp] theorem State.asFw_fns (s : State) (n : Nat) : (s.asFw n).fns = s.fns := rfl
@[simp] theorem State.asFw_pf0Guest (s : State) (n : Nat) : (s.asFw n).pf0Guest = s.pf0Guest := rfl
@[simp] theorem State.asFw_irqs (s : State) (n : Nat) : (s.asFw n).irqs = s.irqs := rfl
@[simp] theorem State.asFw_peerBase (s : State) (n : Nat) : (s.asFw n).peerBase = s.peerBase := rfl
@[simp] theorem State.asFw_peerSize (s : State) (n : Nat) : (s.asFw n).peerSize = s.peerSize := rfl
@[simp] theorem State.asFw_resets (s : State) (n : Nat) : (s.asFw n).resets = s.resets := rfl
@[simp] theorem State.asFw_resetsLater (s : State) (n : Nat) : (s.asFw n).resetsLater = s.resetsLater := rfl
@[simp] theorem State.asFw_power (s : State) (n : Nat) : (s.asFw n).power = s.power := rfl
@[simp] theorem State.asFw_streams (s : State) (n : Nat) : (s.asFw n).streams = s.streams := rfl
@[simp] theorem State.asFw_links (s : State) (n : Nat) : (s.asFw n).links = s.links := rfl
@[simp] theorem State.asFw_vesper (s : State) (n : Nat) : (s.asFw n).vesper = s.vesper := rfl
@[simp] theorem State.asFw_trust (s : State) (n : Nat) : (s.asFw n).trust = s.trust := rfl
@[simp] theorem State.asFw_windowRead (s : State) (n : Nat) : (s.asFw n).windowRead = s.windowRead := rfl

/-! ### Accessors after an update -/

@[simp] theorem State.ctx_setCtx (s : State) (a b : Nat) (c : Ctx) : (s.setCtx a b c).ctx a b = c :=
  Tbl.get_put_same _ _ _ _

/-- Other contexts stay as they were. -/
theorem State.ctx_setCtx_ne (s : State) (a b a' b' : Nat) (c : Ctx) (h : a' * 4 + b' ≠ a * 4 + b) :
    (s.setCtx a b c).ctx a' b' = s.ctx a' b' :=
  Tbl.get_put_ne _ _ _ _ _ h

@[simp] theorem State.me_setMe (s : State) (c : Ctx) : (s.setMe c).me = c := Tbl.get_put_same _ _ _ _

@[simp] theorem Ctx.setSeq_get (c : Ctx) (y : Sq) (q : Seqr) : (c.setSeq y q).seq.get y = q := by cases y <;> rfl

theorem Quad.get_set_ne {α : Type} (q : Quad α) (y z : Sq) (v : α) (h : z ≠ y) : (q.set y v).get z = q.get z := by
  cases y <;> cases z <;> first | rfl | exact absurd rfl h

@[simp] theorem State.me_setSq (s : State) (q : Seqr) : (s.setSq q).me = s.me.setSeq s.who.y q :=
  Tbl.get_put_same _ _ _ _

@[simp] theorem State.sq_setSq (s : State) (q : Seqr) : (s.setSq q).sq = q := by
  simp [State.sq]

@[simp] theorem State.sq_setMe (s : State) (c : Ctx) : (s.setMe c).sq = c.seq.get s.who.y := by
  simp [State.sq]

@[simp] theorem State.core_setCore (s : State) (n : Nat) (c : CoreSt) : (s.setCore n c).core n = c :=
  Tbl.get_put_same _ _ _ _

@[simp] theorem State.cluster_setCluster (s : State) (n : Nat) (c : Cluster) : (s.setCluster n c).cluster n = c := by
  simp [State.cluster, State.setCluster]

theorem State.cluster_setCluster_ne (s : State) (n m : Nat) (c : Cluster) (h : m ≠ n) :
    (s.setCluster n c).cluster m = s.cluster m := by
  simp [State.cluster, State.setCluster, Tbl.find_ins_ne _ _ _ _ h]

@[simp] theorem State.cluster_setRail (s : State) (n m : Nat) (r : Rail) : (s.setRail n r).cluster m = s.cluster m := rfl

@[simp] theorem State.rail_setCluster (s : State) (n m : Nat) (c : Cluster) : (s.setCluster n c).rail m = s.rail m := rfl

@[simp] theorem State.rail_setRail (s : State) (n : Nat) (r : Rail) : (s.setRail n r).rail n = r :=
  Tbl.get_put_same _ _ _ _

theorem State.rail_setRail_ne (s : State) (n m : Nat) (r : Rail) (h : m ≠ n) : (s.setRail n r).rail m = s.rail m :=
  Tbl.get_put_ne _ _ _ _ _ h

@[simp] theorem State.queue_setQueue (s : State) (n : Nat) (q : BQueue) : (s.setQueue n q).queue n = q :=
  Tbl.get_put_same _ _ _ _

@[simp] theorem State.ring_setRing (s : State) (n : Nat) (r : KRing) : (s.setRing n r).ring n = r :=
  Tbl.get_put_same _ _ _ _

theorem State.ring_setRing_ne (s : State) (n m : Nat) (r : KRing) (h : m ≠ n) : (s.setRing n r).ring m = s.ring m :=
  Tbl.get_put_ne _ _ _ _ _ h

@[simp] theorem State.fwCore_setFw (s : State) (n : Nat) (c : FwCore) : (s.setFw n c).fwCore n = c :=
  Tbl.get_put_same _ _ _ _

@[simp] theorem State.fwMe_setFwMe (s : State) (c : FwCore) : (s.setFwMe c).fwMe = c := Tbl.get_put_same _ _ _ _

@[simp] theorem State.cq_setCq (s : State) (n : Nat) (c : Cq) : (s.setCq n c).cq n = c := Tbl.get_put_same _ _ _ _

@[simp] theorem State.fn_setFn (s : State) (n : Nat) (f : HostFn) : (s.setFn n f).fn n = f := Tbl.get_put_same _ _ _ _

@[simp] theorem State.part_setPart (s : State) (n : Nat) (p : PartSt) : (s.setPart n p).part n = p :=
  Tbl.get_put_same _ _ _ _

theorem State.part_setPart_ne (s : State) (n m : Nat) (p : PartSt) (h : m ≠ n) : (s.setPart n p).part m = s.part m :=
  Tbl.get_put_ne _ _ _ _ _ h

@[simp] theorem State.guest_setGuest (s : State) (n : Nat) (g : Guest) : (s.setGuest n g).guest n = g :=
  Tbl.get_put_same _ _ _ _

theorem State.guest_setGuest_ne (s : State) (n m : Nat) (g : Guest) (h : m ≠ n) :
    (s.setGuest n g).guest m = s.guest m :=
  Tbl.get_put_ne _ _ _ _ _ h

@[simp] theorem State.stream_setStream (s : State) (n : Nat) (x : Stream) : (s.setStream n x).stream n = x :=
  Tbl.get_put_same _ _ _ _

end Sys2Proof.Machine
end

