-- ==== Sys2Proof/Laws/Issue.lean ====
section
/-! SUPPORT. What an issue does, said once: the operands taken, the word accepted, and the outcome of a word that
is ready. -/
namespace Sys2Proof.Machine

/-! ### The parts of a context that taking operands leaves alone -/

/-- A context that differs only in channels, generators and what a sequencer has received. -/
def Ctx.sameBut (c d : Ctx) (y : Sq) : Prop :=
  d.rest = c.rest ∧ (∀ z, z ≠ y → d.seq.get z = c.seq.get z) ∧
    ∃ pts ret know, d.seq.get y = { c.seq.get y with pts := pts, retPts := ret, know := know }

theorem Ctx.sameBut_refl (c : Ctx) (y : Sq) : c.sameBut c y := ⟨rfl, fun _ _ => rfl, _, _, _, rfl⟩

theorem Ctx.sameBut_trans {c d e : Ctx} {y : Sq} (h : c.sameBut d y) (k : d.sameBut e y) : c.sameBut e y := by
  obtain ⟨h1, h2, p, r, n, h3⟩ := h
  obtain ⟨k1, k2, p', r', n', k3⟩ := k
  refine ⟨k1.trans h1, fun z hz => (k2 z hz).trans (h2 z hz), p', r', n', ?_⟩
  rw [k3, h3]

theorem Ctx.sameBut_receive (c : Ctx) (y : Sq) (k : Carry) : c.sameBut (c.setSeq y ((c.seq.get y).receive k)) y := by
  refine ⟨rfl, fun z hz => ?_, _, _, _, Ctx.setSeq_get _ _ _⟩
  exact Quad.get_set_ne _ _ _ _ hz

theorem Ctx.sameBut_then (c d : Ctx) (y : Sq) (k : Carry) (h : c.sameBut d y) (hs : d.seq = c.seq) :
    c.sameBut (d.setSeq y ((c.seq.get y).receive k)) y := by
  rw [← hs]
  exact Ctx.sameBut_trans h (Ctx.sameBut_receive d y k)

theorem Ctx.sameBut_setChan (c : Ctx) (y : Sq) (k : ChanKind) (ch : Nat) (v : Chan) :
    c.sameBut (c.setChan k ch v) y := by
  cases k <;> exact ⟨rfl, fun _ _ => rfl, _, _, _, rfl⟩

theorem Ctx.sameBut_setGen (c : Ctx) (y : Sq) (n : Nat) (g : Gen) : c.sameBut (c.setGen n g) y :=
  ⟨rfl, fun _ _ => rfl, _, _, _, rfl⟩

@[simp] theorem Ctx.seq_setChan (c : Ctx) (k : ChanKind) (ch : Nat) (v : Chan) : (c.setChan k ch v).seq = c.seq := by
  cases k <;> rfl

@[simp] theorem Ctx.seq_setGen (c : Ctx) (n : Nat) (g : Gen) : (c.setGen n g).seq = c.seq := rfl

theorem Taken.pop_same (t : Taken) (y : Sq) (k : ChanKind) (ch : Nat) : t.ctx.sameBut (t.pop y k ch).1.ctx y := by
  unfold Taken.pop
  dsimp only
  split
  · exact Ctx.sameBut_refl _ _
  · exact Ctx.sameBut_then _ _ y _ (Ctx.sameBut_setChan t.ctx y k ch _) (Ctx.seq_setChan _ _ _ _)

theorem Taken.source_same (y : Sq) (t : Taken) (f : Spec) : t.ctx.sameBut (Taken.source y t f).ctx y := by
  cases f with
  | s n => exact Ctx.sameBut_refl _ _
  | li n => exact Ctx.sameBut_refl _ _
  | q z => exact Taken.pop_same t y .data (chanIx z y)

theorem Taken.line_same (y : Sq) (t : Taken) (n : Nat) : t.ctx.sameBut (Taken.line y t n).ctx y := by
  unfold Taken.line
  dsimp only
  split
  · exact Ctx.sameBut_then _ _ y _ (Ctx.sameBut_setGen t.ctx y n _) rfl
  · exact Ctx.sameBut_refl _ _

theorem foldl_same {α : Type} (f : Taken → α → Taken) (y : Sq) (h : ∀ (t : Taken) (a : α), t.ctx.sameBut (f t a).ctx y) (l : List α)
    (t : Taken) : t.ctx.sameBut (l.foldl f t).ctx y := by
  induction l generalizing t with
  | nil => exact Ctx.sameBut_refl _ _
  | cons a l ih => exact Ctx.sameBut_trans (h t a) (ih (f t a))

/-- Taking operands changes channels, generators and what the sequencer has received; nothing else. -/
theorem Req.take_same (r : Req) (c : Ctx) (y : Sq) : c.sameBut (r.take c y).ctx y := by
  unfold Req.take
  simp only
  refine Ctx.sameBut_trans ?_ (foldl_same (Taken.line y) y (Taken.line_same y) _ _)
  have h1 : ∀ t : Taken, t.ctx.sameBut (match r.boSrc with
      | some ch => { (t.pop y .bo ch).1 with words := (t.pop y .bo ch).1.words ++ [(t.pop y .bo ch).2] }
      | none => t).ctx y := by
    intro t
    cases r.boSrc with
    | none => exact Ctx.sameBut_refl _ _
    | some ch => exact Taken.pop_same t y .bo ch
  refine Ctx.sameBut_trans ?_ (h1 _)
  refine Ctx.sameBut_trans ?_ (foldl_same (Taken.source y) y (Taken.source_same y) _ _)
  have h2 : ∀ t : Taken, t.ctx.sameBut (if r.cm.ew = 0 then t else
      { t with ctx := t.ctx.setSeq y ((t.ctx.seq.get y).receive (c.eventCarry r.cm.ew.toNat)) }).ctx y := by
    intro t
    split
    · exact Ctx.sameBut_refl _ _
    · exact Ctx.sameBut_receive _ _ _
  refine Ctx.sameBut_trans ?_ (h2 _)
  exact foldl_same _ y (fun t z => by
    split
    · exact Taken.pop_same t y .tok (chanIx z y)
    · exact Ctx.sameBut_refl _ _) _ ⟨c, [], [], []⟩

/-! ### The outcome of a word that is ready -/

/-- A ready word comes to what its meaning gives. -/
theorem issue_of_ready (r : Req) (body : State → List Word → List LineBits → Result) (s : State) (h : Ready r s) :
    issue r body s = match body (r.taken s) (r.take s.me s.who.y).words (r.take s.me s.who.y).lines with
      | .ok d => .next (accept r (r.take s.me s.who.y) d)
      | .trap x => .next (s.takeTrap { x with after := true })
      | .trapNext x => .next ((s.setSq { s.sq with pc := s.sq.pc + 8, lastWait := s.sq.waited }).takeTrap { x with after := true })
      | .wait => .next s.noWait
      | .waitOn w => .next (s.countWait w)
      | .feed qs t p => .next (s.feedWaits qs t p)
      | .enlist f => .next (f s.noWait)
      | .trapLeaves f x => .next ((f s).takeTrap { x with after := true })
      | .stop st d => .next ((accept r (r.take s.me s.who.y) d).setMe
          { (accept r (r.take s.me s.who.y) d).me with stop := some st })
      | .fault f => .fault f := by
  obtain ⟨h1, h2, h3, h4, h5⟩ := h
  unfold issue
  rw [h1]
  simp only [h2, h3, h4, h5, Bool.false_eq_true, if_false]
  rfl

/-- A ready word that its meaning lets go is accepted. -/
theorem issue_ok (r : Req) (body : State → List Word → List LineBits → Result) (s : State) (d : Done)
    (h : Ready r s) (hb : body (r.taken s) (r.take s.me s.who.y).words (r.take s.me s.who.y).lines = .ok d) :
    issue r body s = .next (accept r (r.take s.me s.who.y) d) := by
  rw [issue_of_ready r body s h, hb]

/-! ### What accepting a word does -/

theorem Ctx.rest_setChan (c : Ctx) (k : ChanKind) (ch : Nat) (v : Chan) : (c.setChan k ch v).rest = c.rest := by
  cases k <;> rfl

theorem Ctx.rest_setSeq (c : Ctx) (y : Sq) (q : Seqr) : (c.setSeq y q).rest = c.rest := rfl

theorem Ctx.rest_dropResume (c : Ctx) (y : Sq) (pc : VA) : (c.dropResume y pc).rest = c.rest := by
  unfold Ctx.dropResume
  split
  · split <;> rfl
  · rfl

theorem Ctx.seq_dropResume (c : Ctx) (y : Sq) (pc : VA) : (c.dropResume y pc).seq = c.seq := by
  unfold Ctx.dropResume
  split
  · split <;> rfl
  · rfl

theorem Ctx.rest_leaveFeed (c : Ctx) (y : Sq) : (c.leaveFeed y).rest = c.rest := by
  unfold Ctx.leaveFeed
  split <;> rfl

theorem Ctx.seq_leaveFeed (c : Ctx) (y : Sq) : (c.leaveFeed y).seq = c.seq := by
  unfold Ctx.leaveFeed
  split <;> rfl

theorem Ctx.seq_endRequest (c : Ctx) (y : Sq) : (c.endRequest y).seq = c.seq := by
  unfold Ctx.endRequest
  split <;> rfl

/-- The end of a request is seen in what an issue leaves alone. -/
theorem Ctx.rest_endRequest (c : Ctx) (y : Sq) : (c.endRequest y).rest = (c.rest.endRequest y).rest := by
  have e : c.rest.power = c.power := rfl
  unfold Ctx.endRequest
  rw [e]
  split <;> rfl

/-- Slots reserved at an issue change channels alone. -/
theorem foldl_reserve (l : List (ChanKind × Nat)) (c : Ctx) :
    (l.foldl (fun c e => c.setChan e.1 e.2 (c.chan e.1 e.2).reserve) c).rest = c.rest ∧
      (l.foldl (fun c e => c.setChan e.1 e.2 (c.chan e.1 e.2).reserve) c).seq = c.seq := by
  induction l generalizing c with
  | nil => exact ⟨rfl, rfl⟩
  | cons e l ih =>
    obtain ⟨h1, h2⟩ := ih (c.setChan e.1 e.2 (c.chan e.1 e.2).reserve)
    exact ⟨h1.trans (Ctx.rest_setChan _ _ _ _), h2.trans (Ctx.seq_setChan _ _ _ _)⟩

/-- The flow looks at nothing but the address and the loop stack. -/
theorem Seqr.setLevel_flow (q : Seqr) (n : Nat) (l : Loop) (p r : Nat) (k : Know) (o : Option Nat) :
    ({ q with pts := p, retPts := r, know := k, oneShot := o } : Seqr).setLevel n l =
      { q.setLevel n l with pts := p, retPts := r, know := k, oneShot := o } := rfl

theorem Seqr.arrive_flow (q : Seqr) (a : VA) (n : Nat) (p r : Nat) (k : Know) (o : Option Nat) :
    ({ q with pts := p, retPts := r, know := k, oneShot := o } : Seqr).arrive a n =
      { q.arrive a n with pts := p, retPts := r, know := k, oneShot := o } := by
  induction n generalizing q with
  | zero => rfl
  | succ n ih =>
    unfold Seqr.arrive
    have e : ({ q with pts := p, retPts := r, know := k, oneShot := o } : Seqr).level n = q.level n := rfl
    rw [e]
    split
    · split
      · rfl
      · rw [Seqr.setLevel_flow, ih]
    · exact ih q

theorem Seqr.jump_flow (q : Seqr) (a : VA) (p r : Nat) (k : Know) (o : Option Nat) :
    ({ q with pts := p, retPts := r, know := k, oneShot := o } : Seqr).jump a =
      { q.jump a with pts := p, retPts := r, know := k, oneShot := o } := by
  have h : ∀ (l : List Nat) (q : Seqr),
      l.foldl (fun (q : Seqr) n => if (q.level n).active && !(q.level n).holds a then q.setLevel n Loop.none else q)
        { q with pts := p, retPts := r, know := k, oneShot := o } =
      { l.foldl (fun (q : Seqr) n => if (q.level n).active && !(q.level n).holds a then q.setLevel n Loop.none else q) q
        with pts := p, retPts := r, know := k, oneShot := o } := by
    intro l
    induction l with
    | nil => intro q; rfl
    | cons n l ih =>
      intro q
      simp only [List.foldl_cons]
      have e : ({ q with pts := p, retPts := r, know := k, oneShot := o } : Seqr).level n = q.level n := rfl
      rw [e]
      split
      · rw [Seqr.setLevel_flow, ih]
      · exact ih q
  unfold Seqr.jump
  rw [h]

theorem Seqr.flow_flow (q : Seqr) (long : Bool) (f : Flow) (p r : Nat) (k : Know) (o : Option Nat) :
    ({ q with pts := p, retPts := r, know := k, oneShot := o } : Seqr).flow long f =
      { q.flow long f with pts := p, retPts := r, know := k, oneShot := o } := by
  cases f with
  | seq => exact Seqr.arrive_flow q _ 8 p r k o
  | arrive a => exact Seqr.arrive_flow q a 8 p r k o
  | jump a => exact Seqr.jump_flow q a p r k o
  | goto a => rfl

/-- The flow changes the address and the loop stack alone. -/
theorem Seqr.arrive_keeps (q : Seqr) (a : VA) (n : Nat) :
    q.arrive a n = { q with pc := (q.arrive a n).pc, loops := (q.arrive a n).loops } := by
  induction n generalizing q with
  | zero => rfl
  | succ n ih =>
    unfold Seqr.arrive
    split
    · split
      · rfl
      · exact ih _
    · exact ih q

theorem Seqr.jump_keeps (q : Seqr) (a : VA) : q.jump a = { q with pc := (q.jump a).pc, loops := (q.jump a).loops } := by
  have h : ∀ (l : List Nat) (q : Seqr), ∃ x,
      l.foldl (fun (q : Seqr) n => if (q.level n).active && !(q.level n).holds a then q.setLevel n Loop.none else q) q =
      { q with loops := x } := by
    intro l
    induction l with
    | nil => intro q; exact ⟨q.loops, rfl⟩
    | cons n l ih =>
      intro q
      simp only [List.foldl_cons]
      split
      · obtain ⟨x, hx⟩ := ih (q.setLevel n Loop.none); exact ⟨x, hx⟩
      · exact ih q
  obtain ⟨x, hx⟩ := h (List.range 8) q
  unfold Seqr.jump
  rw [hx]

theorem Seqr.flow_keeps (q : Seqr) (long : Bool) (f : Flow) :
    q.flow long f = { q with pc := (q.flow long f).pc, loops := (q.flow long f).loops } := by
  cases f with
  | seq => exact Seqr.arrive_keeps q _ 8
  | arrive a => exact Seqr.arrive_keeps q a 8
  | jump a => exact Seqr.jump_keeps q a
  | goto a => rfl

/-- A ready word whose meaning does nothing at its issue but say what its retire will do. -/
theorem starts_of_ready (r : Req) (body : State → List Word → List LineBits → Result) (s : State) (eff : List Effect)
    (gate : Gate) (f : Flow) (en : Bool) (h : Ready r s)
    (hb : body (r.taken s) (r.take s.me s.who.y).words (r.take s.me s.who.y).lines =
      .ok { s := r.taken s, eff := eff, gate := gate, flow := f, ended := en }) :
    Starts r s eff gate f (issue r body s) := by
  rw [issue_ok r body s _ h hb]
  refine ⟨_, rfl, ?_⟩
  obtain ⟨k1, k2, p, rp, n, k3⟩ := Req.take_same r s.me s.who.y
  generalize hT : r.take s.me s.who.y = T at *
  have hme : (r.taken s).me = T.ctx.setSeq s.who.y { T.ctx.seq.get s.who.y with oneShot := none } := by
    rw [Req.taken, hT]; exact State.me_setMe _ _
  have hwho : (r.taken s).who = s.who := rfl
  obtain ⟨e1, e2⟩ := foldl_reserve (r.slots s.who.y) (r.taken s).me
  generalize hC : (r.slots s.who.y).foldl (fun c e => c.setChan e.1 e.2 (c.chan e.1 e.2).reserve) (r.taken s).me = C at *
  have hq : C.seq.get s.who.y = { s.sq with pts := p, retPts := rp, know := n, oneShot := none } := by
    rw [e2, hme]; simp only [Ctx.setSeq_get]; rw [k3]; rfl
  have hz : ∀ z, z ≠ s.who.y → C.seq.get z = s.me.seq.get z := by
    intro z hz
    rw [e2, hme]
    exact (Quad.get_set_ne _ _ _ _ hz).trans (k2 z hz)
  have hrest : C.rest = s.me.rest := by
    rw [e1, hme, Ctx.rest_setSeq]; exact k1
  have hacc : accept r T { s := r.taken s, eff := eff, gate := gate, flow := f, ended := en } =
      (r.taken s).setMe (((C.setSeq s.who.y
        { ({ (C.seq.get s.who.y).flow r.long f with
              inflight := (C.seq.get s.who.y).inflight ++ [{ opc := r.opc, pc := (C.seq.get s.who.y).pc, ts := r.cm.ts, es := r.cm.es, pops := T.pops, rsvs := r.slots s.who.y, effects := eff, gate := gate, carry := (C.seq.get s.who.y).carry, uses := r.writes ++ r.sticky ++ eff.flatMap Effect.loc ++ (r.gens.map fun u => .gen u.g), reads := r.reads.filter fun | .tile _ => true | _ => false, store := r.store, cls := r.cls, undo := (C.seq.get s.who.y).loops }]
              lastWait := (C.seq.get s.who.y).waited, waited := 0, waiting := none, stalled := false, memWait := false } : Seqr) with
          ended := ({ (C.seq.get s.who.y).flow r.long f with
              inflight := (C.seq.get s.who.y).inflight ++ [{ opc := r.opc, pc := (C.seq.get s.who.y).pc, ts := r.cm.ts, es := r.cm.es, pops := T.pops, rsvs := r.slots s.who.y, effects := eff, gate := gate, carry := (C.seq.get s.who.y).carry, uses := r.writes ++ r.sticky ++ eff.flatMap Effect.loc ++ (r.gens.map fun u => .gen u.g), reads := r.reads.filter fun | .tile _ => true | _ => false, store := r.store, cls := r.cls, undo := (C.seq.get s.who.y).loops }]
              lastWait := (C.seq.get s.who.y).waited, waited := 0, waiting := none, stalled := false, memWait := false } : Seqr).ended || en }).dropResume s.who.y (C.seq.get s.who.y).pc).leaveFeed s.who.y |>.endRequest s.who.y) := by
    rw [← hC]; rfl
  rw [hacc]
  have hfl := Seqr.flow_flow s.sq r.long f p rp n none
  have hke := Seqr.flow_keeps s.sq r.long f
  rw [hq, hfl, hke]
  refine ⟨⟨⟨rfl, ?_⟩, ?_, ?_, ?_⟩, ?_, ?_⟩
  · intro a b hab
    have h1 := State.ctx_setCtx_ne (r.taken s) s.who.core s.who.slot a b
    rw [State.setMe, hwho, h1 _ hab]
    exact State.ctx_setCtx_ne s s.who.core s.who.slot a b _ hab
  · rw [State.me_setMe, Ctx.rest_endRequest, Ctx.rest_leaveFeed, Ctx.rest_dropResume, Ctx.rest_setSeq, hrest, ← Ctx.rest_endRequest]
  · rw [State.sq_setMe, Ctx.seq_endRequest, Ctx.seq_leaveFeed, Ctx.seq_dropResume, hwho, Ctx.setSeq_get]; rfl
  · intro z hz'
    rw [State.me_setMe, Ctx.seq_endRequest, Ctx.seq_leaveFeed, Ctx.seq_dropResume]
    exact (Quad.get_set_ne _ _ _ _ hz').trans (hz z hz')
  · refine ⟨{ opc := r.opc, pc := s.sq.pc, ts := r.cm.ts, es := r.cm.es, pops := T.pops, rsvs := r.slots s.who.y
              effects := eff, gate := gate, carry := ⟨p, n⟩
              uses := r.writes ++ r.sticky ++ eff.flatMap Effect.loc ++ (r.gens.map fun u => .gen u.g)
              reads := r.reads.filter fun | .tile _ => true | _ => false
              store := r.store, cls := r.cls, undo := s.sq.loops }, ?_, rfl, rfl, rfl, rfl, rfl, rfl, rfl, ?_⟩
    · rw [State.sq_setMe, Ctx.seq_endRequest, Ctx.seq_leaveFeed, Ctx.seq_dropResume, hwho, Ctx.setSeq_get]; rfl
    · rw [State.sq_setMe, Ctx.seq_endRequest, Ctx.seq_leaveFeed, Ctx.seq_dropResume, hwho, Ctx.setSeq_get]; rfl
  · rw [Flows, State.sq_setMe, Ctx.seq_endRequest, Ctx.seq_leaveFeed, Ctx.seq_dropResume, hwho, Ctx.setSeq_get]
    exact ⟨rfl, rfl⟩

end Sys2Proof.Machine
end

