-- ==== Sys2Proof/Laws/Memory.lean ====
section
/-! SUPPORT. Memories: reading after writing, the other bytes, and the canonical form. -/
namespace Sys2Proof.Machine

/-- A byte after a write of one byte. -/
theorem Memory.byte_put (m : Memory) (a x : Nat) (b : Byte) :
    Memory.byte (Tbl.put 0 m a b) x = if x = a then b else m.byte x := by
  unfold Memory.byte
  exact Tbl.get_put 0 m a x b

/-- A byte after a write: a byte written, or the byte before. -/
theorem Memory.byte_write (m : Memory) (a : Nat) (bs : List Byte) (x : Nat) :
    (m.write a bs).byte x = if h : a ≤ x ∧ x < a + bs.length then bs[x - a] else m.byte x := by
  induction bs generalizing m a with
  | nil => simp [Memory.write]
  | cons b t ih =>
    rw [Memory.write, ih]
    by_cases h1 : a + 1 ≤ x ∧ x < a + 1 + t.length
    · have h2 : a ≤ x ∧ x < a + (b :: t).length := by simp; omega
      rw [dif_pos h1, dif_pos h2]
      obtain ⟨k, rfl⟩ : ∃ k, x = a + 1 + k := ⟨x - (a + 1), by omega⟩
      have e1 : a + 1 + k - (a + 1) = k := by omega
      have e2 : a + 1 + k - a = k + 1 := by omega
      simp [e1, e2]
    · rw [dif_neg h1, Memory.byte_put]
      by_cases h2 : x = a
      · subst h2; simp
      · rw [if_neg h2, dif_neg (by simp; omega)]

/-- A byte outside a write stays. -/
theorem Memory.byte_write_out (m : Memory) (a : Nat) (bs : List Byte) (x : Nat) (h : x < a ∨ a + bs.length ≤ x) :
    (m.write a bs).byte x = m.byte x := by
  rw [Memory.byte_write, dif_neg (by omega)]

/-- Every write keeps the canonical form. -/
theorem Memory.wf_write (m : Memory) (a : Nat) (bs : List Byte) (h : m.wf = true) : (m.write a bs).wf = true := by
  induction bs generalizing m a with
  | nil => exact h
  | cons b t ih => exact ih _ _ (Tbl.wf_put 0 m a b h)

theorem Memory.length_read (m : Memory) (a n : Nat) : (m.read a n).length = n := by
  induction n generalizing a with
  | zero => rfl
  | succ n ih => simp [Memory.read, ih]

/-- A range that no byte of a write reaches reads as before. -/
theorem Memory.read_write_out (m : Memory) (a : Nat) (bs : List Byte) (x n : Nat)
    (h : x + n ≤ a ∨ a + bs.length ≤ x) : (m.write a bs).read x n = m.read x n := by
  induction n generalizing x with
  | zero => rfl
  | succ n ih =>
    simp only [Memory.read]
    rw [Memory.byte_write_out m a bs x (by omega), ih (x + 1) (by omega)]

/-- The bytes just written read back. -/
theorem Memory.read_write (m : Memory) (a : Nat) (bs : List Byte) : (m.write a bs).read a bs.length = bs := by
  induction bs generalizing m a with
  | nil => rfl
  | cons b t ih =>
    simp only [Memory.write, List.length_cons, Memory.read]
    rw [ih, Memory.byte_write_out _ _ _ _ (by omega), Memory.byte_put, if_pos rfl]

@[simp] theorem leBytes_length (n v : Nat) : (leBytes n v).length = n := by
  induction n generalizing v with
  | zero => rfl
  | succ n ih => simp [leBytes, ih]

/-- A number comes back from its bytes. -/
theorem leNat_leBytes (n v : Nat) : leNat (leBytes n v) = v % 256 ^ n := by
  induction n generalizing v with
  | zero => simp [leBytes, leNat, Nat.mod_one]
  | succ n ih =>
    simp only [leBytes, leNat, ih, BitVec.toNat_ofNat]
    have h : v % 256 ^ (n + 1) = v % 256 + 256 * (v / 256 % 256 ^ n) := by
      rw [pow_succ, Nat.mul_comm]
      exact Nat.mod_mul
    rw [h]

/-- A number stored reads back. -/
theorem Memory.num_write (m : Memory) (a n v : Nat) : (m.write a (leBytes n v)).num a n = v % 256 ^ n := by
  have := Memory.read_write m a (leBytes n v)
  rw [leBytes_length] at this
  rw [Memory.num, this, leNat_leBytes]

/-- A number that a write does not reach stays. -/
theorem Memory.num_write_out (m : Memory) (a : Nat) (bs : List Byte) (x n : Nat)
    (h : x + n ≤ a ∨ a + bs.length ≤ x) : (m.write a bs).num x n = m.num x n := by
  rw [Memory.num, Memory.read_write_out m a bs x n h, Memory.num]

/-- What a store does to the scratchpad's bytes. -/
theorem Spad.bytes_store (m : Spad) (a : Nat) (bs : List Byte) : (m.store a bs).bytes = m.bytes.write a bs := by
  unfold Spad.store
  cases bs with
  | nil => rfl
  | cons b t => rfl

/-- What a write in T does to the bytes of device memory. -/
theorem Dram.bytes_write (d : Dram) (pts pa : Nat) (bs : List Byte) (rel : Know) (chain : Bool) :
    (d.write pts pa bs rel chain).1.bytes = d.bytes.write pa bs := rfl

/-- A load served at home changes no byte. -/
theorem Dram.bytes_homeLoad (d : Dram) (pts lease pa : Nat) : (d.homeLoad pts lease pa).1.bytes = d.bytes := rfl

end Sys2Proof.Machine
end

