-- ==== Sys2Proof/Laws/Operands.lean ====
section
/-! SUPPORT. The values that a word takes from its operands (02 R36, R37). -/
namespace Sys2Proof.Machine

/-- Channels into one sequencer from two others differ. -/
theorem chanIx_inj (y z w : Sq) (h : chanIx z y = chanIx w y) : z = w := by
  revert h; cases y <;> cases z <;> cases w <;> decide

@[simp] theorem Ctx.chan_setSeq (c : Ctx) (y : Sq) (q : Seqr) (k : ChanKind) (ch : Nat) :
    (c.setSeq y q).chan k ch = c.chan k ch := by cases k <;> rfl

@[simp] theorem Ctx.chan_setChan (c : Ctx) (k : ChanKind) (ch : Nat) (v : Chan) : (c.setChan k ch v).chan k ch = v := by
  cases k <;> exact Tbl.get_put_same _ _ _ _

theorem Ctx.chan_setChan_ne (c : Ctx) (k j : ChanKind) (ch n : Nat) (v : Chan) (h : j ≠ k ∨ n ≠ ch) :
    (c.setChan k ch v).chan j n = c.chan j n := by
  cases k <;> cases j <;> first
    | rfl
    | (rcases h with h | h
       · exact absurd rfl h
       · exact Tbl.get_put_ne _ _ _ _ _ h)

/-- What the sources of a word have become after some of them are read: their words so far, the entries left in each
data queue into `y`, and the registers. -/
structure SourceInv (c : Ctx) (y : Sq) (pre : List Spec) (t : Taken) : Prop where
  seq : ∃ p r k, t.ctx.seq.get y = { c.seq.get y with pts := p, retPts := r, know := k }
  left : ∀ z, (t.ctx.chan .data (chanIx z y)).avail =
    (c.chan .data (chanIx z y)).avail.drop (pre.countP fun f => Spec.queue f == some z)

theorem peek_same (q : Seqr) (p r : Nat) (k : Know) (f : Spec) :
    ({ q with pts := p, retPts := r, know := k } : Seqr).peek f = q.peek f := by cases f <;> rfl

/-- The word of a source in terms of the context before any source was read. -/
def sourceWord (c : Ctx) (y : Sq) (pre : List Spec) : Spec → Word
  | .q z => ((c.chan .data (chanIx z y)).avail.getD (pre.countP fun f => Spec.queue f == some z) ⟨0, ⟨0, []⟩, 0⟩).v
  | .s n => (c.seq.get y).reg n.toNat
  | .li n => (c.seq.get y).li n.toNat

theorem SourceInv.step {c : Ctx} {y : Sq} {pre : List Spec} {t : Taken} (h : SourceInv c y pre t) (f : Spec) :
    SourceInv c y (pre ++ [f]) (Taken.source y t f) ∧
      (Taken.source y t f).words = t.words ++ [sourceWord c y pre f] := by
  obtain ⟨⟨p, r, k, hs⟩, hl⟩ := h
  cases f with
  | s n =>
    refine ⟨⟨⟨p, r, k, hs⟩, fun z => ?_⟩, ?_⟩
    · rw [show (Taken.source y t (.s n)).ctx = t.ctx from rfl, hl z]; simp [Spec.queue]
    · show t.words ++ [(t.ctx.seq.get y).peek (.s n)] = _
      rw [hs, peek_same]; rfl
  | li n =>
    refine ⟨⟨⟨p, r, k, hs⟩, fun z => ?_⟩, ?_⟩
    · rw [show (Taken.source y t (.li n)).ctx = t.ctx from rfl, hl z]; simp [Spec.queue]
    · show t.words ++ [(t.ctx.seq.get y).peek (.li n)] = _
      rw [hs, peek_same]; rfl
  | q w =>
    have hw := hl w
    cases ha : (t.ctx.chan .data (chanIx w y)).avail with
    | nil =>
      have hp : t.pop y .data (chanIx w y) = (t, 0) := by unfold Taken.pop; dsimp only; rw [ha]
      have he : Taken.source y t (.q w) = { t with words := t.words ++ [0] } := by
        show { (t.pop y .data (chanIx w y)).1 with
          words := (t.pop y .data (chanIx w y)).1.words ++ [(t.pop y .data (chanIx w y)).2] } = _
        rw [hp]
      rw [ha] at hw
      have hlen := List.drop_eq_nil_iff.mp hw.symm
      rw [he]
      refine ⟨⟨⟨p, r, k, hs⟩, fun z => ?_⟩, ?_⟩
      · show (t.ctx.chan .data (chanIx z y)).avail = _
        rw [hl z, List.countP_append]
        by_cases hz : z = w
        · subst hz
          rw [List.drop_eq_nil_of_le hlen, List.drop_eq_nil_of_le (by omega)]
        · have : List.countP (fun f => Spec.queue f == some z) [Spec.q w] = 0 := by
            simp [Spec.queue, Ne.symm hz]
          rw [this]; rfl
      · show t.words ++ [0] = t.words ++ [_]
        have : sourceWord c y pre (.q w) = 0 := by
          show ((c.chan .data (chanIx w y)).avail.getD _ _).v = 0
          rw [List.getD_eq_default _ _ hlen]
        rw [this]
    | cons e l =>
      have hp : t.pop y .data (chanIx w y) =
          ({ t with
              ctx := (t.ctx.setChan .data (chanIx w y) (t.ctx.chan .data (chanIx w y)).pop).setSeq y
                ((t.ctx.seq.get y).receive e.carry)
              pops := t.pops ++ [.chan .data (chanIx w y) e] }, e.v) := by
        unfold Taken.pop; dsimp only; rw [ha]
      have he : Taken.source y t (.q w) =
          { t with
              ctx := (t.ctx.setChan .data (chanIx w y) (t.ctx.chan .data (chanIx w y)).pop).setSeq y
                ((t.ctx.seq.get y).receive e.carry)
              pops := t.pops ++ [.chan .data (chanIx w y) e]
              words := t.words ++ [e.v] } := by
        show { (t.pop y .data (chanIx w y)).1 with
          words := (t.pop y .data (chanIx w y)).1.words ++ [(t.pop y .data (chanIx w y)).2] } = _
        rw [hp]
      rw [ha] at hw
      rw [he]
      refine ⟨⟨⟨max p e.carry.pts, max r e.carry.pts, k.union e.carry.know, ?_⟩, fun z => ?_⟩, ?_⟩
      · rw [Ctx.setSeq_get, hs]; rfl
      · show (((t.ctx.setChan .data (chanIx w y) _).setSeq y _).chan .data (chanIx z y)).avail = _
        rw [Ctx.chan_setSeq, List.countP_append]
        by_cases hz : z = w
        · subst hz
          have hone : List.countP (fun f => Spec.queue f == some z) [Spec.q z] = 1 := by simp [Spec.queue]
          rw [Ctx.chan_setChan, hone, ← List.drop_drop, ← hl z]
          show (t.ctx.chan .data (chanIx z y)).avail.tail = _
          rw [List.drop_one]
        · have : List.countP (fun f => Spec.queue f == some z) [Spec.q w] = 0 := by
            simp [Spec.queue, Ne.symm hz]
          rw [this, Ctx.chan_setChan_ne _ _ _ _ _ _ (Or.inr fun h => hz (chanIx_inj y z w h))]
          exact hl z
      · show t.words ++ [e.v] = t.words ++ [_]
        have : sourceWord c y pre (.q w) = e.v := by
          show ((c.chan .data (chanIx w y)).avail.getD _ _).v = e.v
          have h0 : (e :: l).getD 0 (⟨0, ⟨0, []⟩, 0⟩ : Entry) = e := rfl
          rw [hw] at h0
          rw [List.getD_eq_getElem?_getD, List.getElem?_drop] at h0
          rw [List.getD_eq_getElem?_getD, ← h0]
          simp
        rw [this]

theorem sources_words (c : Ctx) (y : Sq) (l pre : List Spec) (t : Taken) (h : SourceInv c y pre t) :
    SourceInv c y (pre ++ l) (l.foldl (Taken.source y) t) ∧
      ∃ ws, (l.foldl (Taken.source y) t).words = t.words ++ ws ∧ ws.length = l.length ∧
        ∀ n, n < l.length → ws.getD n 0 = sourceWord c y (pre ++ l.take n) (l.getD n (.s 0)) := by
  induction l generalizing pre t with
  | nil => exact ⟨by simpa using h, [], by simp, rfl, fun n hn => absurd hn (by simp)⟩
  | cons f l ih =>
    obtain ⟨h1, h2⟩ := h.step f
    obtain ⟨i1, ws, i2, i3, i4⟩ := ih (pre ++ [f]) _ h1
    refine ⟨by simpa using i1, sourceWord c y pre f :: ws, ?_, by simp [i3], ?_⟩
    · rw [List.foldl_cons, i2, h2]; simp
    · intro n hn
      cases n with
      | zero => simp
      | succ n =>
        have := i4 n (by simpa using hn)
        simpa using this

/-- What tokens leave of the data queues and the registers. -/
theorem tokens_inv (c : Ctx) (y : Sq) (g : Sq → Bool) (l : List Sq) (t : Taken) (h : SourceInv c y [] t) :
    SourceInv c y [] (l.foldl (fun t z => if g z then (t.pop y .tok (chanIx z y)).1 else t) t) ∧
      (l.foldl (fun t z => if g z then (t.pop y .tok (chanIx z y)).1 else t) t).words = t.words := by
  induction l generalizing t with
  | nil => exact ⟨h, rfl⟩
  | cons z l ih =>
    rw [List.foldl_cons]
    have key : ∀ u : Taken, u = (if g z then (t.pop y .tok (chanIx z y)).1 else t) →
        SourceInv c y [] u ∧ u.words = t.words := by
      intro u hu
      split at hu
      · subst hu
        unfold Taken.pop
        dsimp only
        split
        · exact ⟨h, rfl⟩
        · obtain ⟨⟨p, r, k, hs⟩, hl⟩ := h
          rename_i e _ _
          refine ⟨⟨⟨max p e.carry.pts, max r e.carry.pts, k.union e.carry.know, ?_⟩, fun w => ?_⟩, rfl⟩
          · rw [Ctx.setSeq_get, hs]; rfl
          · rw [Ctx.chan_setSeq, Ctx.chan_setChan_ne _ _ _ _ _ _ (Or.inl (by decide))]
            exact hl w
      · subst hu; exact ⟨h, rfl⟩
    obtain ⟨k1, k2⟩ := key _ rfl
    obtain ⟨i1, i2⟩ := ih _ k1
    exact ⟨i1, i2.trans k2⟩

theorem line_words (y : Sq) (t : Taken) (n : Nat) : (Taken.line y t n).words = t.words := by
  unfold Taken.line; dsimp only; split <;> rfl

theorem lines_words (y : Sq) (l : List Nat) (t : Taken) : (l.foldl (Taken.line y) t).words = t.words := by
  induction l generalizing t with
  | nil => rfl
  | cons n l ih => rw [List.foldl_cons, ih, line_words]

/-- The words taken are those of the sources in order, then the one outcome popped. -/
theorem take_words_all (r : Req) (s : State) (hb : r.boSrc = none) :
    ∃ ws, (r.take s.me s.who.y).words = ws ∧ ws.length = r.srcs.length ∧
      ∀ n, n < r.srcs.length → ws.getD n 0 = operand s r.srcs n := by
  unfold Req.take
  dsimp only
  rw [lines_words, hb]
  dsimp only
  have h0 : SourceInv s.me s.who.y [] ⟨s.me, [], [], []⟩ := ⟨⟨_, _, _, rfl⟩, fun z => by simp⟩
  obtain ⟨h1, h2⟩ := tokens_inv s.me s.who.y (fun z => r.cm.tw.getLsbD z.num) Sq.order _ h0
  have h3 : ∀ t : Taken, SourceInv s.me s.who.y [] t → t.words = [] → ∀ u : Taken,
      u = (if r.cm.ew = 0 then t else
        { t with
          ctx := t.ctx.setSeq s.who.y
            ((t.ctx.seq.get s.who.y).receive (s.me.eventCarry r.cm.ew.toNat)) }) →
      SourceInv s.me s.who.y [] u ∧ u.words = [] := by
    intro t ht hw u hu
    split at hu
    · subst hu; exact ⟨ht, hw⟩
    · subst hu
      obtain ⟨⟨p, q, k, hs⟩, hl⟩ := ht
      refine ⟨⟨⟨max p (s.me.eventCarry r.cm.ew.toNat).pts, max q (s.me.eventCarry r.cm.ew.toNat).pts,
        k.union (s.me.eventCarry r.cm.ew.toNat).know, ?_⟩, fun z => ?_⟩, hw⟩
      · rw [Ctx.setSeq_get, hs]; rfl
      · rw [Ctx.chan_setSeq]; exact hl z
  obtain ⟨k1, k2⟩ := h3 _ h1 h2 _ rfl
  obtain ⟨_, ws, i2, i3, i4⟩ := sources_words s.me s.who.y r.srcs [] _ k1
  refine ⟨ws, by rw [i2, k2, List.nil_append], i3, fun n hn => ?_⟩
  rw [i4 n hn, List.nil_append]
  unfold operand sourceWord
  cases r.srcs.getD n (.s 0) <;> rfl

/-- The scalar operands of a word are its operands as R36 and R37 give them. -/
theorem take_words (r : Req) (s : State) (hb : r.boSrc = none) (n : Nat) (hn : n < r.srcs.length) :
    (r.take s.me s.who.y).words.getD n 0 = operand s r.srcs n := by
  obtain ⟨ws, h1, _, h3⟩ := take_words_all r s hb
  rw [h1, h3 n hn]

end Sys2Proof.Machine
end

