-- ==== Sys2Proof/Tests/Slice0.lean ====
section
/-! SUPPORT. Tests of one step each, ill-formed terms, decoded words of the spec, and for every statement of
Certificates/Slice0/Obligations.lean a state and operands that meet its hypotheses. -/
open Sys2Proof Sys2Proof.Machine
namespace Sys2Proof.Tests
set_option Elab.async false

/-! ### Helpers -/

/-- Common fields that name nothing. -/
abbrev cm0 : Common := ⟨0, 0, 0, 0⟩

/-- A context with the whole scratchpad allocated. -/
def full : Ctx := { Ctx.fresh with regions := [⟨0, 64, 0⟩], borrow := true }

/-- A context with registers of one sequencer set. -/
def regs (y : Sq) (l : Tbl Word) (c : Ctx) : Ctx := c.setSeq y { c.seq.get y with s := l }

/-- Translations of a core's first 4 GiB to themselves, for guest 0, all accesses permitted. -/
def mapped : Tbl CoreSt :=
  [(0, ⟨0, 0, [⟨0, 0, 2 ^ 32, 0, 0, ⟨true, true, true, true⟩, ⟨true, true, true, true⟩⟩], []⟩)]

/-- The same for the walker of Bazaar. -/
def bazaar : Tbl CoreSt := mapped.map fun e => (68, e.2)

/-- A context at core 0, slot 0, whose sequencer `y` executes. -/
def run (y : Sq) (c : Ctx) : State := { State.reset.setCtx 0 0 c with who := ⟨0, 0, y⟩, cores := mapped }

/-! ### Ill-formed terms: each is refused by one check, and its neighbour at the bound is not -/

/-- 02 R36: a loop index is no destination, in any row with a scalar destination; BFI's is a register. -/
theorem test_illformed_destinations : ∀ i ∈ ([.add cm0 (.li 0) (.s 1) (.s 2), .addi cm0 (.li 7) (.s 1) 0, .li cm0 (.li 0) 0,
    .sel cm0 (.li 0) (.s 1) (.s 2) 0 false, .clz cm0 (.li 0) (.s 1), .mfs cm0 (.li 0) 0, .ld cm0 (.li 0) (.s 1) 0 false 0,
    .racq cm0 (.li 0) 0, .pcnt cm0 (.li 0) 0 0 false, .fork cm0 (.li 0) 0 (.s 1), .budget cm0 (.li 0) (.s 1) 0,
    .bfi cm0 (.q .x) (.s 1) 0 0, .bfi cm0 (.li 0) (.s 1) 0 0] : List Instr), i.wellFormed = false := by decide

/-- 04 R71: a field ends at bit 63. -/
theorem test_illformed_fields : (Instr.bfx cm0 (.s 1) (.s 2) 1 63 false).wellFormed = false ∧
    (Instr.bfx cm0 (.s 1) (.s 2) 1 62 false).wellFormed = true ∧
    (Instr.bfi cm0 (.s 1) (.s 2) 63 1).wellFormed = false ∧ (Instr.bfi cm0 (.s 1) (.s 2) 63 0).wellFormed = true := by decide

/-- 04 R80, 05 R94, R95, R98, 06 R130: an empty loop body, QDISC of nothing, a channel above 11, a wait for no event, a
sign-extended 8-byte load. -/
theorem test_illformed_scalar : (Instr.loop cm0 0 (.s 1) 0).wellFormed = false ∧ (Instr.qdisc cm0 0 1).wellFormed = false ∧
    (Instr.qdisc cm0 1 0).wellFormed = false ∧ (Instr.qstat cm0 (.s 1) 12).wellFormed = false ∧
    (Instr.qstat cm0 (.s 1) 11).wellFormed = true ∧ (Instr.evwaitm cm0 (.s 1) 0 true).wellFormed = false ∧
    (Instr.lds cm0 (.s 1) (.s 2) 3 true 0).wellFormed = false ∧ (Instr.ld cm0 (.s 1) (.s 2) 3 true 0).wellFormed = false ∧
    (Instr.ld cm0 (.s 1) (.s 2) 2 true 0).wellFormed = true := by decide

/-- 06 R131, R138, 09 R230, 10 R248: tags above 16, and tiles beyond 63. -/
theorem test_illformed_tiles : (Instr.vldAddress cm0 ⟨0, .row, 0⟩ (.s 1) 17 0).wellFormed = false ∧
    (Instr.vldGenerator cm0 ⟨0, .row, 0⟩ 0 17).wellFormed = false ∧ (Instr.ztag cm0 0 17).wellFormed = false ∧
    (Instr.ztag cm0 0 16).wellFormed = true ∧ (Instr.vbcastScalar cm0 (.tile ⟨0, .row, 0⟩) (.s 1) 17 0).wellFormed = false ∧
    (Instr.zzero cm0 63 1).wellFormed = false ∧ (Instr.zzero cm0 63 0).wellFormed = true := by decide

/-- 07 R171, R173, R175, R176: FP32 operations of another width, RED of a swap, FENCE of nothing, a fixed scope set. -/
theorem test_illformed_memory : (Instr.amo cm0 (.s 1) (.s 2) (.s 3) 0 .fadd 3).wellFormed = false ∧
    (Instr.amo cm0 (.s 1) (.s 2) (.s 3) 0 .fadd 2).wellFormed = true ∧
    (Instr.red cm0 (.s 2) (.s 3) 0 .swap 2).wellFormed = false ∧ (Instr.red cm0 (.s 2) (.s 3) 0 .fmin 0).wellFormed = false ∧
    (Instr.fence cm0 0 0).wellFormed = false ∧ (Instr.scset cm0 3 (.s 1) (.s 2)).wellFormed = false ∧
    (Instr.scset cm0 4 (.s 1) (.s 2)).wellFormed = true := by decide

/-- 09 R224, R226 to R229: formats that a conversion does not take. -/
theorem test_illformed_conversions :
    let z : TileLine := ⟨0, .row, 0⟩
    (Instr.cvt cm0 z z 0 0 false 0).wellFormed = false ∧ (Instr.cvt cm0 z z 11 0 false 0).wellFormed = false ∧
    (Instr.cvt cm0 z z 10 0 false 0).wellFormed = true ∧ (Instr.qmx cm0 z z 0 0 0 false).wellFormed = false ∧
    (Instr.qmx cm0 z z 1 5 0 false).wellFormed = false ∧ (Instr.dqmx cm0 z z (.s 1) 3 0 0).wellFormed = false ∧
    (Instr.unpack cm0 z z 4 false 0).wellFormed = false ∧ (Instr.unpack cm0 z z 6 false 0).wellFormed = true := by decide

/-- 10 R237, R245, R253: a generator destination under a predicate, and a comparison or PLOP into p0. -/
theorem test_illformed_vector :
    let z : Line := .tile ⟨0, .row, 0⟩
    (Instr.vfadd cm0 (.gen 0) z z 1).wellFormed = false ∧ (Instr.vfadd cm0 (.gen 0) z z 0).wellFormed = true ∧
    (Instr.vmov cm0 (.gen 0) z 7).wellFormed = false ∧ (Instr.vfcmp cm0 0 0 z z 0).wellFormed = false ∧
    (Instr.vicmp cm0 0 0 z z 0).wellFormed = false ∧ (Instr.plopLogical cm0 0 1 2 6).wellFormed = false ∧
    (Instr.plopFirst cm0 0 (.s 1)).wellFormed = false := by decide

/-- 11 R262 to R264, R270 to R272, R280: shapes, accumulators off their quads, tile pairs and blocks beyond the last,
an MSTAT item above 2. -/
theorem test_illformed_matrix : (Instr.mshape cm0 0x80).wellFormed = false ∧ (Instr.mshape cm0 0x05000000).wellFormed = false ∧
    (Instr.mshape cm0 0x12010000).wellFormed = true ∧ (Instr.mma cm0 2 0 1 (.s 0) false).wellFormed = false ∧
    (Instr.mzero cm0 1 (.s 0)).wellFormed = false ∧ (Instr.mplane cm0 0 0 (.s 0) 5 0).wellFormed = false ∧
    (Instr.mplane cm0 63 0 (.s 0) 0 0).wellFormed = false ∧ (Instr.mplane cm0 0 0 (.s 0) 3 4).wellFormed = false ∧
    (Instr.mplane cm0 0 0 (.s 0) 3 3).wellFormed = true ∧ (Instr.mspack cm0 0 0 (.s 0) 4 2).wellFormed = false ∧
    (Instr.mstat cm0 (.s 1) 3).wellFormed = false := by decide

/-- 12 R306, 13 R329, 14 R353: SLEEP for nothing, a PWRQ item of 3, a DISCARD of kind 3 or of everything with operands. -/
theorem test_illformed_system : (Instr.sleep cm0 (.s 1) 0 false).wellFormed = false ∧
    (Instr.sleep cm0 (.s 1) 0 true).wellFormed = true ∧ (Instr.pwrq cm0 (.s 1) 3).wellFormed = false ∧
    (Instr.discard cm0 (.s 0) (.s 0) 3).wellFormed = false ∧ (Instr.discard cm0 (.s 1) (.s 0) 2).wellFormed = false ∧
    (Instr.discard cm0 (.s 0) (.s 0) 2).wellFormed = true := by decide

/-! ### Words written out in the spec -/

/-- 04 to 06: the worked encodings of the scalar, coupling and scratchpad families. -/
theorem test_decode_scalar :
    decode 0x2080010C41400000 0 = .ok (.add ⟨2, 0, 8, 0⟩ (.s 3) (.s 4) (.s 5)) ∧
    decode 0x0000168A40000001 0 = .ok (.addi cm0 (.q .x) (.li 0) 1) ∧
    decode 0x000025042300000A 0 = .ok (.cmpi cm0 1 (.s 2) 3 10) ∧
    decode 0x00402F0010000010 0 = .ok (.mts ⟨0, 0, 4, 0⟩ 0x10 (.s 1)) ∧
    decode 0x0000452000000001 0 = .ok (.bopush cm0 .x 1 false) ∧
    decode 0x0100402000000001 0 = .ok (.qdisc ⟨0, 1, 0, 0⟩ 2 1) ∧
    decode 0x0000542180000000 0 = .ok (.gset cm0 2 (.s 6)) := by decide +kernel

/-- 07, 08: memory and the copy engine. -/
theorem test_decode_memory :
    decode 0x000060106C000010 0 = .ok (.ld cm0 (.s 4) (.s 6) 3 false 16) ∧
    decode 0x0000641472081C00 0 = .ok (.amo cm0 (.s 5) (.s 7) (.s 8) 2 .add 3) ∧
    decode 0x0000610C2C000000 0 = .ok (.st cm0 (.s 3) (.s 2) 3 0) ∧
    decode 0x0000700105000000 0 = .ok (.cpush cm0 (.s 5) false (.s 4)) ∧
    decode 0x0000710007000000 0 = .ok (.cpop cm0 (.s 7) false) := by decide +kernel

/-- 09 to 11: conversions, vectors, matrices. -/
theorem test_decode_vector :
    decode 0x2004800A2B000E94 0 = .ok (.vfadd ⟨2, 0, 0, 4⟩ (.tile ⟨5, .row, 2⟩) (.gen 3) (.tile ⟨7, .col, 1⟩) 2) ∧
    decode 0x0000B00000000000 0x0000000012010000 = .ok (.mshape cm0 0x12010000) := by decide +kernel

/-- 12 to 15: Bazaar, power, traps, scheduler cores. -/
theorem test_decode_system :
    decode 0x0000C80187000008 0 = .ok (.garrive cm0 (.s 6) (.s 8) (.s 7)) ∧
    decode 0x0000D0000300000D 0 = .ok (.pwracq cm0 (.s 3) 13 false) ∧
    decode 0x0000D10000000004 0 = .ok (.pwrrel cm0 4) ∧
    decode 0x0000E00000000012 0 = .ok (.trap cm0 (.s 0) 0x12) ∧ decode 0x0000E30000000000 0 = .ok (.tret cm0) ∧
    decodeFw 0x0002850B = some (.rfetch 10 5) ∧ decodeFw 0x01C51F2B = some (.qsave 30 10 28) ∧
    decodeFw 0x01C52F2B = some (.qload 30 10 28) ∧ decodeFw 0x00B53F2B = some (.qbind 30 10 11) := by decide +kernel

/-- 02 R34, R35, Table 2.18: an opcode of no row, and a reserved bit of ADD set. -/
theorem test_decode_refuses :
    decode 0x0000FF0000000000 0 = .error .opc ∧ decode 0x0000010000000001 0 = .error .enc := by decide +kernel
/-! ### Hypotheses of the statements: scalar core -/

theorem hyps_ScalarOperands :
    (let s := run .c (regs .c [(4, 5), (5, 0x7FFFFFFFFFFFFFFF)] full)
     Ready (scalarReq (.div cm0 (.s 3) (.s 4) (.s 5)) 6 cm0 [.s 4, .s 5] (some (.s 3))) s ∧
     s.sq.inflight.all (fun p => decide (p.opc < 6 ∨ 9 < p.opc)) = true ∧
     Ready (scalarReq (.add cm0 (.q .x) (.s 4) (.s 0)) 1 cm0 [.s 4, .s 0] (some (.q .x))) s ∧
     Ready (scalarReq (.srai cm0 (.s 0) (.s 5) 63) 0x1C cm0 [.s 5] (some (.s 0))) s ∧
     Ready (scalarReq (.bfx cm0 (.s 3) (.li 0) 0 63 true) 0x1F cm0 [.li 0] (some (.s 3))) s) ∧
    (∃ f, twoOperand (.div cm0 (.s 3) (.s 4) (.s 5)) = some (6, cm0, .s 3, .s 4, .s 5, f)) ∧
    (∃ f, twoOperand (.add cm0 (.q .x) (.s 4) (.s 0)) = some (1, cm0, .q .x, .s 4, .s 0, f)) ∧
    (∃ f, oneOperand (.srai cm0 (.s 0) (.s 5) 63) = some (0x1C, cm0, .s 0, .s 5, f)) ∧
    ∃ f, oneOperand (.bfx cm0 (.s 3) (.li 0) 0 63 true) = some (0x1F, cm0, .s 3, .li 0, f) :=
  ⟨by decide +kernel, ⟨_, rfl⟩, ⟨_, rfl⟩, ⟨_, rfl⟩, ⟨_, rfl⟩⟩

theorem hyps_ConditionsAndSelection :
    let s := run .c full
    Ready { scalarReq (.cmp cm0 7 (.s 1) (.s 2) 5) 0x24 cm0 [.s 1, .s 2] none with writes := condLocs 7 } s ∧
    Ready { scalarReq (.cmpi cm0 0 (.s 1) 0 0x800000) 0x25 cm0 [.s 1] none with writes := condLocs 0 } s ∧
    Ready { scalarReq (.kop cm0 1 2 3 8) 0x26 cm0 [] none with
            reads := condLocs 2 ++ condLocs 3, writes := condLocs 1 } s ∧
    Ready { scalarReq (.sel cm0 (.s 0) (.s 1) (.li 7) 7 true) 0x27 cm0 [.s 1, .li 7] (some (.s 0)) with
            reads := condLocs 7 } s ∧
    Ready { scalarReq (.li cm0 (.s 31) 0xFFFFFFFFFFFFFFFF) 0x1E cm0 [] (some (.s 31)) with long := true } s ∧
    Ready (scalarReq (.bfi cm0 (.s 31) (.s 1) 63 0) 0x20 cm0 [.s 1] (some (.s 31))) s := by decide +kernel

/-- A context whose C has a prepared target, an active loop, and an outcome queued from L. -/
def flowing : Ctx :=
  { full.setSeq .c { full.seq.c with b := [(3, ⟨64, true⟩)], loops := [(2, ⟨true, 8, 40, 3, 0⟩)], k := 2 } with
    bos := [(chanIx .l .c, ⟨[⟨1, ⟨0, []⟩, 0⟩], 0, 0, 0⟩)] }

theorem hyps_FlowOfControl :
    (let s := run .c flowing
     Ready { scalarReq (.pbr cm0 7 0x1FFFFFFFF) 0x28 cm0 [] none with writes := [.b 7] } s ∧
     Ready { scalarReq (.pbrr cm0 0 (.s 1)) 0x29 cm0 [.s 1] none with writes := [.b 0] } s ∧
     Ready { scalarReq (.br cm0 3 1 false) 0x2A cm0 [] none with
             check := s.sq.targetCheck 3, reads := .b 3 :: condLocs 1 } s ∧
     Ready { scalarReq (.call cm0 3 0 true) 0x2B cm0 [] none with
             check := s.sq.targetCheck 3, reads := .b 3 :: condLocs 0, writes := [.b 7] } s ∧
     Ready { scalarReq (.bopush cm0 .x 1 false) 0x45 cm0 [] none with
             self := Sq.x == Sq.c, reads := condLocs 1, bo := some (chanIx .c .x)
             wait := if 16 ≤ (s.me.chan .bo (chanIx .c .x)).occupancy then some ⟨4, Sq.x.num⟩ else none } s ∧
     Ready { scalarReq (.brq cm0 3 .l false) 0x46 cm0 [] none with
             self := Sq.l == Sq.c, check := s.sq.targetCheck 3, reads := [.b 3], boSrc := some (chanIx .l .c)
             wait := if (s.me.chan .bo (chanIx .l .c)).avail.isEmpty then some ⟨4, Sq.l.num⟩ else none } s ∧
     Ready { scalarReq (.loop cm0 7 (.s 4) 1) 0x2C cm0 [.s 4] none with
             check := s.sq.loopCheck 7 (loopEnd s.sq.pc 1) } s ∧
     Ready { scalarReq (.endl cm0 2 0 false) 0x2D cm0 [] none with
             reads := condLocs 0
             check := if (s.sq.level 2).active then none else some (Trap.plain .badTarget) } s) ∧
    (let q := flowing.seq.c
     (∀ n ∈ List.range 8, (q.level n).active = true → (q.level n).stop ≠ 48) ∧
     (q.level 2).active = true ∧ (q.level 2).stop = 40 ∧
     (∀ m ∈ List.range 8, 2 < m → (q.level m).active = true → (q.level m).stop ≠ 40) ∧
     (q.level 2).li.toNat + 1 < (q.level 2).trip.toNat) ∧
    let q := { flowing.seq.c with loops := [(2, ⟨true, 8, 40, 1, 0⟩)] }
    (q.level 2).active = true ∧ (q.level 2).trip.toNat ≤ (q.level 2).li.toNat + 1 := by decide +kernel

theorem hyps_SpecialRegisters :
    let s := run .c full
    (let r := { scalarReq (.mfs cm0 (.s 1) 0) 0x2E cm0 [] (some (.s 1)) with
                reads := srReads 0, hold := decide ((0 : BitVec 9) = 0x101) && !s.sq.inflight.isEmpty }
     Ready r s ∧ (r.taken s).me.readSr s.who.core s.who.slot (s.core s.who.core).cycle s.who.y 0 ≠ none ∧
     s.me.readSr s.who.core s.who.slot (s.core s.who.core).cycle s.who.y 0 ≠ none) ∧
    Ready { scalarReq (.mts cm0 0x10 (.s 1)) 0x2F cm0 [.s 1] none with
            priv := srHandlerOnly 0x10 && !s.me.handler, writes := [.sr 0x10] } s ∧ srWritable 0x10 = true ∧
    Ready (scalarReq (.nop cm0) 0x30 cm0 [] none) s ∧
    Ready (scalarReq (.endSeq cm0) 0x31 cm0 [] none) s ∧
    Ready (scalarReq (.wdog cm0 (.s 1) 0) 0x4D cm0 [] (some (.s 1))) s := by decide +kernel

/-- An instruction in flight at C, alone, that does `e` at its retire. -/
def flight (e : List Effect) : Pending :=
  ⟨1, 0, 0, 0, [], [], e, .open_, ⟨0, []⟩, [], [], false, 0, []⟩

theorem hyps_IssueOfAWord :
    let t : Taken := ⟨{ full with data := [(chanIx .l .c, ⟨[⟨9, ⟨4, []⟩, 0⟩], 0, 0, 0⟩)] }, [], [], []⟩
    (t.ctx.chan .data (chanIx .l .c)).avail = ⟨9, ⟨4, []⟩, 0⟩ :: [] := by decide +kernel

theorem hyps_InstructionRetire :
    let s := run .c (full.setSeq .c { full.seq.c with inflight := [flight [.s 31 7]] })
    ((s.ctx 0 0).seq.get .c).inflight = flight [.s 31 7] :: [] ∧ (s.ctx 0 0).bound = true ∧ s.clocksRun = true ∧
      (flight [.s 31 7]).gate = .open_ ∧ (s.ctx 0 0).mayAct .c (s.core 0).cycle = true ∧
      (flight [.s 31 7]).lowers = false := by decide +kernel

theorem hyps_RetiredEffects : ∀ e ∈ ([.s 31 1, .k 7 true, .b 7 ⟨8, true⟩, .event 0x8000 true, .event 2 false,
    .tag 63 16, .zzero 0 64, .p 7 1, .p 0 1, .sr 0x10 7, .sr 8 0x3FF, .sr 8 0x400, .budget 0 (.s 0), .endSeq,
    .spad 0 [1], .power .c 4, .discard 0 0 64, .push .data 3 9, .flags 31, .shape 5,
    .line ⟨63, .col, 0⟩ 63 5 7, .scope 15 (State.reset.scopeMembers 0 0 0)] : List Effect),
    (flight [e]).pops = [] ∧ (flight [e]).rsvs = [] ∧ (flight [e]).es = 0 ∧ (flight [e]).effects = [e] ∧
      (flight [e]).opc ≠ 0x67 := by decide +kernel

theorem hyps_RetiredTag : (flight [.oldTag (.s 31) 63, .tag 63 16]).effects = [.oldTag (.s 31) 63, .tag 63 16] ∧
    (flight [.oldTag (.s 31) 63, .tag 63 16]).pops = [] ∧ (flight [.oldTag (.s 31) 63, .tag 63 16]).rsvs = [] := by
  decide +kernel

theorem hyps_QueuesAndEvents :
    let s := run .c { full with events := 0x8000 }
    Ready { scalarReq (.qdisc cm0 8 7) 0x40 cm0 [] none with self := (8 : BitVec 4).getLsbD Sq.c.num } s ∧
    Ready (scalarReq (.qstat cm0 (.s 1) 11) 0x41 cm0 [] (some (.s 1))) s ∧
    Ready (scalarReq (.evset cm0 (.s 0) 0x7FFF) 0x42 cm0 [.s 0] none) s ∧
    Ready (scalarReq (.evclr cm0 (.s 1) 0) 0x43 cm0 [.s 1] none) s ∧
    Ready { scalarReq (.evwaitm cm0 (.s 1) 0x7FFF true) 0x44 cm0 [] (some (.s 1)) with
            wait := evWait s.me 0x7FFF true } s ∧
    Ready { scalarReq (.evwaitm cm0 (.s 1) 0x4000 false) 0x44 cm0 [] (some (.s 1)) with
            wait := evWait s.me 0x4000 false } s := by decide +kernel

/-- A ring of two slots of one line. -/
def ring2 (nfill filled ncons : Nat) : Ring :=
  { (default : Ring) with valid := true, size := 1, count := 2, nfill := nfill, filled := filled, ncons := ncons
                          posted := List.replicate filled ⟨0, []⟩ }

theorem hyps_Rings :
    (let s := run .c (regs .c [(1, 0x0002000100000100)] full)
     let r := { scalarReq (.rinit cm0 15 (.s 1)) 0x47 cm0 [.s 1] none with writes := [ringLoc 15] }
     Ready r s ∧ 15 < s.me.ringsN ∧ ringSpecOk 0x0002000100000100 = true ∧ operand s [.s 1] 0 = 0x0002000100000100 ∧
       (s.me.ring 15).nfill = 0 ∧ (s.me.ring 15).ncons = 0 ∧ s.me.allocatedRange 0x100 512 = true) ∧
    (let s := run .c { full with rings := [(0, ring2 0 0 0)] }
     Ready { scalarReq (.racq cm0 (.s 1) 0) 0x48 cm0 [] (some (.s 1)) with
             reads := [ringLoc 0], wait := ringWait s.me 0 Ring.free } s ∧ (s.me.ring 0).valid = true ∧
     Ready { scalarReq (.rstat cm0 (.s 1) 0) 0x4C cm0 [] (some (.s 1)) with reads := [ringLoc 0] } s) ∧
    (let s := run .c { full with rings := [(0, ring2 1 0 1)] }
     Ready { scalarReq (.rput cm0 0) 0x49 cm0 [] none with writes := [ringLoc 0] } s ∧
       s.me.ringActs 0 true < (s.me.ring 0).nfill ∧
     Ready { scalarReq (.rrel cm0 0) 0x4B cm0 [] none with writes := [ringLoc 0] } s ∧
       s.me.ringActs 0 false < (s.me.ring 0).ncons) ∧
    (let s := run .l { full with rings := [(0, ring2 0 1 0)] }
     Ready { scalarReq (.rget cm0 (.s 1) 0) 0x4A cm0 [] (some (.s 1)) with
             reads := [ringLoc 0], wait := ringWait s.me 0 Ring.filled } s ∧ (s.me.ring 0).valid = true) ∧
    (ring2 1 0 1).nfill + (ring2 1 0 1).filled + (ring2 1 0 1).ncons ≤ (ring2 1 0 1).count ∧
    1 ≤ (ring2 0 1 0).free ∧ 1 ≤ (ring2 0 1 0).filled := by decide +kernel
/-! ### Hypotheses of the statements: local stores, memory, engine -/

/-- Bytes in the scratchpad of a context. -/
def spad (c : Ctx) (a : Nat) (bs : List Byte) : Ctx := { c with spad := c.spad.store a bs }

/-- A generator of `n` lines from address 0, with `k` lines in its buffer. -/
def gen (write : Bool) (n k : Nat) : Gen :=
  ⟨some ⟨0, 8, write, false, [n, 1, 1, 1], [256, 0, 0, 0]⟩, 0, List.replicate k ⟨5, ⟨0, []⟩⟩⟩

theorem hyps_ScratchpadAccesses :
    let z : TileLine := ⟨0, .row, 0⟩
    (let s := run .c (regs .c [(1, 0x3FFFF8)] full)
     let r := { scalarReq (.lds cm0 (.s 2) (.s 1) 3 false 0) 0x50 cm0 [.s 1] (some (.s 2)) with
                cls := 1, check := s.me.constCheck (.s 1) 0 8 8, spad := true }
     Ready r s ∧ s.me.spadCheck (effAddr (operand s [.s 1] 0) 0) 8 8 = none ∧ s.me.spad.badAddr 0x3FFFF8 8 = none) ∧
    (let s := run .c full
     Ready { scalarReq (.sts cm0 (.s 2) (.s 0) 0 0x1FFFFF) 0x51 cm0 [.s 0, .s 2] none with
             cls := 1, check := s.me.constCheck (.s 0) 0x1FFFFF 1 1, spad := true } s ∧
     s.me.spadCheck (effAddr (operand s [.s 0, .s 2] 0) 0x1FFFFF) 1 1 = none ∧ s.me.spad.badMerge 0x1FFFFF 1 = none) ∧
    (let s := run .x full
     Ready { scalarReq (.vldAddress cm0 z (.s 0) 16 63) 0x52 cm0 [.s 0] none with
             cls := 2, tiles := [0], reads := idxLoc z, writes := [.tile 0]
             check := s.me.constCheck (.s 0) (63 * 256) 256 16, spad := true } s ∧
     s.me.spadCheck (effAddr (operand s [.s 0] 0) (63 * 256)) 256 16 = none ∧
     s.me.spad.badAddr (63 * 256) 256 = none ∧ keepUntyped s.me z 16 = false ∧
     Ready { scalarReq (.vstAddress cm0 (.s 0) z 0) 0x53 cm0 [.s 0] none with
             cls := 2, tiles := [0], reads := .tile 0 :: idxLoc z, check := s.me.constCheck (.s 0) 0 256 16
             spad := true } s ∧
     s.me.spadCheck (effAddr (operand s [.s 0] 0) 0) 256 16 = none ∧ s.me.spad.badMerge 0 256 = none ∧
     (s.me.tile 0).badCell .row (TileLine.index z s.sq) = none) ∧
    (let s := run .x { full with gens := [(0, gen false 4 1), (1, gen true 4 0)] }
     Ready { scalarReq (.vldGenerator cm0 z 0 1) 0x52 cm0 [] none with
             cls := 2, tiles := [0], gens := [⟨0, false, 1, false⟩], gsrc := [0]
             reads := idxLoc z, writes := [.tile 0] } s ∧ keepUntyped s.me z 1 = false ∧
     Ready { scalarReq (.vstGenerator cm0 1 z) 0x53 cm0 [] none with
             cls := 2, tiles := [0], gens := [⟨1, true, 1, false⟩], reads := .tile 0 :: idxLoc z } s ∧
     (s.me.tile 0).badCell .row (TileLine.index z s.sq) = none ∧ s.me.pushEcc 1 1 = none) := by decide +kernel

theorem hyps_GeneratorsAndTiles :
    (let s := run .c (spad (regs .c [(1, 64), (2, 3)] full) 64
       (leBytes 8 0x08000000 ++ leBytes 8 (4 + 256 * 2 ^ 32) ++ leBytes 8 1 ++ leBytes 8 1 ++ leBytes 8 1))
     let r := { scalarReq (.gset cm0 7 (.s 1)) 0x54 cm0 [.s 1] none with
                cls := 1, gens := [⟨7, false, 0, true⟩], hold := s.me.genBusy 7
                check := if (.s 1 : Spec) = .s 0 ∧ s.me.allocatedRange 0 64 = false then some (Trap.plain .spadRange)
                  else none
                spad := true }
     Ready r s ∧ s.me.allocatedRange 64 64 = true ∧ 64 % 64 = 0 ∧ s.me.spad.badAddr 64 64 = none ∧
     operand s [.s 1] 0 = 64 ∧
     (match genRecord (s.me.spad.load (r.taken s).sq.know s.free 64 64) with
      | some k => s.me.walkAllocated k
      | none => false) = true) ∧
    (let s := run .c (regs .c [(2, 3)] { full with gens := [(7, gen false 4 0)] })
     Ready { scalarReq (.gpos cm0 7 (.s 2)) 0x55 cm0 [.s 2] none with
             gens := [⟨7, false, 0, true⟩], hold := s.me.genBusy 7
             check := if (s.me.gen 7).cfg.isNone && !s.sq.genPending 7 then some (Trap.plain .genFault) else none } s ∧
     (match (s.me.gen 7).cfg with | some k => decide ((operand s [.s 2] 0).toNat < k.lines) | none => false) = true ∧
     Ready { scalarReq (.genstat cm0 (.s 1) 7) 0x56 cm0 [] (some (.s 1)) with gens := [⟨7, false, 0, true⟩] } s) ∧
    (let s := run .x { full with tilesN := 64 }
     Ready { scalarReq (.zzero cm0 0 63) 0x57 cm0 [] none with
             cls := 2, tiles := (List.range 64).map (0 + ·), writes := ((List.range 64).map (0 + ·)).map .tile } s ∧
     Ready { scalarReq (.zinfo cm0 (.s 1) 63) 0x58 cm0 [] (some (.s 1)) with tiles := [63], reads := [.tile 63] } s) ∧
    (Tile.empty.tag = 0 ∧ ({ Tile.empty with tag := 1 } : Tile).tag ≠ 0 ∧
      ∀ i ∈ List.range 64, Dir.cell .row 63 i ≠ (0, 0)) := by decide +kernel

/-- A reach that succeeds at an address of a kind that is fitted, with a check of the state after it. -/
def reached (x : Reach) (pa kind : Nat) (p : State → Bool) : Bool :=
  match x with
  | .ok v a k => decide (a = pa ∧ k = kind) && fitted pa && p v
  | _ => false

/-- What an access at an exact address reaches. -/
def reaching (u : State) (load : Bool) (acc : Access) (ea : Int) (n : Nat) : Reach :=
  u.reachWindow load acc ea n (u.reachXlat load acc ea n)

theorem hyps_LoadsAndStores :
    let s := run .c (regs .c [(1, 0x107), (2, 0x108)] full)
    (let r := { scalarReq (.ld cm0 (.s 3) (.s 1) 0 true 0) 0x60 cm0 [.s 1] (some (.s 3)) with cls := 1 }
     Ready r s ∧ reached (reaching (r.taken s) true .read (effAddr (operand s [.s 1] 0) 0) 1) 0x107 0
       (fun v => (v.core 0).lease.find (0x107 / 128) == none && !v.dram.badIn 0x107 1) = true) ∧
    (let r := { scalarReq (.st cm0 (.s 3) (.s 2) 3 0) 0x61 cm0 [.s 2, .s 3] none with cls := 1, store := true }
     Ready r s ∧ reached (reaching (r.taken s) false .write (effAddr (operand s [.s 2, .s 3] 0) 0) 8) 0x108 0
       (fun v => !v.locked 0x108) = true ∧
     let s := { s with dram := { s.dram with locks := [(0, some 7)] } }
     Ready r s ∧ reached (reaching (r.taken s) false .write (effAddr (operand s [.s 2, .s 3] 0) 0) 8) 0x108 0
       (fun v => v.locked 0x108) = true) ∧
    (let r := { scalarReq (.lda cm0 (.s 3) (.s 2) 3 3) 0x62 cm0 [.s 2] (some (.s 3)) with cls := 1 }
     Ready r s ∧ s.me.stale 3 = false ∧ reached (reaching (r.taken s) true .read (effAddr (operand s [.s 2] 0) 0) 8) 0x108 0
       (fun v => !v.dram.badIn 0x108 8) = true) ∧
    let r := { scalarReq (.stl cm0 (.s 1) (.s 2) 2 0) 0x63 cm0 [.s 1, .s 2] none with
               cls := 1, store := true, hold := s.storesOut }
    Ready r s ∧ s.me.stale 2 = false ∧ reached (reaching (r.taken s) false .write (effAddr (operand s [.s 1, .s 2] 0) 0) 1) 0x107 0
      (fun v => !v.dram.badIn 0x107 1 && !v.locked 0x107) = true := by decide +kernel

theorem hyps_Atomics :
    let s := run .c (regs .c [(1, 0x104), (2, 1)] full)
    let ok (r : Req) : Bool := reached (reaching (r.taken s) false .atomic (effAddr (operand s [.s 1, .s 2] 0) 0) 4) 0x104 0
      fun v => !v.dram.badIn 0x104 4 && !v.locked 0x104
    (let r := { scalarReq (.amo cm0 (.s 3) (.s 1) (.s 2) 2 .fadd 2) 0x64 cm0 [.s 1, .s 2] (some (.s 3)) with
                cls := 1, reads := [.sr 2] }
     Ready r s ∧ s.me.stale 2 = false ∧ ok r = true) ∧
    (let r := { scalarReq (.cas cm0 3 (.s 1) (.s 2) 2 2) 0x65 cm0 [.s 1, .s 2] (some (.s 3)) with cls := 1 }
     Ready r s ∧ ok r = true) ∧
    (let r := { scalarReq (.red cm0 (.s 1) (.s 2) 2 .maxu 2) 0x66 cm0 [.s 1, .s 2] none with
                cls := 1, store := true, reads := [.sr 2] }
     Ready r s ∧ ok r = true) := by decide +kernel

theorem hyps_FencesAndScopes :
    let s := run .c (regs .c [(1, 1), (2, 0x100000000)] full)
    let s := { s with parts := [(0, { PartSt.empty with pairs := 3 })] }
    Ready { scalarReq (.fence cm0 3 7) 0x67 cm0 [] none with
            writes := [.all], hold := (7 : BitVec 3).getLsbD 2 && s.storesOut } s ∧ s.me.stale 3 = false ∧
    (let sl := operand s [.s 1, .s 2] 1
     Ready { scalarReq (.scset cm0 15 (.s 1) (.s 2)) 0x68 cm0 [.s 1, .s 2] none with writes := [.sr (0x2000 + 15)] } s ∧
     sl.toNat / 2 ^ 34 = 0 ∧ operand s [.s 1, .s 2] 0 &&& ~~~(s.part s.me.part).cores = 0 ∧
     sl.toNat % 2 ^ 32 < 2 ^ (s.part s.me.part).sliceCount ∧ sl.getLsbD 33 = false) ∧
    Ready { scalarReq (.scget cm0 (.s 1) 15 true) 0x69 cm0 [] (some (.s 1)) with reads := [.sr (0x2000 + 15)] } s ∧
    (let m : Members := s.scopeMembers 0 0 3
     let e : Acq := ⟨9, m, true, none⟩
     let p := flight [.fence 7 ⟨4, [e]⟩ [5] m]
     let q := { s.me.seq.c with seen := [e], inflight := [p] }
     p.pops = [] ∧ p.rsvs = [] ∧ p.es = 0 ∧ e ∈ q.seen ∧ (e.m.inter m).none_ = false) := by
  decide +kernel

/-- A COPY of one byte from 0x1000 to 0x2000 of the scratchpad. -/
def copyBytes : List Byte :=
  leBytes 8 0x11000001 ++ leBytes 8 0x1000 ++ leBytes 8 0x2000 ++ leBytes 8 0 ++ leBytes 4 1 ++ leBytes 4 1 ++ leBytes 4 1

theorem hyps_CommandPush :
    let s := run .c (spad (regs .c [(1, 128)] full) 128 copyBytes)
    let r := { scalarReq (.cpush cm0 (.s 2) true (.s 1)) 0x70 cm0 [.s 1] (some (.s 2)) with
               cls := 3, spad := true, reads := [.sr 2]
               check := if (.s 1 : Spec) = .s 0 ∧ s.me.allocatedRange 0 128 = false then some (Trap.plain .spadRange)
                 else none }
    let bs := s.me.spad.load (r.taken s).sq.know s.free 128 128
    Ready r s ∧ operand s [.s 1] 0 = 128 ∧ dimsOf (BitVec.ofNat 64 (leNat (bs.take 8))) = 1 ∧
    s.me.allocatedRange 128 128 = true ∧ s.me.boxesOk (parseCmd bs) = true ∧ s.me.spad.badAddr 128 128 = none ∧
    s.me.cmdFails s.mySlices bs = [] ∧ s.me.stale (parseCmd bs).scope = false ∧
    s.me.waitsOf (parseCmd bs).wait = some [] ∧ (s.me.eq true).occupied + 128 / 128 ≤ 16 := by decide +kernel

theorem hyps_QueueInstructions :
    let x : Record := ⟨7, 1, ⟨0, []⟩, 1⟩
    let s := run .c (regs .c [(1, 128), (2, 65535)] { full with q0 := { EngQueue.empty with records := [x] } })
    Ready (scalarReq (.cpop cm0 (.s 1) false) 0x71 cm0 [] (some (.s 1))) s ∧ (s.me.eq false).records = x :: [] ∧
    Ready (scalarReq (.cpeek cm0 (.s 1) true) 0x72 cm0 [] (some (.s 1))) s ∧
    (Ready (scalarReq (.cchain cm0 false (.s 1) true) 0x73 cm0 [.s 1] none) s ∧ (s.me.eq false).st ≠ 1 ∧
      (operand s [.s 1] 0).toNat % 128 = 0 ∧ (operand s [.s 1] 0).toNat < 2 ^ 22) ∧
    (Ready (scalarReq (.ckick cm0 false (.s 2) 0) 0x74 cm0 [.s 2] none) s ∧
      (s.me.eq false).credit + 0 + (operand s [.s 2] 0).toNat ≤ 65535) ∧
    Ready (scalarReq (.cqstat cm0 (.s 1) true) 0x75 cm0 [] (some (.s 1))) s ∧
    Ready (scalarReq (.cabort cm0 true (.s 0)) 0x76 cm0 [.s 0] none) s ∧
    Ready (scalarReq (.cabort cm0 true (.s 1)) 0x76 cm0 [.s 1] none) s := by decide +kernel
/-! ### Hypotheses of the statements: copy engine, vector and matrix operations -/

/-- A running command of a queue. -/
def job (op : Nat) (st : JobState) : Job :=
  { (default : Job) with
    seq := 3, uid := 9, st := st
    cmd := { (default : Cmd) with op := op, dims := [⟨1, 1, 1⟩], sk := 1, dk := 1, src := 0x1000, dst := 0x2000
                                  dring := none, sring := none } }

/-- A context with one command in its queue 1. -/
def withJob (j : Job) : Ctx := { full with q1 := { EngQueue.empty with jobs := [j] } }

theorem hyps_CopyElements :
    (∀ op ∈ [1, 2, 3, 4, 5],
      let s := run .c (withJob (job op .running))
      (s.ctx 0 0).bound = true ∧ s.clocksRun = true ∧
      ((s.ctx 0 0).eq (1 == 1)).jobs.find? (fun j => j.seq == 3 && j.cmd.op == op) = some (job op .running) ∧
      (job op .running).progress < (job op .running).cmd.total) ∧
    (let s := run .c (withJob (job 1 .running))
     (match s.doElem 0 0 (job 1 .running) 0 with | .ok _ _ => true | _ => false) = true) ∧
    (let s := run .c { withJob (job 1 .running) with regions := [] }
     (match s.doElem 0 0 (job 1 .running) 0 with | .stop _ _ => true | _ => false) = true) ∧
    (let c := withJob (job 1 .running)
     let j := job 1 .running
     j.cmd.op = 1 ∧ j.cmd.sk = 1 ∧ j.cmd.dk = 1 ∧ j.cmd.sring = none ∧ j.cmd.dring = none ∧
     c.spadElem none (j.srcOff 0) 0 1 = true ∧ c.spadElem none (j.dstOff 0) 0 1 = true ∧
     c.spad.badIn (j.srcOff 0).toNat 1 = false ∧ c.spad.badMerge (j.dstOff 0).toNat 1 = none) := by decide +kernel

theorem hyps_CommandCompletion :
    (let s := run .c (withJob (job 1 .over))
     (s.ctx 0 0).bound = true ∧
     ((s.ctx 0 0).eq (1 == 1)).jobs.find? (fun j => j.seq == 3 && (j.st == .over || j.st == .ending)) =
       some (job 1 .over) ∧ (job 1 .over).sclaim = none ∧ (job 1 .over).dclaim = none ∧
     (job 1 .over).cmd.bar = none) ∧
    (let j := { job 1 .over with cmd := { (job 1 .over).cmd with bar := some 0x3FFFF0 } }
     j.st = .over ∧ j.sclaim = none ∧ j.dclaim = none ∧ j.cmd.bar = some 0x3FFFF0) ∧
    (let v : Saved := ⟨withJob (job 1 .over), 0, 0, none, none, none, 0, none⟩
     let s := { State.reset with saved := [(5, v)] }
     (s.ctx 0 0).bound = false ∧
     s.saved.find? (fun e => e.2.core == 0 && e.2.slot == 0 && (e.2.img.ending (1 == 1) 3).isSome) = some (5, v) ∧
     v.img.ending (1 == 1) 3 = some (job 1 .over)) ∧
    (let j := { job 1 .running with cmd := { (job 1 .running).cmd with dk := 4 } }
     ((run .c (withJob j)).ctx 0 0).q1.jobs.find? (fun j => j.seq == 3 && j.outside) = some j) ∧
    (let s := run .c (spad { full with q0 := { EngQueue.empty with
         st := 1, credit := 1, ptr := 0x1000, inSpad := true } } 0x1000 (leBytes 8 7 ++ leBytes 8 0x80))
     let c := s.ctx 0 0
     c.bound = true ∧ s.clocksRun = true ∧ (c.eq (0 == 1)).st = 1 ∧ 0 < (c.eq (0 == 1)).credit ∧
     (c.eq (0 == 1)).occupied < 16 ∧
     (match s.readChain 0 c (c.eq (0 == 1)) (c.eq (0 == 1)).ptr.toNat 16 [] with
      | .ok _ bs => decide (fieldAt bs 0 1 = 7) && linkOk bs
      | _ => false) = true) := by decide +kernel

/-- A context whose tiles 0, 1 and 2 have a tag. -/
def tagged (t : Nat) : Ctx :=
  let z : Tile := { Tile.empty with tag := t }
  { full with tiles := [(0, z), (1, z), (2, z)] }

/-- A line of a tile. -/
abbrev tl (n : BitVec 6) : TileLine := ⟨n, .row, 0⟩

theorem hyps_VectorElementwise :
    (let s := run .x (tagged 3)
     Ready (vecReq (.vfma cm0 (tl 0) (.tile (tl 1)) (.tile (tl 2)) 7) 0x83 4 cm0 (some (.tile (tl 0)))
       [.tile (tl 1), .tile (tl 2)] 7) s ∧
     s.vecFmt [.tile (tl 1), .tile (tl 2), .tile (tl 0)] (some (.tile (tl 0))) 1 1 3 = some 3 ∧
     s.eccOf (tilesOf [.tile (tl 1), .tile (tl 2), .tile (tl 0)]) = none ∧
     s.mergeEcc (tl 0) (elemMask 3 (governed (s.me.pred 7) 3)) = none) ∧
    (let s := run .x { full with gens := [(0, gen false 4 1), (1, gen true 4 0)] }
     Ready (vecReq (.vmov cm0 (.gen 1) (.gen 0) 0) 0xA4 4 cm0 (some (.gen 1)) [.gen 0] 0) s ∧
     s.vecFmt [.gen 0] (some (.gen 1)) 1 1 16 = some 1) ∧
    (let s := run .x (tagged 9)
     s.vecFmt [.tile (tl 1)] (some (.tile (tl 0))) 6 6 9 = some 9 ∧
     (9 : Nat) ∈ ((tilesOf [Line.tile (tl 1)]).map s.tileTag).filter (· ≠ 0)) ∧
    (let s := run .x { full with tiles := [(0, { Tile.empty with tag := 6 }), (1, { Tile.empty with tag := 9 })] }
     s.tileTag (tl 0) ≠ s.tileTag (tl 1) ∧
     ((tilesOf [Line.tile (tl 2)]).map s.tileTag).filter (· ≠ 0) = [] ∧ 6 ≤ s.tileTag (tl 1) ∧ s.tileTag (tl 1) ≤ 9) ∧
    (∃ e, Elementwise.of (.vfma cm0 (tl 0) (.tile (tl 1)) (.tile (tl 2)) 7) = some e ∧ e.fixing = 3) ∧
    ∃ e, Elementwise.of (.vmov cm0 (.gen 1) (.gen 0) 0) = some e ∧ e.d = .gen 1 := by
  refine ⟨?_, ?_, ?_, ?_, ⟨_, rfl, rfl⟩, ⟨_, rfl, rfl⟩⟩ <;> decide +kernel

theorem hyps_ComparisonsAndReductions :
    let a : Line := .tile (tl 1)
    let b : Line := .tile (tl 2)
    (let s := run .x (tagged 1)
     Ready { vecReq (.vfcmp cm0 7 6 a b 0) 0x92 4 cm0 none [a, b] 0 with writes := [.p 7] } s ∧
     s.floatFmt [a, b] none = some 1 ∧ s.eccOf (tilesOf [a, b]) = none ∧
     Ready (vecReq (.vfred cm0 (tl 0) a .sum 7) 0x93 4 cm0 (some (.tile (tl 0))) [a] 7) s ∧
     s.floatFmt [a] (some (.tile (tl 0))) = some 1 ∧ s.mergeEcc (tl 0) (elemMask 1 (· == 0)) = none ∧
     Ready (vecReq (.vfscan cm0 (.tile (tl 0)) a .max 7) 0x94 4 cm0 (some (.tile (tl 0))) [a] 7) s ∧
     s.mergeEcc (tl 0) (elemMask 1 (governed (s.me.pred 7) 1)) = none) ∧
    (let s := run .x (tagged 9)
     Ready { vecReq (.vicmp cm0 1 7 a b 0) 0xA0 4 cm0 none [a, b] 0 with writes := [.p 1] } s ∧
     s.intFmt [a, b] none = some 9 ∧ s.eccOf (tilesOf [a, b]) = none ∧
     Ready (vecReq (.vired cm0 (tl 0) a .add 7) 0xA1 4 cm0 (some (.tile (tl 0))) [a] 7) s ∧
     s.intFmt [a] (some (.tile (tl 0))) = some 9 ∧ s.mergeEcc (tl 0) (elemMask 9 (· == 0)) = none) ∧
    ([some 255, none, some 255, some 1] : List (Option Nat)).length = 2 ^ 2 ∧
    ∀ v ∈ ([some 255, none, some 255, some 1] : List (Option Nat)), v.getD 0 < 2 ^ cbits 9 := by decide +kernel

theorem hyps_SelectInsertRandom :
    let d : Line := .tile (tl 0)
    let a : Line := .tile (tl 1)
    let b : Line := .tile (tl 2)
    (let s := run .x (tagged 16)
     Ready (vecReq (.vsel cm0 d a b 7) 0xA3 4 cm0 (some d) [a, b] 7) s ∧ s.anyFmt [a, b] (some d) = some 16 ∧
     s.eccOf (tilesOf [a, b]) = none ∧ s.mergeEcc (tl 0) (elemMask 16 fun _ => true) = none ∧
     Ready { vecReq (.vbcastScalar cm0 d (.s 1) 0 7) 0xA5 4 cm0 (some d) [] 7 with srcs := [.s 1] } s ∧
     s.tileTag (tl 0) = 16 ∧ s.mergeEcc (tl 0) (elemMask 16 (governed (s.me.pred 7) 16)) = none ∧
     Ready { vecReq (.vbcastScalar cm0 d (.s 1) 12 7) 0xA5 4 cm0 (some d) [] 7 with srcs := [.s 1] } s ∧
     Ready { vecReq (.vinsIndex cm0 (tl 0) (.s 1) 511) 0xA7 4 cm0 (some d) [] 0 with srcs := [.s 1] } s ∧
     s.mergeEcc (tl 0) (elemMask 16 (· == 127)) = none ∧
     Ready { vecReq (.vinsScalar cm0 (tl 0) (.s 1) (.li 0)) 0xA7 4 cm0 (some d) [] 0 with srcs := [.s 1, .li 0] } s ∧
     s.mergeEcc (tl 0) (elemMask 16 (· == 0)) = none) ∧
    (let s := run .x full
     let r0 := vecReq (.vrng cm0 d 0) 0xAA 4 cm0 (some d) [] 0
     Ready { r0 with reads := .sr 0xA :: .sr 0xB :: r0.reads } s ∧
     s.mergeEcc (tl 0) (elemMask 6 (governed (s.me.pred 0) 6)) = none) := by decide +kernel

theorem hyps_VectorToScalar :
    let a : Line := .tile (tl 1)
    let s := run .x (tagged 10)
    Ready { vecReq (.vextIndex cm0 (.s 1) a 511) 0xA6 4 cm0 none [a] 0 with dst := some (.s 1) } s ∧
    s.anyFmt [a] none = some 10 ∧ s.eccOf (tilesOf [a]) = none ∧
    Ready { vecReq (.vextScalar cm0 (.q .s) a (.s 1)) 0xA6 4 cm0 none [a] 0 with srcs := [.s 1], dst := some (.q .s) } s ∧
    Ready { vecReq (.vargmax cm0 (.s 1) a 7) 0xA9 4 cm0 none [a] 7 with dst := some (.s 1) } s ∧
    governed (s.me.pred 7) 10 0 = false ∧ governed (s.me.pred 0) 10 511 = true ∧ 511 < elems 10 ∧
    argNumber 10 0 = true ∧ argGreater s.me.fzOn 10 1 0 = true ∧
    Ready { scalarReq (.plopLogical cm0 7 1 2 6) 0xAB cm0 [] none with reads := [.p 1, .p 2], writes := [.p 7] } s ∧
    Ready { scalarReq (.plopFirst cm0 1 (.s 1)) 0xAB cm0 [.s 1] none with writes := [.p 1] } s ∧
    Ready { scalarReq (.pcnt cm0 (.s 1) 0 7 true) 0xAC cm0 [] (some (.s 1)) with reads := [.p 0, .p 7] } s := by
  decide +kernel

/-- Tiles 0, 1 and 2 with a tag each. -/
def three (d a b : Nat) : Ctx :=
  let z (t : Nat) : Tile := { Tile.empty with tag := t }
  { full with tiles := [(0, z d), (1, z a), (2, z b)] }

theorem hyps_Conversions :
    (let s := run .x (three 1 1 0)
     Ready (convReq (.cvt cm0 (tl 0) (tl 1) 10 0 true 7) 0x78 cm0 (tl 0) [tl 1] 7) s ∧ s.tileTag (tl 1) ≤ 10 ∧
     (0 : BitVec 3).toNat < elems 10 / elems 1 ∧ s.tileEcc (tl 1) = none ∧
     s.mergeEcc (tl 0) (elemMask 10 fun m => decide (m < 64)) = none) ∧
    (let s := run .x (three 1 10 0)
     Ready (convReq (.cvt cm0 (tl 0) (tl 1) 1 7 false 0) 0x78 cm0 (tl 0) [tl 1] 0) s ∧ s.tileTag (tl 1) ≤ 10 ∧
     (7 : BitVec 3).toNat < (if elems 10 < elems 1 then elems 1 / elems 10 else elems 10 / elems 1) ∧
     s.tileEcc (tl 1) = none) ∧
    (let s := run .x (three 5 1 6)
     Ready (convReq (.cvtr cm0 (tl 0) (tl 1) (tl 2) 0) 0x79 cm0 (tl 0) [tl 1, tl 2] 0) s ∧ s.tileTag (tl 0) = 5 ∧
     s.tileTag (tl 1) ≤ 1 ∧ s.eccOf [tl 1, tl 2] = none) ∧
    (let s := run .x (three 10 8 0)
     Ready (convReq (.pack cm0 (tl 0) (tl 1) (tl 2) 0) 0x7C cm0 (tl 0) [tl 1, tl 2] 0) s ∧
     8 ∈ packSources (s.tileTag (tl 0)) ∧ s.tileTag (tl 1) = 8 ∧ s.tileTag (tl 2) = 0 ∧ s.eccOf [tl 1, tl 2] = none) ∧
    (let s := run .x (three 0 10 0)
     Ready (convReq (.unpack cm0 (tl 0) (tl 1) 8 true 7) 0x7D cm0 (tl 0) [tl 1] 7) s ∧
     (8 : BitVec 5).toNat ∈ unpackDests (s.tileTag (tl 1)) ∧ s.tileEcc (tl 1) = none) := by decide +kernel

theorem hyps_BlockFormats :
    (let s := run .x (three 0 1 0)
     Ready { convReq (.qmx cm0 (tl 0) (tl 1) 31 0 3 true) 0x7A cm0 (tl 0) [tl 1] 0 with
             srcs := [.s 31], dst := some (.s 31) } s ∧
     s.tileTag (tl 1) ≤ 3 ∧ (3 : BitVec 2).toNat < elems 12 / elems 1 ∧ s.tileEcc (tl 1) = none ∧
     s.mergeEcc (tl 0) (elemMask 12 fun m => decide (192 ≤ m ∧ m < 256)) = none) ∧
    (let s := run .x (three 0 14 0)
     Ready { convReq (.dqmx cm0 (tl 0) (tl 1) (.s 1) 0 3 7) 0x7B cm0 (tl 0) [tl 1] 7 with srcs := [.s 1] } s ∧
     isMxi (s.tileTag (tl 1)) = true ∧ (3 : BitVec 2).toNat < elems 14 / elems 1 ∧ s.tileEcc (tl 1) = none) ∧
    (let s := run .x (regs .x [(1, 63), (2, 16)] { full with tilesN := 64 })
     Ready { scalarReq (.ztag cm0 63 16) 0x7E cm0 [] none with
             tiles := [63], writes := [.tile 63], hold := s.sq.usesTile 63 } s ∧
     Ready { scalarReq (.ztagr cm0 (.s 3) (.s 1) (.s 2)) 0x7F cm0 [.s 1, .s 2] (some (.s 3)) with hold := s.tilesOut } s ∧
     (operand s [.s 1, .s 2] 0).toNat < s.me.tilesN ∧ (operand s [.s 1, .s 2] 1).toNat ≤ 16) := by decide +kernel

theorem hyps_FloatCodes :
    (0x7F7FFFFF < 2 ^ Fmt.fp32.width ∧ Fmt.fp32.value false 0x7F7FFFFF = .fin false 0xFFFFFF 104) ∧
    (1 < 2 ^ Fmt.e5m2.width ∧ Fmt.e5m2.value false 1 = .fin false 1 (-16)) ∧
    (let w := 2 ^ ((1 : Int) - (-2)).toNat
     (-2 : Int) < 1 ∧ 16 % w = 0 ∧ 2 * (12 % w) = w) := by decide +kernel

/-- Generators 0 and 1 of 64 lines, a shape, and the engine as it is. -/
def shaped (w : Word) : Ctx :=
  { full with gens := [(0, gen false 64 0), (1, gen false 64 0), (2, gen true 64 0)]
              matrix := { Matrix.empty with shape := some w } }

theorem hyps_MatrixMultiplyIssue :
    (let w : Word := 0x12017F7F
      let s := run .x (shaped w)
      s.me.matrix.shape = some w ∧ s.sq.pending .shape = false ∧ shSparse w = false ∧ w.getLsbD 36 = false ∧
      Ready (mmaReq (.mma cm0 0 0 1 (.s 0) false) 0xB1 cm0 0 (some 0) (some 1) (.s 0) (s.me.mmaClass 0 [0, 1]) s) s ∧
      s.resumeOf 0xB1 = none ∧ s.me.tagsOk 0 w = true ∧
      s.me.barrierTrap (barrierAddr (.s 0) 0) = none) ∧
    (let w : Word := 0x0000000112017F7F
      let s := run .x (regs .x [(1, 0x3FFFF0)] (shaped w))
      s.me.matrix.shape = some w ∧ shSparse w = true ∧ w.getLsbD 36 = false ∧
      Ready (mmaReq (.mmas cm0 0 0 1 (.s 1) true) 0xB2 cm0 0 (some 0) (some 1) (.s 1) (s.me.mmaClass 0 [0, 1]) s) s ∧
      s.me.barrierTrap (barrierAddr (.s 1) (operand s [.s 1] 0)) = none ∧ (barrierAddr (.s 1) 0x3FFFF0).isSome = true) ∧
    (let w : Word := 0x0000001012017F7F
     let b : Binding := ⟨0, 0, 1, 2, false, 0⟩
     let c := { shaped w with matrix := { Matrix.empty with shape := some w, binding := some b } }
     let s := run .x c
     s.me.matrix.binding = some b ∧ b.whole = true ∧ w.getLsbD 36 = true ∧
     Ready (mmaReq (.mmac cm0 0 0 1 (.s 0) true) 0xB3 cm0 0 none (some 1) (.s 0) 14 s) s) ∧
    (let w : Word := 0x12017F7F
     let x : Resume := ⟨0, 0xB1, w, 1, 0, 0, 0, 0, 1⟩
     let s := run .x { shaped w with matrix := { Matrix.empty with shape := some w, resume := some x } }
     s.resumeOf 0xB1 = some x ∧
     Ready (mmaReq (.mma cm0 0 0 1 (.s 0) false) 0xB1 cm0 0 (some 0) (some 1) (.s 0) (s.me.mmaClass 0 [0, 1]) s) s) := by
  refine ⟨?_, ?_, ?_, ?_⟩ <;> decide +kernel

theorem hyps_MatrixOthers :
    (let w : Word := 0x0000000112017F7F
     let s := run .x (shaped w)
     Ready { scalarReq (.mshape cm0 0x12010000) 0xB0 cm0 [] none with long := true, writes := [.shape] } s ∧
     Ready { scalarReq (.mzero cm0 28 (.s 0)) 0xB4 cm0 [.s 0] none with
             cls := 2, tiles := (List.range 4).map (28 + ·), hold := s.me.matrix.run.isSome, reads := [.shape]
             writes := ((List.range 4).map (28 + ·)).map .tile } s ∧
     (match s.me.barrierCheck (.s 0) 0 with | .ok none => true | _ => false) = true ∧
     Ready (planeReq (.mplane cm0 30 2 (.s 0) 2 7) 0xB5 cm0 30 2 (.s 0) (4 * digitsOf 2) s) s ∧
     (planeTagOk 2 (s.me.tile 30).tag && planeTagOk 2 (s.me.tile 31).tag) = true ∧ s.me.planeEcc 30 2 (4 * digitsOf 2) = none ∧
     s.me.planeEcc 30 2 (4 + (shNs w + 7) / 8 * digitsOf 2) = none ∧
     Ready (planeReq (.mspack cm0 30 2 (.s 0) 2 3) 0xB6 cm0 30 2 (.s 0) (4 + (shNs w + 7) / 8 * digitsOf 2) s) s ∧
     s.me.matrix.shape = some w ∧ s.sq.pending .shape = false ∧ shSparse w = true ∧
     ∀ item ∈ ([0, 1, 2] : List (BitVec 2)), Ready { scalarReq (.mstat cm0 (.s 1) item) 0xB9 cm0 [] (some (.s 1)) with
       reads := if item = 0 then [.shape] else [] } s) ∧
    (let b : Binding := ⟨0, 0, 3, 1, false, 0⟩
     let s := run .x { full with matrix := { Matrix.empty with binding := some b } }
     Ready (scalarReq (.oqbind cm0 (.s 1) 3) 0xB7 cm0 [.s 1] none) s ∧ s.me.matrix.binding = some b ∧ b.phase = 1 ∧
     b.orig = operand s [.s 1] 0 ∧ b.role = (3 : BitVec 2).toNat) ∧
    (let b : Binding := ⟨0, 0, 3, 2, false, 0⟩
     let s := run .x { full with matrix := { Matrix.empty with binding := some b } }
     let r := { scalarReq (.oqunbind cm0) 0xB8 cm0 [] none with hold := s.me.matrix.run.isSome }
     Ready r s ∧ (r.taken s).jointsOpen s.who.core s.who.slot = false) ∧
    (let s := run .x full
     Ready { scalarReq (.oqunbind cm0) 0xB8 cm0 [] none with hold := s.me.matrix.run.isSome } s ∧
     s.me.matrix.binding = none) := by decide +kernel

/-- A multiply in the engine. -/
def mrun (w : Word) (blocks : Nat) : MatRun :=
  { (default : MatRun) with opc := 0xB1, shape := w, gb := 1, blocks := blocks, started := true }

theorem hyps_MatrixUnit :
    (mrun 0x12017F7F 0).blocks < shBlocks 0x12017F7F ∧ 127 < shM 0x12017F7F ∧ 127 < shN 0x12017F7F ∧
    ¬ (127 < shM 0x12010000 ∧ 127 < shN 0x12010000) ∧ (tagged 1).nbv = 2 ∧ ((tagged 1).tile 0).tag = 1 ∧
    4 ∉ touched 0 0x12017F7F := by decide +kernel

theorem hyps_MatrixCompletion :
    (∀ k ∈ [0, 1],
      let r := mrun 0x12010000 k
      let p := { flight [] with gate := .matrix, opc := 0xB1, cls := 12 }
      let c := { shaped 0x12010000 with
                 matrix := { Matrix.empty with shape := some 0x12010000, run := some r }, tiles := (tagged 1).tiles }
      let s := run .x (c.setSeq .x { c.seq.x with inflight := [p] })
      (s.ctx 0 0).bound = true ∧ s.clocksRun = true ∧ (s.ctx 0 0).matrix.run = some r ∧ r.started = true ∧
      (s.ctx 0 0).powerHolds = false ∧ r.blocks < shBlocks r.shape ∧ (s.ctx 0 0).unitBad r true true = none ∧
      (s.ctx 0 0).seq.x.inflight = p :: []) ∧
    (0xB4 ≤ ({ mrun 0 0 with opc := 0xB5 } : MatRun).opc ∧ ({ mrun 0 0 with opc := 0xB5 } : MatRun).opc ≤ 0xB6) ∧
    (let w : Word := 0x0000001012010000
     let member (role : Nat) : Ctx := { full with
       matrix := { Matrix.empty with
         run := some { mrun w 0 with opc := 0xB3, started := false }
         binding := some ⟨0x0000000503020100, 0x0000000503020100, role, 2, false, 4⟩ } }
     let s := { State.reset with ctxs := [(0, member 0), (4, member 1), (8, member 2), (12, member 3)] }
     (s.quad 0 0).length = 4 ∧
     ∀ m ∈ s.quad 0 0, (match (s.ctx m.1 m.2).matrix.run, (s.ctx m.1 m.2).matrix.binding with
       | some r, some b => decide (r.opc = 0xB3 ∧ r.started = false ∧ r.shape.setWidth 37 = w.setWidth 37 ∧ b.joints = 4) &&
           (s.ctx m.1 m.2).runTrap r == none
       | _, _ => false) = true) := by decide +kernel
/-! ### Hypotheses of the statements: Bazaar, power, traps -/

/-- A queue of a kind with records. -/
def queue (kind cap : Nat) (recs : List BRec) : BQueue :=
  { BQueue.empty with kind := kind, capM1 := cap - 1, enable := true, recs := recs }

/-- A record of 64 zero bytes. -/
def rec0 : BRec := ⟨List.replicate 64 0, ⟨0, []⟩, 0, 0, 0⟩

/-- Device memory with a group of two siblings at 0x400, open or finished. -/
def groupMem (status : Nat) : Memory := Memory.write [] 0x400 (leBytes 8 (2 + status * 2 ^ 16))

/-- A context with handles 0, 1 and 15 to the feed queue 0, the launch queue 2 and the task queue 1. -/
def handled : Ctx :=
  { full with tasks := { full.tasks with handles := [(0, ⟨0, 0, true⟩), (1, ⟨2, 2, true⟩), (15, ⟨1, 1, true⟩)] } }

theorem hyps_FeedInstructions :
    (let s := { run .c handled with queues := [(0, queue 0 2 [rec0]), (2, queue 2 1 [])] }
     let r := { scalarReq (.feedpop cm0 (.s 1) 0 (.s 0)) 0xC0 cm0 [.s 0] (some (.s 1)) with writes := [.all] }
     Ready r s ∧ (r.taken s).handleQueue 0 [0] = some 0 ∧ (s.queue 0).recs = rec0 :: [] ∧
     (r.taken s).firstInLine 0 s.myKey = true ∧ s.mayRun s.me.guest = true ∧
     s.me.spadCheck (operand s [.s 0] 0).toNat 64 64 = none ∧ recField rec0.bytes 0 1 ≠ 1) ∧
    (let x : BRec := ⟨leBytes 8 0x3F01 ++ leBytes 8 0x400 ++ leBytes 48 0, ⟨0, []⟩, 0, 0, 0⟩
     let s := { run .c handled with queues := [(0, queue 0 2 [x])], dram := { State.reset.dram with bytes := groupMem 1 } }
     let r := { scalarReq (.feedpop cm0 (.s 1) 0 (.s 0)) 0xC0 cm0 [.s 0] (some (.s 1)) with writes := [.all] }
     Ready r s ∧ (r.taken s).handleQueue 0 [0] = some 0 ∧ (s.queue 0).recs = x :: [] ∧
     (r.taken s).firstInLine 0 s.myKey = true ∧ s.mayRun s.me.guest = true ∧
     recField x.bytes 0 1 = 1 ∧ recField x.bytes 8 8 % 1024 = 0 ∧ recField x.bytes 1 1 % 64 = 63 ∧
     reached ((r.taken s).reachXlat false .write (recField x.bytes 8 8) 1) 0x400 0
       (fun v => v.dram.groupBit 0x400 0 && v.dram.sibling 0x400 63 % 4 == 0 && !v.locked 0x400) = true) ∧
    (let s := { run .c handled with queues := [(0, queue 0 2 [rec0]), (2, queue 2 1 [])] }
     let r := scalarReq (.feedpush cm0 (.s 1) 0 (.s 0) false) 0xC1 cm0 [.s 0] (some (.s 1))
     Ready r s ∧ (r.taken s).handleQueue 0 [0, 2] = some 0 ∧
     (match (r.taken s).readRecord (operand s [.s 0] 0) 64 64 with | .ok _ => true | _ => false) = true ∧
     (s.queue 0).room 1 = true ∧ (s.queue 0).kind = 0) ∧
    (let s := { run .c handled with queues := [(0, queue 0 2 [rec0]), (2, queue 2 1 [])] }
     let r := scalarReq (.feedpush cm0 (.s 1) 1 (.s 0) false) 0xC1 cm0 [.s 0] (some (.s 1))
     Ready r s ∧ (r.taken s).handleQueue 1 [0, 2] = some 2 ∧ (s.queue 2).room 1 = true ∧ (s.queue 2).kind = 2) ∧
    (let s := { run .c handled with queues := [(0, queue 0 1 [rec0])] }
     let r := scalarReq (.feedpush cm0 (.s 1) 0 (.s 0) true) 0xC1 cm0 [.s 0] (some (.s 1))
     Ready r s ∧ (r.taken s).handleQueue 0 [0, 2] = some 0 ∧ (s.queue 0).room 1 = false ∧
     Ready (scalarReq (.feedstat cm0 (.s 1) 0) 0xC2 cm0 [] (some (.s 1))) s) := by
  refine ⟨?_, ?_, ?_, ?_, ?_⟩ <;> decide +kernel

/-- A task record for handler 0 that depends on two counters and signals one. -/
def taskBytes : List Byte :=
  leBytes 8 (2 * 2 ^ 10 + 2 ^ 12) ++ leBytes 8 0 ++ leBytes 8 0x1000 ++ leBytes 8 0 ++ leBytes 8 0x1008 ++ leBytes 8 0 ++
    leBytes 8 0x1010 ++ leBytes 72 0

/-- A task. -/
def task (bs : List Byte) : Task := { (default : Task) with bytes := bs, queue := 1 }

theorem hyps_TaskInstructions :
    (let s := { run .c (spad handled 0 taskBytes) with
                queues := [(1, queue 1 1 [])], launches := [(5, { (default : Launch) with end_ := none })] }
     let r := scalarReq (.taskpush cm0 (.s 1) 15 (.s 0)) 0xC3 cm0 [.s 0] (some (.s 1))
     Ready r s ∧ (r.taken s).handleQueue 15 [1] = some 1 ∧
     (match (r.taken s).readRecord (operand s [.s 0] 0) 128 128 with
      | .ok bs => decide (taskReserved bs = false ∧ s.handlerRuns s.me.guest (taskRec bs).handler = true) &&
          decide ((taskRec bs).ndeps = 2 ∧ (taskRec bs).sig = true) &&
          reached ((r.taken s).reachXlat false .write (recField bs 16 8) 1) 0x1000 0 fun v =>
            reached (v.reachXlat false .write (recField bs 32 8) 1) 0x1008 0 fun w =>
              reached (w.reachXlat false .write (taskRec bs).sigAddr 1) 0x1010 0 fun x => (x.queue 1).room 1
      | _ => false) = true) ∧
    (let c := { full with tasks := { full.tasks with buffer := [7] } }
     let s := { run .c c with tasks := [(7, task (leBytes 128 0))] }
     Ready { scalarReq (.taskpop cm0 (.s 1) (.s 0)) 0xC4 cm0 [.s 0] (some (.s 1)) with writes := [.all, .sr 0x2000] } s ∧
     s.me.tasks.current = none ∧ s.me.tasks.next = some 7 ∧ s.mayRun s.me.guest = true ∧
     s.me.spadCheck (operand s [.s 0] 0).toNat 128 64 = none ∧
     Ready { scalarReq (.sleep cm0 (.s 1) 0 true) 0xC6 cm0 [] (some (.s 1)) with reads := [.sr 0x2000] } s ∧
     s.me.tasks.next ≠ none) ∧
    (let c := { full with tasks := { full.tasks with current := some 7 } }
     let s := { run .c c with tasks := [(7, task (leBytes 128 0))] }
     Ready { scalarReq (.taskdone cm0 true) 0xC5 cm0 [] none with reads := [.sr 0x2000] } s ∧
     Ready { scalarReq (.taskdone cm0 false) 0xC5 cm0 [] none with reads := [.sr 0x2000] } s ∧
     s.me.tasks.current = some 7 ∧ (taskRec (s.tasks.get default 7).bytes).sig = false) ∧
    (let s := { run .c handled with queues := [(0, queue 0 2 [rec0])] }
     let r := scalarReq (.sleep cm0 (.s 1) 1 false) 0xC6 cm0 [] (some (.s 1))
     Ready r s ∧ (∀ n ∈ List.range 16, (1 : BitVec 16).getLsbD n = true → (r.taken s).handleQueue n [0] = some 0) ∧
     (s.queue 0).recs ≠ []) ∧
    (let c := { full with tasks := { full.tasks with current := some 7 } }
     let s := { run .c c with tasks := [(7, task taskBytes)] }
     let r := { scalarReq (.taskdone cm0 false) 0xC5 cm0 [] none with reads := [.sr 0x2000] }
     Ready r s ∧ (taskRec (s.tasks.get default 7).bytes).sig = true ∧ s.me.stale 2 = false ∧
     reached (reaching (r.taken s) false .atomic (taskRec (s.tasks.get default 7).bytes).sigAddr 8) 0x1010 0
       (fun v => !v.dram.badIn 0x1010 8 && !v.locked 0x1010) = true) := by
  refine ⟨?_, ?_, ?_, ?_, ?_⟩ <;> decide +kernel

theorem hyps_GroupInstructions :
    (let bs : List Byte := leBytes 64 0 ++ leBytes 8 0x400 ++ leBytes 8 64 ++ leBytes 48 0
     let s := { run .c (spad handled 0 bs) with queues := [(0, queue 0 64 [])] }
     let r := scalarReq (.fork cm0 (.s 1) 0 (.s 0)) 0xC7 cm0 [.s 0] (some (.s 1))
     Ready r s ∧ (r.taken s).handleQueue 0 [0] = some 0 ∧
     (match (r.taken s).readRecord (operand s [.s 0] 0) 128 64 with
      | .ok x => decide (x = bs)
      | _ => false) = true ∧
     forkBad (recField bs 72 8) (recField bs 64 8) = false ∧
     reached ((r.taken s).reachXlat false .write (recField bs 64 8) 1) 0x400 0
       (fun v => !v.dram.groupBit 0x400 0 && (v.queue 0).room 64 && !v.locked 0x400) = true) ∧
    (let s := { run .c (regs .c [(1, 0x400), (2, 1), (3, 0x3F800000)] full) with
                dram := { State.reset.dram with bytes := groupMem 1 } }
     let ok (r : Req) (load : Bool) : Prop := Ready r s ∧
       reached ((r.taken s).reachXlat load (if load then .read else .write) 0x400 1) 0x400 0
         (fun v => !v.dram.badIn 0x400 1024 && !v.locked 0x400 && v.dram.bytes.num (0x400 + 32) 1 == s.me.guest &&
           v.dram.groupBit 0x400 0 && !v.dram.groupBit 0x400 1 && v.dram.pending 0x400 1 &&
           decide (1 < v.dram.groupK 0x400)) = true
     Ready (scalarReq (.garrive cm0 (.s 1) (.s 2) (.s 3)) 0xC8 cm0 [.s 1, .s 3, .s 2] none) s ∧
     operand s [.s 1, .s 3, .s 2] 0 = 0x400 ∧ operand s [.s 1, .s 3, .s 2] 2 = BitVec.ofNat 64 1 ∧
     ok (scalarReq (.garrive cm0 (.s 1) (.s 2) (.s 3)) 0xC8 cm0 [.s 1, .s 3, .s 2] none) false ∧
     ok (scalarReq (.gcancel cm0 (.s 1) (.s 2)) 0xCA cm0 [.s 1, .s 2] none) false ∧
     ok (scalarReq (.grpstat cm0 (.s 4) (.s 1)) 0xCB cm0 [.s 1] (some (.s 4))) true) ∧
    (let s := { run .c (regs .c [(1, 0x400), (2, 1)] full) with dram := { State.reset.dram with bytes := groupMem 2 } }
     let r := scalarReq (.gwait cm0 (.s 4) (.s 1) (.s 2)) 0xC9 cm0 [.s 1, .s 2] (some (.s 4))
     Ready r s ∧ reached ((r.taken s).reachXlat true .read 0x400 1) 0x400 0
       (fun v => !v.dram.badIn 0x400 1024 && v.dram.bytes.num (0x400 + 32) 1 == s.me.guest && v.dram.groupBit 0x400 1 && decide (1 < v.dram.groupK 0x400)) = true) := by
  refine ⟨?_, ?_, ?_⟩ <;> decide +kernel

/-- Two cores for partition 0, whose guest 0 has a share of units. -/
def shared (units : Nat) (s : State) : State :=
  { s with parts := [(0, { PartSt.empty with pairs := 1 })]
           guests := [(0, { Guest.empty with e1 := BitVec.ofNat 64 (units * 2 ^ 32), w1 := BitVec.ofNat 64 (units * 2 ^ 32) })] }

theorem hyps_PowerInstructions :
    let at4 : Ctx := { full with power := CtxPower.empty }
    let r (level : BitVec 4) (nowait : Bool) (s : State) : Req :=
      { scalarReq (.pwracq cm0 (.s 1) level nowait) 0xD0 cm0 [] (some (.s 1)) with
        check := if s.me.powerMax < level.toNat then some (Trap.plain .powerOver) else none, reads := [.sr 6]
        hold := s.me.grantPending s.who.y }
    (let s := run .x { full with power := { CtxPower.empty with given := some .x, waits := [(.x, 12)] } }
     Ready (r 12 false s) s ∧ s.me.power.given = some s.who.y ∧ (s.who.y, 12) ∈ s.me.power.waits ∧ s.me.power.g < 12) ∧
    (let s := run .x at4
     Ready (r 4 false s) s ∧ s.me.power.given = none ∧ 4 ≤ s.me.power.g) ∧
    (let s := shared 100 (run .x at4)
     let u := (r 15 true s).taken s
     Ready (r 15 true s) s ∧ s.me.power.given = none ∧ s.me.power.g < 15 ∧
     u.extraFor 0 0 15 ≤ u.share s.me.part - u.base s.me.part ∧ 0 < u.extraFor 0 0 15 ∧
     u.power.reqs.any u.grantable = false ∧ (u.planNow s.me.part (u.extraFor 0 0 15)).isSome = true) ∧
    (let s := shared 100 (run .x at4)
     let s := { s with ctxs := s.ctxs.put Ctx.empty 4 { at4 with power := { at4.power with own := 99 } } }
     let u := (r 15 true s).taken s
     Ready (r 15 true s) s ∧ u.extraFor 0 0 15 ≤ u.share s.me.part - u.base s.me.part ∧ 0 < u.extraFor 0 0 15 ∧
     u.planNow s.me.part (u.extraFor 0 0 15) = none) ∧
    (let s := run .x full
     Ready { scalarReq (.pwrrel cm0 4) 0xD1 cm0 [] none with reads := [.sr 6], writes := [.sr 6] } s ∧
     max 4 4 < s.me.power.g ∧
     Ready { scalarReq (.pwrrel cm0 15) 0xD1 cm0 [] none with reads := [.sr 6], writes := [.sr 6] } s ∧
     s.me.power.g ≤ max 15 4 ∧
     Ready { scalarReq (.pwrq cm0 (.s 1) 2) 0xD2 cm0 [] (some (.s 1)) with reads := [.sr 6] } s) ∧
    (4 ≤ 15 ∧ 0 ≤ 56 ∧ 0 ≤ 70) := by
  refine ⟨?_, ?_, ?_, ?_, ?_, ?_⟩ <;> decide +kernel

/-- A context with a handler. -/
def trapping : Ctx := { full with trapVec := 0x100 }

theorem hyps_TrapsTaken :
    (trapping.quiet = true ∧ trapping.delivery (Trap.plain .align) = .handler) ∧
    (let x : XFault := ⟨true, 7, .write, 3⟩
     let t : Trap := { Trap.plain .storeFault with x := some x }
     t.cause ≠ .eccUncorr ∧ t.fatal = false ∧ t.x = some x ∧ x.stage2 = true ∧ x.fault < 4 ∧ x.level < 8 ∧
     ({ trapping with handler := true } : Ctx).handler = true) ∧
    (let x : XFault := ⟨true, 0, .read, 4⟩
     let t : Trap := { Trap.plain .loadFault with x := some x }
     t.x = some x ∧ x.fault = 4) ∧
    ((Trap.plain .align).x = none ∧ (Trap.plain .align).fatal = false ∧ full.trapVec = 0 ∧ trapping.trapVec ≠ 0 ∧
      trapping.handler = false) ∧
    (let x : XFault := ⟨false, 4, .exec, 3⟩
     let t : Trap := { Trap.plain .fetchFault with x := some x }
     t.fatal = false ∧ x.stage2 = false ∧ x.fault < 4 ∧ x.level < 8) := by decide +kernel

theorem hyps_TrapOrder :
    let c := full
    permitted 0x68 .x = false ∧
    (let r := scalarReq (.qdisc cm0 0 0) 0x40 cm0 [] none
     permitted r.opc .c = true ∧ r.encOk .c = false) ∧
    (let r := { scalarReq (.tret cm0) 0xE3 cm0 [] none with priv := true }
     permitted r.opc .c = true ∧ r.encOk .c = true ∧ r.priv = true) ∧
    (let r := { scalarReq (.zinfo cm0 (.s 1) 32) 0x58 cm0 [] (some (.s 1)) with tiles := [32] }
     permitted r.opc .x = true ∧ r.encOk .x = true ∧ ∃ t ∈ r.tiles, c.tilesN ≤ t) ∧
    (let r := { scalarReq (.genstat cm0 (.s 1) 8) 0x56 cm0 [] (some (.s 1)) with gens := [⟨8, false, 0, true⟩] }
     permitted r.opc .c = true ∧ r.encOk .c = true ∧ ∃ u ∈ r.gens, u.ok c c.seq.c = false) ∧
    (let r := { scalarReq (.sts cm0 (.s 2) (.s 0) 0 0x200000) 0x51 cm0 [.s 0, .s 2] none with
                cls := 1, check := c.constCheck (.s 0) (-0x200000) 1 1 }
     r.encOk .c = true ∧ r.check.isSome = true ∧ (r.preTrap c .c).isSome = true) ∧
    (let r := { scalarReq (.sts cm0 (.s 2) (.s 1) 0 0) 0x51 cm0 [.s 1, .s 2] none with cls := 5 }
     let c := { c with power := CtxPower.empty }
     r.check = none ∧ c.power.g < r.cls ∧ (c.seq.get .c).pending (.sr 6) = false) := by decide +kernel

theorem hyps_TrapsCalled :
    (let s := run .x trapping
     Ready (scalarReq (.trap cm0 (.s 1) 0xFFFF) 0xE0 cm0 [.s 1] none) s ∧ s.me.quiet = true ∧ s.me.trapVec ≠ 0 ∧
     s.me.handler = false ∧
     (let r : Req := { opc := 0xE1, cm := cm0, wf := (Instr.brk cm0 7).wellFormed, brk := some 7 }
      r.encOk s.who.y = true) ∧ s.breaksOut = false) ∧
    (let s := { run .c trapping with trust := { State.reset.trust with debug := 2, keys := false } }
     s.breaksOut = true) ∧
    (let s := run .c trapping
     Ready (scalarReq (.hcall cm0 31 (.s 1) 0xFFFF) 0xE2 cm0 [.s 1] none) s ∧ s.who.y = .c ∧
     ({ scalarReq (.tret cm0) 0xE3 cm0 [] none with priv := !s.me.handler, hold := !s.sq.inflight.isEmpty } : Req).encOk .c =
       true ∧ s.me.handler = false) ∧
    (let s := run .c { trapping with handler := true, trapPc := ⟨8, 16, 24, 32⟩ }
     Ready { scalarReq (.tret cm0) 0xE3 cm0 [] none with priv := !s.me.handler, hold := !s.sq.inflight.isEmpty } s) := by
  decide +kernel

/-- A launch of guest 0 whose one instance may be bound to any core of partition 0. -/
def launched : Launch := { (default : Launch) with total := 1, end_ := none, record := List.replicate 64 0 }

theorem hyps_SystemInstructions :
    (let s := run .c (regs .c [(1, 0xFFFFFFFFFFFFFFFF), (2, 31), (3, 1), (4, 0x3FFE00), (5, 512)] full)
     Ready (scalarReq (.budget cm0 (.s 3) (.s 1) 0xFFFFFFF) 0xE4 cm0 [.s 1] (some (.s 3))) s ∧
     (Ready (scalarReq (.discard cm0 (.s 2) (.s 3) 0) 0xE5 cm0 [.s 2, .s 3] none) s ∧
       (operand s [.s 2, .s 3] 0).toNat + (operand s [.s 2, .s 3] 1).toNat ≤ s.me.tilesN) ∧
     (Ready (scalarReq (.discard cm0 (.s 4) (.s 5) 1) 0xE5 cm0 [.s 4, .s 5] none) s ∧
       s.me.allocatedRange (operand s [.s 4, .s 5] 0).toNat (operand s [.s 4, .s 5] 1).toNat = true ∧
       (operand s [.s 4, .s 5] 0).toNat % 512 = 0 ∧ (operand s [.s 4, .s 5] 1).toNat % 512 = 0) ∧
     Ready (scalarReq (.discard cm0 (.s 0) (.s 0) 2) 0xE5 cm0 [.s 0, .s 0] none) s ∧
     Ready { scalarReq (.ifence cm0) 0xE6 cm0 [] none with hold := s.storesOut } s ∧
     Ready (scalarReq (.yield cm0) 0xE7 cm0 [] none) s ∧
     ((scalarReq (.yield cm0) 0xE7 cm0 [] none).taken s).waiter 0 0 = none) ∧
    (let s := { shared 100 (run .c full) with launches := [(5, launched)] }
     let r := scalarReq (.yield cm0) 0xE7 cm0 [] none
     Ready r s ∧ (r.taken s).waiter 0 0 ≠ none) := by
  refine ⟨?_, ?_⟩ <;> decide +kernel
/-! ### Hypotheses of the statements: control complex -/

/-- A scheduler core 0 with registers, slots and SRAM, executing. -/
def fw (x : Tbl Word) (slots : Tbl RSlot) (sram : Memory) : State :=
  { State.reset with fws := [(0, { FwCore.empty with x := x, slots := slots, sram := sram, released := true })] }

/-- An enabled ring of 16 entries in host memory. -/
def kring (head tail : Nat) : KRing :=
  { (default : KRing) with size := 4, kind := true, enable := true, head := head, tail := tail }

/-- A code word is the one expected. -/
def isWord (c : CodeWord) (w : Word) : Bool := match c with | .word x => decide (x = w) | _ => false

theorem hyps_StepRunsDecoded :
    (let s := State.reset.placeWord 0x2080010C41400000
     let u := (({ s with moves := [] } : State).pass ⟨0, 0, .issue 0 0 .c⟩).asWho ⟨0, 0, .c⟩
     s.moves = ⟨0, 0, .issue 0 0 .c⟩ :: [] ∧ u.clocksRun = true ∧ u.me.issuesIn .c (u.core 0).cycle = true ∧ u.me.stop = none ∧
     isWord (u.sq.code u.sq.pc) 0x2080010C41400000 = true ∧ isLong 0x2080010C41400000 = false ∧
     (decode 0x2080010C41400000 0).isOk = true) ∧
    (let s := State.reset.placeWord (0x0000B00000000000 + 0x12010000 * 2 ^ 64)
     let u := (({ s with moves := [] } : State).pass ⟨0, 0, .issue 0 0 .x⟩).asWho ⟨0, 0, .x⟩
     u.me.issuesIn .x (u.core 0).cycle = true ∧ isWord (u.sq.code u.sq.pc) 0x0000B00000000000 = true ∧ isLong 0x0000B00000000000 = true ∧
     isWord (u.sq.code (u.sq.pc + 8)) 0x12010000 = true ∧ (decode 0x0000B00000000000 0x12010000).isOk = true) ∧
    (let s := State.reset.placeFw 0x0002850B
     let u := (({ s with moves := [] } : State).pass ⟨0, 0, .fw 0⟩).asFw 0
     s.moves = ⟨0, 0, .fw 0⟩ :: [] ∧ u.fwMe.released = true ∧ u.power.state ≠ .off ∧ u.power.state ≠ .retention ∧
     u.fwMe.interrupt = none ∧ u.fwMe.pc.toNat + 2 < 2 ^ 20 ∧ BitVec.ofNat 32 (u.fwMe.sram.num u.fwMe.pc.toNat 4) = 0x0002850B ∧
     decodeFw 0x0002850B = some (.rfetch 10 5)) ∧
    (let u := (((State.reset.placeFw 0x00150513).pass ⟨0, 0, .fw 0⟩)).asFw 0
     BitVec.ofNat 32 (u.fwMe.sram.num u.fwMe.pc.toNat 4) = 0x00150513 ∧ decodeFw 0x00150513 = none ∧
     isExtFw 0x00150513 = false) ∧
    ((⟨0, 0, .vesper⟩ : Move).us = 0 ∧ (⟨0, 0, .vesper⟩ : Move).cycles = 0) ∧ isEvent .ageTick = true := by
  refine ⟨?_, ?_, ?_, ?_, ?_, ?_⟩ <;> decide +kernel

theorem hyps_StepKeepsInvariant :
    ({ State.reset with moves := [⟨100, 0, .event .ageTick⟩] } : State).Inv ∧
      ∃ t, step { State.reset with moves := [⟨100, 0, .event .ageTick⟩] } = .next t :=
  ⟨⟨by decide, by decide⟩, ⟨_, rfl⟩⟩

/-- Device memory whose stage-2 tables at 0x1000 map the intermediate page 0 to page 5, by a leaf of some bits. -/
def stage2Mem (bits : Nat) : Memory :=
  (((Memory.write [] 0x1000 (leBytes 8 0x2001)).write 0x2000 (leBytes 8 0x3001)).write 0x3000 (leBytes 8 0x4001)).write 0x4000
    (leBytes 8 (0x5000 + bits))

theorem hyps_SchedulerWords :
    (let s := fw [(1, 5), (2, 0x1FC0)] [] []
     let v := s.fwMe.reg 2
     v.toNat < 2 ^ 13 ∧ (v.extractLsb' 0 6).toNat + ((v.extractLsb' 6 6).toNat + 1) ≤ 64) ∧
    (let s := fw [(1, 5), (2, 0x1FC1)] [] []
     let v := s.fwMe.reg 2
     64 < (v.extractLsb' 0 6).toNat + ((v.extractLsb' 6 6).toNat + 1)) ∧
    2 ^ 13 ≤ ((fw [(2, 0x2000)] [] []).fwMe.reg 2).toNat ∧
    (let s := { fw [(1, 24), (2, 0x8000000000000000)] [] [] with
                rings := [(1599, { kring 0 1 with pending := true })] }
     (s.fwMe.reg 1).toNat ≤ 24 ∧ s.routeOf 24 = s.fw ∧ s.pendingOf 24 &&& s.fwMe.reg 2 = 0x8000000000000000) ∧
    (let s := { fw [(1, 31), (2, 1)] [(0, ⟨0, 0⟩)] [] with rings := [(0, kring 0 1)] }
     s.fwMe.reg 1 = 31 ∧ s.ownWord s.fw &&& s.fwMe.reg 2 ≠ 0) ∧
    ((fw [(1, 1599)] [] []).fwMe.reg 1).toNat < 1600 ∧
    (let s := { fw [(5, 15)] [(15, ⟨0, 0⟩)] [] with
                rings := [(0, { kring 15 0 with kind := false })], ranges := [(0, 0, 2 ^ 32)]
                guests := [(0, { Guest.empty with s2 := 0x1001 })]
                dram := { State.reset.dram with bytes := stage2Mem 0x3F } }
     let k : RSlot := ⟨0, 0⟩
     (s.fwMe.reg 5).toNat < 16 ∧ s.fwMe.slots.find 15 = some k ∧ (s.ring 0).tail < 2 ^ (s.ring 0).size ∧
     (s.ring 0).head ≠ (s.ring 0).tail ∧
     (match s.readCommand 0 ((s.ring 0).base.toNat + 64 * (s.ring 0).head) with
      | .ok _ bs => decide (bs.length = 64)
      | _ => false) = true) ∧
    (let s := { fw [(5, 15)] [(15, ⟨8, 0⟩)] [] with rings := [(8, kring 15 0)] }
     s.fwMe.slots.find 15 = some ⟨8, 0⟩ ∧ (s.ring 8).head ≠ (s.ring 8).tail ∧
     (match s.readCommand 8 ((s.ring 8).base.toNat + 64 * (s.ring 8).head) with
      | .bad _ host => host
      | _ => false) = true) ∧
    (kring 3 3).head = (kring 3 3).tail := by decide +kernel

theorem hyps_Dispatch :
    ∀ e ∈ [(queue 0 1 [], 0x0), (queue 2 1 [], 0x700000), (queue 0 1 [rec0], 0x0)],
      let s := { fw [(1, 0xFFFC0), (2, BitVec.ofNat 64 e.2)] [] [] with queues := [(0, e.1)] }
      (s.fwMe.reg 1).toNat % 64 = 0 ∧ (s.fwMe.reg 1).toNat < 2 ^ 20 ∧ (s.fwMe.reg 2).toNat < 2 ^ 23 ∧
      (s.queue 0).enable = true ∧ (s.queue 0).owner = 0 ∧ (s.queue 0).kind ≠ 1 ∧ s.resets.contains 0 = false ∧
      (s.queue 0).room 1 = decide ((s.queue 0).recs = []) := by decide +kernel

theorem hyps_QueueControlBlocks :
    (let s := { fw [(1, 15), (2, 1599)] [] [] with rings := [(1599, kring 0 5)] }
     (s.fwMe.reg 1).toNat < 16 ∧ s.fwMe.slots.find 15 = none ∧ (s.fwMe.reg 2).toNat < 1600 ∧
     (s.ring 1599).usable = true ∧ (s.ring 1599).bound = none) ∧
    (let s := { fw [(1, 15), (2, 0xFFFC0)] [(15, ⟨1599, 7⟩)] [] with
                rings := [(1599, { kring 0 5 with bound := some (0, 15) })] }
     (s.fwMe.reg 1).toNat < 16 ∧ s.fwMe.slots.find 15 = some ⟨1599, 7⟩ ∧ (s.fwMe.reg 2).toNat % 64 = 0 ∧
     (s.fwMe.reg 2).toNat < 2 ^ 20) ∧
    (let s := { fw [(1, 15), (2, 0xFFFC0)] [] (Memory.write [] 0xFFFC0 (qcbBytes 1599 7 (kring 0 5) (leBytes 8 0x5A))) with
                rings := [(1599, kring 0 5)] }
     s.fwMe.slots.find 15 = none ∧ s.qcbFail (s.fwMe.sram.read 0xFFFC0 64) = none) ∧
    ((kring 15 15).usable = true ∧ (kring 15 15).bound = none ∧ (kring 15 15).gen < 2 ^ 12 ∧
      (kring 15 15).head < 2 ^ 16 ∧ (leBytes 8 0x5A).length = 8) := by decide +kernel

theorem hyps_LinesAndUpkeep :
    (let s := run .c full
     (s.ctx 0 0).bound = true ∧ (s.ctx 0 0).seq.c.wants 63 = true ∧ (s.ctx 0 0).seq.c.ring.find 63 = none ∧
     (match s.translate ⟨0, 0, 0⟩ (63 * 128) .exec with
      | (v, _, .ok pa 0) => fitted pa && !v.dram.badIn (pa / 128 * 128) 128
      | _ => false) = true) ∧
    (let s := { run .c full with cores := [] }
     (match s.translate ⟨0, 0, 0⟩ (63 * 128) .exec with | (_, _, .fault _) => true | _ => false) = true) ∧
    (let s := run .x { full with gens := [(7, gen false 4 3)] }
     ((s.ctx 0 0).gen 7).buf.length < 4 ∧
     (match ((s.ctx 0 0).gen 7).cfg with
      | some k => decide (k.write = false ∧ 0 + 3 < k.lines ∧ k.badLine (s.ctx 0 0).spad (3 % max 1 k.lines) = none)
      | none => false) = true) ∧
    (Tbl.rising 0 (run .c full).ctxs = true ∧ Tbl.rising 0 (run .c full).cores = true ∧
      Tbl.rising 0 (run .c full).dram.lines = true) ∧
    (0x1000 : Word).getLsbD 12 = true ∧ (0x2000 : Word).getLsbD 13 = true ∧
    (let s := { State.reset with groups := [(0x5400, 0)], dram := { State.reset.dram with locks := [(5, some 9)] } }
     s.dram.locks.get none 5 = some 9 ∧ s.xlat.inv.getLsbD 13 = false ∧ Tbl.rising 0 s.ctxs = true ∧
     Tbl.rising 0 s.groups = true ∧ (∀ e ∈ s.groups, e.1 / 4096 ≠ 9) ∧ 0x5400 / 4096 ≠ 9 ∧
     s.dram.locks.get none 4 ≠ some 9) ∧
    (let c := full.setSeq .l { full.seq.l with inflight := [flight []] }
     (run .c full).quiescent = true ∧ (run .c c).quiescent = false ∧ fitted 0x100 = true ∧
     ((run .c full).ctx 0 0).bound = true ∧ ((run .c full).ctx 5 0).bound = false) ∧
    (let s := { State.reset with
       time := 1000, ctrls := [(15, { (default : Ctrl) with rates := [(0, 100), (1, 50)] })]
       parts := [(0, { PartSt.empty with w0 := 0x400000, floor := 40 }), (1, { PartSt.empty with w0 := 0x400000, floor := 40 })] }
     let own (p : Nat) : Nat := (s.ctrls.get default 15).rates.get 0 p
     (List.range 8).foldl (fun x p => x + own p) 0 = 150 ∧
     (List.range 8).foldl (fun x p => x + (s.part p).floorRate) 0 = 80) ∧
    (let flash : Memory := ((((Memory.write [] 6 [1]).write 2048 [4]).write 2060 (leBytes 4 4096)).write 2064 (leBytes 8 0x5000))
     let s := { State.reset with
       dram := { State.reset.dram with bytes := stage2Mem 0xBF }
       guests := [(0, { Guest.empty with s2 := 0x1001 })]
       trust := { State.reset.trust with manifest := some 0, flash := flash } }
     (s.guest 0).s2.getLsbD 0 = true ∧ s.resets.contains 0 = false ∧ s.powered = true ∧
     s.xlat.lazyBad.contains (0, 0) = false ∧
     (match leafOf s.dram.bytes 0 4 (entryAddr (s.guest 0).s2) with
      | some (a, e) => e.getLsbD 7 && !e.getLsbD 6 && (s.trust.lazyEntry (entryAddr e)).isSome &&
          fitted (entryAddr e + 4095) && decide (a + 8 ≤ entryAddr e)
      | none => false) = true) ∧
    (let s := { State.reset with time := 1000 }
     s.due (32 + 15) 1000 = true ∧ heatLimit 2 95 = 2 ∧ heatLimit 2 80 = 0) := by
  refine ⟨?_, ?_, ?_, ?_, ?_, ?_, ?_, ?_, ?_, ?_, ?_⟩ <;> decide +kernel

/-- A context with something in flight at L. -/
def busy (c : Ctx) : Ctx := c.setSeq .l { c.seq.l with inflight := [flight []] }

theorem hyps_TrapsDelivered :
    (let q : Seqr := { trapping.seq.l with waiting := some ⟨2, 5⟩, waited := 0x01000001 }
     let s := run .c { trapping.setSeq .l q with wdog := 0x01000000 }
     s.clocksRun = true ∧ (s.ctx 0 0).bound = true ∧ (s.ctx 0 0).issuesIn .l (s.core 0).cycle = true ∧
     ((s.ctx 0 0).seq.get .l).waiting = some ⟨2, 5⟩ ∧
     watchLimit (s.ctx 0 0) ((s.ctx 0 0).seq.get .l) < ((s.ctx 0 0).seq.get .l).waited ∧ (s.ctx 0 0).handler = false ∧
     (s.ctx 0 0).quiet = true ∧ (s.ctx 0 0).trapVec ≠ 0 ∧
     (busy (s.ctx 0 0)).quiet = false ∧ (busy (s.ctx 0 0)).issuesIn .l (s.core 0).cycle = true) ∧
    (let s := run .c { trapping with budgetHeld := true }
     (s.ctx 0 0).running = true ∧ (s.ctx 0 0).budgetHeld = true ∧ (s.ctx 0 0).handler = false ∧
     (s.ctx 0 0).quiet = true ∧ (s.ctx 0 0).trapVec ≠ 0 ∧ (busy (s.ctx 0 0)).running = true ∧
     (busy (s.ctx 0 0)).quiet = false) ∧
    (let r := Trap.plain .align
     let s := run .c { trapping with stop := some (.trap .x r) }
     (s.ctx 0 0).stop = some (.trap .x r) ∧ (s.ctx 0 0).quiet = true ∧ (s.ctx 0 0).delivery r = .handler ∧
     ({ s.ctx 0 0 with handler := true } : Ctx).delivery r = .fatal) ∧
    (let r := { Trap.plain .loadFault with x := some ⟨true, 0, .read, 0⟩ }
     let s := run .c { trapping with stop := some (.trap .x r) }
     (s.ctx 0 0).stop = some (.trap .x r) ∧ (s.ctx 0 0).quiet = true ∧ (s.ctx 0 0).delivery r = .resumable ∧
     (s.ctx 0 0).noMatrix) := by decide +kernel

/-- A saved context of guest 0. -/
def savedCtx : Saved :=
  { (default : Saved) with img := { Ctx.fresh with power := CtxPower.empty }, ticket := none, result := none, hcall := none, behind := none }

theorem hyps_SavesAndRestores :
    (let s := run .c full
     (s.ctx 0 0).bound = true ∧ (s.ctx 0 0).noMatrix ∧ (s.ctx 0 0).stop = none ∧
     s.stopDue 0 (s.ctx 0 0) .firmware = true) ∧
    (let s := run .c { full with stop := some (.trap .s (Trap.plain .align)) }
     (s.ctx 0 0).bound = true ∧ (s.ctx 0 0).noMatrix ∧ (s.ctx 0 0).late = none ∧
     (s.ctx 0 0).stop = some (.trap .s (Trap.plain .align)) ∧ s.stopDue 0 (s.ctx 0 0) .firmware = true) ∧
    (let s := run .c { full with stop := some (.preempt .window) }
     (s.ctx 0 0).quiet = true ∧ (s.ctx 0 0).stop = some (.preempt .window) ∧ (StopWhy.window ≠ .yield)) ∧
    (let s := run .c { full with stop := some (.hcall 1 2 31) }
     (s.ctx 0 0).quiet = true ∧ (s.ctx 0 0).stop = some (.hcall 1 2 31) ∧ (s.ctx 0 0).noMatrix) ∧
    (let s := { shared 100 State.reset with saved := [(3, { savedCtx with result := some (31, 5) })] }
     let e := { savedCtx with result := some (31, 5) }
     s.saved.find 3 = some e ∧ e.ticket = none ∧ e.img.matrix.binding = none ∧ s.restoreCore e = some 0 ∧
     s.ahead 0 (s.savedPrio e) e.since = false ∧ s.restorePlan e.img 0 = some (0, []) ∧ e.result = some (31, 5)) ∧
    (let e := { savedCtx with ticket := some 9, hcall := some 4 }
     ({ State.reset with saved := [(3, e)] } : State).ticketed 9 = some (3, e)) := by
  refine ⟨?_, ?_, ?_, ?_, ?_, ?_⟩ <;> decide +kernel

/-- The bytes of a kernel descriptor that passes the checks: NBV 2, one tile group, entries of 8 bytes. -/
def descriptor : List Byte :=
  leBytes 2 1 ++ [2, 0, 15, 1, 0, 0] ++ leBytes 8 0 ++
    (List.range 4).flatMap (fun i => leBytes 8 (256 + 8 * i)) ++ (List.range 4).flatMap (fun i => leBytes 4 (256 + 8 * i) ++ leBytes 4 8) ++
    leBytes 176 0

/-- A launch of guest 0 on partition 0, without a launch record's queue. -/
def live (k : Launch) (s : State) : State := { shared 100 s with launches := [(5, k)] }

theorem hyps_Launches :
    (let r : BRec := { rec0 with bytes := leBytes 8 0x1000 ++ leBytes 56 0 }
     let s0 := shared 100 { State.reset with
       queues := [(2, queue 2 2 [r])], cores := bazaar
       dram := { State.reset.dram with bytes := Memory.write [] 0x1000 descriptor } }
     (s0.queue 2).recs = r :: [] ∧ (s0.queue 2).enable = true ∧ (s0.queue 2).kind = 2 ∧ s0.heldLaunches r.guest < 64 ∧
     s0.resets.contains r.guest = false ∧ s0.still (s0.partOf r.guest) = false ∧ recField r.bytes 0 8 % 2 ^ 12 = 0 ∧
     recField r.bytes 8 8 = 0 ∧
     (match s0.readGuest 0 0 (recField r.bytes 0 8 % 2 ^ 57) 32 with
      | .ok _ b => decide (b = descriptor)
      | _ => false) = true ∧
     s0.recordFails 0 r.bytes = [] ∧ descFails descriptor [] = [] ∧ s0.capacity 0 (kdesc descriptor) = 0 ∧
     (s0.recordFails 0 (leBytes 8 1 ++ leBytes 56 0)).min? = some 0 ∧ (descFails (leBytes 256 0) []).min? = some 0 ∧
     s0.capacity 0 { kdesc descriptor with tiles := 36 } = 2) ∧
    (let s := live launched State.reset
     s.launches.find 5 = some launched ∧ s.launchTarget launched 0 = some 0 ∧ s.freeSlot 0 = some 0 ∧
     s.nextFor launched 0 = some 0 ∧ s.mayRun launched.guest = true ∧ s.clocksRun = true ∧
     s.fits 0 launched.desc.ask = true ∧ s.keptOff 0 5 0 launched = false ∧ s.ahead 0 launched.prio launched.since = false) ∧
    (let l := { launched with placed := [0], live := 1 }
     let c := { full with launch := 5, seq := Quad.all { full.seq.c with ended := true, done := true } }
     let s := live l (run .c c)
     (s.ctx 0 0).bound = true ∧ (s.ctx 0 0).stop = none ∧ (s.ctx 0 0).handler = false ∧ (s.ctx 0 0).quiet = true ∧
     (s.ctx 0 0).q0.jobs = [] ∧ (s.ctx 0 0).q1.jobs = [] ∧ s.jointsOpen 0 0 = false ∧
     (∀ z ∈ Sq.order, ((s.ctx 0 0).seq.get z).done = true) ∧ s.launches.find (s.ctx 0 0).launch = some l ∧
     l.end_ = none ∧ l.live = 1 ∧ l.total ≤ l.placed.length) ∧
    (let l := { launched with end_ := some (0, 0) }
     let s := live l State.reset
     s.launches.find 5 = some l ∧ l.posted = false ∧ s.powered = true ∧ recField l.record 56 8 / 2 ^ 15 % 2 = 0) ∧
    (let l := { launched with end_ := some (0, 0), record := leBytes 56 0 ++ leBytes 8 0x8000 }
     let s := { live l State.reset with queues := [(0, queue 0 1 [])] }
     s.recordBefore 0 l.endedAt = false ∧ recField l.record 56 8 / 2 ^ 15 % 2 = 1 ∧ (s.queue 0).enable = true ∧ (s.queue 0).kind = 0 ∧
     (s.queue 0).room 1 = true) := by refine ⟨?_, ?_, ?_, ?_, ?_⟩ <;> decide +kernel

theorem hyps_TasksAndGroups :
    (let k := task (leBytes 128 0)
     let s := { State.reset with tasks := [(7, k)] }
     s.tasks.find 7 = some k ∧ k.ready = true ∧ k.readyAt = none) ∧
    (let k := { task (leBytes 128 0) with readyAt := some 3 }
     let s := { shared 100 (run .c full) with
       tasks := [(7, k)], queues := [(1, queue 1 1 [{ rec0 with task := 7 }])], time := 13 }
     s.tasks.find 7 = some k ∧ k.readyAt ≠ none ∧ k.held = false ∧ s.mayRun k.guest = true ∧
     s.firstReady k.queue 7 = true ∧ s.taskOwner k = some 0 ∧
     fewest (s.handlersOn 0 k.guest (taskRec k.bytes).handler) = some 0 ∧
     3 + (s.queue k.queue).ageing ≤ s.time ∧ s.popped 7 = false) ∧
    (let k := { task (leBytes 128 0) with readyAt := some 3, stealable := true }
     let c := { full with tasks := { full.tasks with feedWait := some ⟨[], true, true, 0⟩ } }
     let s := { shared 100 (run .c c) with tasks := [(7, k)] }
     k.stealable = true ∧ s.popped 7 = false ∧ s.idleFor k 0 0 = true ∧ s.mayRun k.guest = true ∧
     (∀ e ∈ s.tasks, e.2.stealable = true → s.popped e.1 = false → s.idleFor e.2 0 0 = true →
       k.readyAt.getD 0 ≤ e.2.readyAt.getD 0) ∧ Tbl.rising 0 s.ctxs = true) ∧
    (let m : Memory := ((groupMem 1).write 0x418 (leBytes 8 (5 + 5 * 2 ^ 32)))
     let s := { State.reset with groups := [(0x400, 0)], dram := { State.reset.dram with bytes := m } }
     s.groups.find 0x400 ≠ none ∧ s.powered = true ∧ s.locked 0x400 = false ∧ s.dram.bytes.num (0x400 + 24) 4 ≠ 0 ∧
     s.dram.bytes.num (0x400 + 24) 4 ≤ s.dram.bytes.num (0x400 + 28) 4) ∧
    (∀ st ∈ [(1, 1), (1, 2), (5, 3)],
      let m : Memory := (groupMem 1).write (0x400 + 640) (leBytes 4 st.1 ++ leBytes 4 st.2)
      let s := { State.reset with groups := [(0x400, 0)], dram := { State.reset.dram with bytes := m } }
      s.dram.bytes.num 0x400 1 % 128 = 2 ∧ ∀ i ∈ List.range 2, s.dram.bytes.num (0x400 + 640 + 4 * i) 4 % 4 ≠ 0) := by
  refine ⟨?_, ?_, ?_, ?_, ?_⟩ <;> decide +kernel
/-! ### Hypotheses of the statements: the rest of the part. Where a hypothesis is about a value that the spec leaves
open (a fused floor, a signature, the layout of a request), no state can be shown to meet it or not to meet it; those
hypotheses come in pairs of which one holds. -/

theorem foldl_max_le (g : Nat → Nat) (b : Nat) (h : ∀ n, g n ≤ b) :
    ∀ (l : List Nat) (a : Nat), a ≤ b → l.foldl (fun a k => max a (g k)) a ≤ b
  | [], _, ha => ha
  | k :: l, a, ha => foldl_max_le g b h l (max a (g k)) (Nat.max_le.mpr ⟨ha, h k⟩)

/-- No floor is above code 59 (13 R333). -/
theorem vfloor_le (n f : Nat) : Config.vfloor n f ≤ 59 :=
  foldl_max_le _ 59 (fun k => by split <;> omega) _ 0 (by omega)

/-- A context that asks for level 12 and waits. -/
def asking : Ctx := { full with power := { CtxPower.empty with waits := [(.x, 12)] } }

theorem hyps_GrantsAndClocks :
    (let s0 := shared 100 (run .x asking)
     let s := { s0 with power := { s0.power with reqs := [.ctx 0 .x] } }
     s.power.reqs = .ctx 0 .x :: [] ∧ s.power.loans = [] ∧ s.clocksRun = true ∧ (s.ctx 0 0).bound = true ∧
     (s.ctx 0 0).power.given = none ∧ (s.ctx 0 0).power.waits.find? (fun e => e.1 == .x) = some (.x, 12) ∧ (s.ctx 0 0).power.g < 12 ∧
     s.extraFor 0 0 12 ≤ s.freeUnits (s.ctx 0 0).part) ∧
    (let b : Ctx := { asking with part := 1, power := { CtxPower.empty with g := 15, a := 15 } }
     let s0 := { shared 11 (run .x asking) with
       ctxs := [(0, asking), (8, b)]
       parts := [(0, { PartSt.empty with pairs := 1 }), (1, { PartSt.empty with pairs := 2 })] }
     let s := { s0 with power := { s0.power with reqs := [.ctx 0 .x], loans := [⟨0, 8, 5, 5⟩] } }
     s.power.loans = [⟨0, 8, 5, 5⟩] ∧ (s.lacking 0).isSome = true) ∧
    (let s0 := shared 100 (run .x full)
     let s := { s0 with power := { s0.power with loans := [⟨0, 8, 5, 3⟩] } }
     s.power.loans = [⟨0, 8, 5, 3⟩] ∧ s.covers 0 = false ∧ s.overrun 0 = false ∧ 5 - 3 ≤ s.freeUnits 0) ∧
    ((56 < 57 ∨ 70 < 0) ∧ (56 ≤ 56 ∧ 70 ≤ 70) ∧ Config.vfloor 7 56 ≤ 70) ∧
    (State.reset.partsIn 7 = [] ∧ State.reset.partsIn 0 = []) ∧
    (State.reset.cluster 7).req = none ∧ ({ State.reset.cluster 0 with req := some ⟨40, 40, 40⟩ } : Cluster).req ≠ none ∧
    (let s := (State.reset.setCluster 3 { State.reset.cluster 3 with req := some ⟨40, 40, 44⟩ }).setRail 1 ⟨60, 0, none⟩
     (s.cluster 3).req = some ⟨40, 40, 44⟩ ∧ s.power.trip.tripped = false ∧ 40 ≤ (s.cluster 3).fNow ∧
     (s.rail (s.cluster 3).rail).v = 60) ∧ Config.vfloor 3 40 ≤ 60 ∧
    (let s := { State.reset.setCluster 3 { State.reset.cluster 3 with withdraw := some (38, 100) } with time := 100 }
     (s.cluster 3).withdraw = some (38, 100) ∧ 100 ≤ s.time) ∧
    (let s := State.reset.setRail 3 ⟨40, 0, some 0⟩
     (s.rail 3).hold = some 0 ∧ 0 ≤ s.time) ∧
    (State.reset.setRail 0 ⟨State.reset.railTarget 0, 0, none⟩).railTarget 0 = State.reset.railTarget 0 ∧
    (∀ k ∈ List.range 64, clusterOf k = 7 → State.reset.onCore k = []) ∧
    (let s := run .c full
     ∃ k ∈ List.range 64, clusterOf k = 0 ∧ (s.onCore k).length ≠ 0) := by
  refine ⟨?_, ?_, ?_, ⟨by decide, by decide, Nat.le_trans (vfloor_le 7 56) (by decide)⟩, ?_, ?_, ?_, ?_,
    Nat.le_trans (vfloor_le 3 40) (by decide), ?_⟩ <;> decide +kernel

theorem hyps_SamplesAndStates :
    let s10 := { State.reset with time := 10 }
    (s10.due (2 + 7) 10 = true ∧ ((State.reset.cluster 7).gov).getLsbD 0 = false ∧
      ({ State.reset.cluster 7 with gov := 1 + (1#64 <<< 5) + (20#64 <<< 28) + (4#64 <<< 1) } : Cluster).govern 256 1 = some 36) ∧
    ([105, 104, 0, 0, 0, 0, 0, 114].length = 8 ∧ s10.due 1 10 = true ∧
      ∀ n ∈ List.range 8, [105, 104, 0, 0, 0, 0, 0, 114].getD n 0 < 115) ∧
    (115 ≤ [0, 0, 0, 0, 0, 0, 0, 115].getD 7 0 ∧ (∀ k ∈ List.range 7, [0, 0, 0, 0, 0, 0, 0, 115].getD k 0 < 115) ∧
      s10.power.trip.tripped = false) ∧
    (let s := { State.reset with time := 100 }
     s.due (16 + 7) 100 = true ∧ s.power.trip.tripped = false ∧ (s.cluster 7).throttled = false) ∧
    (let c : Cluster := { State.reset.cluster 7 with throttled := true, temp := 105 }
     c.throttled = true ∧ 105 ≤ c.temp ∧ 100 ≤ ({ c with temp := 104 } : Cluster).temp ∧
       ({ c with temp := 99 } : Cluster).temp < 100) ∧
    (let c : Cluster := { State.reset.cluster 0 with throttled := true, temp := 0, lastReq := 44 }
     c.fNow < c.lastReq ∧ min (c.fNow + 4) c.lastReq = 44 ∧
     ((shared 100 State.reset).setCluster 0 c).clockFits 0 44 = true ∧
     ((shared 1 State.reset).setCluster 0 c).clockFits 0 44 = false) ∧
    (let s := { State.reset with power := { State.reset.power with trip := ⟨true, 0, 115, 1⟩ } }
     s.power.trip.tripped = true ∧ (∀ n ∈ List.range 8, (s.cluster n).temp < 100) ∧
     ∃ n ∈ List.range 8, 100 ≤ ((s.setCluster 7 { s.cluster 7 with temp := 100 }).cluster n).temp) ∧
    (let s := { State.reset with time := 10, power := { State.reset.power with idleInterval := 10 } }
     s.power.state = .active ∧ s.power.idleInterval ≠ 0 ∧ s.quietNow = true ∧ s.power.trip.tripped = false ∧
     (∀ e ∈ s.fws, e.2.released = true → e.2.asleep = true) ∧ s.power.quietSince + s.power.idleInterval ≤ s.time) ∧
    ({ State.reset.power with state := .idle } : Power).state = .idle ∧
    ({ State.reset.power with state := .retention } : Power).state = .retention ∧
    State.reset.powered = true ∧ State.reset.topTime ≤ 2 ^ 62 ∧ ∀ e ∈ State.reset.ctxs, e.2.bound = false := by
  refine ⟨?_, ?_, ?_, ?_, ?_, ?_, ?_, ?_⟩ <;> decide +kernel

theorem hyps_RingEvents :
    (State.reset.powered = true ∧ (State.reset.part (State.reset.partOf (1599 / 8))).off = false ∧
      (kring 0 0).usable = true ∧ ({ kring 0 0 with enable := false } : KRing).usable = false ∧
      (kring 0 0).bound = none ∧ 15 % 2 ^ 16 ≠ (kring 0 0).head ∧ (65536 + 3) % 2 ^ 16 = (kring 3 0).head) ∧
    (State.reset.guestOfFn 192 = 1599 / 8 ∧ (State.reset.fn 192).busy = false ∧ (kring 0 0).enable = true ∧
      ({ kring 0 0 with bound := some (0, 0) } : KRing).bound ≠ none) ∧
    (({ State.reset with time := 100 } : State).due 0 100 = true ∧ Tbl.rising 0 State.reset.rings = true ∧
      State.reset.due 0 100 = false) ∧
    (let i : CqItem := ⟨0, 0, 0, 5, 0, some 3⟩
     let c : Cq := { (default : Cq) with ctl := 0x14, held := [i] }
     let s := { State.reset with cqs := [(8, c)], links := ⟨true, 16, 5, []⟩ }
     (s.cq 8).held = i :: [] ∧ (s.cq 8).open_ = true ∧ s.links.hostUp = true ∧ s.powered = true ∧ i.launch = some 3) ∧
    (let c : FwCore := { FwCore.empty with evWait := [⟨0, 0, 0, 0, 0, 0, 0, ⟨0, 0, 0, 0⟩, 0⟩], evTail := 61 }
     (c.evWait.length = 1) ∧ (c.evTail + 64 - c.evHead) % 64 ≠ 63) := by
  refine ⟨?_, ?_, ?_, ?_, ?_⟩ <;> decide +kernel

/-- A partition that runs a frame of two windows. -/
def framed (window : Nat) : PartSt :=
  { PartSt.empty with w0 := 100 + (1#64 <<< 14) + (1#64 <<< 18), lens := [(0, 50), (1, 50)], run := [500, 500]
                      window := window, edge := 500 }

theorem hyps_Contracts :
    (∀ w ∈ [0, 1], let s := { run .c full with parts := [(0, framed w)], time := 500 }
      (s.part 0).enabled = true ∧ (s.part 0).edge ≤ s.time ∧ (∀ e ∈ s.ctxs, e.2.noMatrix) ∧
      Tbl.rising 0 s.guests = true ∧ Tbl.rising 0 s.ctxs = true ∧ (s.ctx 0 0).bound = true ∧ (s.ctx 0 0).stop = none ∧
      (s.ctx 0 0).part = 0 ∧ (s.guest 199).part = 0 ∧
      (if w = 0 then (s.part 0).window + 1 < (s.part 0).run.length else (s.part 0).run.length ≤ (s.part 0).window + 1)) ∧
    (let s := { run .c full with guests := [(0, { Guest.empty with e0 := 7, charge := 7 })] }
     s.exhausted 0 = true ∧ (s.guest 0).told = false ∧ (∀ e ∈ s.ctxs, e.2.noMatrix) ∧ Tbl.rising 0 s.ctxs = true) ∧
    (let p : PartSt := { framed 0 with w0 := 100 }
     let lens := (List.range 2).map p.lenOf
     p.enabled = false ∧ lens.sum = 100 ∧ (∀ n ∈ lens, n ≠ 0) ∧ 100 ≤ 100 ∧ lens.sum ≠ 10000) ∧
    ((queue 0 1 [rec0]).enable = true ∧ (queue 0 1 [rec0]).recs ≠ [] ∧ (BQueue.empty).enable = false ∧
      (0x30000 : Word).extractLsb' 16 2 = 3 ∧ (0x20000 : Word).extractLsb' 16 2 ≠ 3) ∧
    (regHalves 63 8 = none ∧ regHalves 4 8 = none ∧ (∀ fn, Writer.vesper ≠ .host fn) ∧ (∀ fn, Writer.sched 3 ≠ .host fn) ∧
      ¬ (shared 100 State.reset).shareFits 0 511 ∧ (shared 100 State.reset).shareFits 0 100 ∧
      ∀ l ∈ List.range 16, (State.reset.guest 0).waysEff.get 0 l = (State.reset.guest 0).ways.get 0 l) := by
  refine ⟨?_, ?_, ?_, ?_, ?_, ?_, ?_, ?_, ?_⟩
  all_goals first | decide +kernel | (intro fn h; cases h)

theorem hyps_MovesAndResets :
    (let s := { State.reset with parts := [(0, { PartSt.empty with pairs := 3, slices := 3, chans := 1 })] }
     s.move15.busy = false ∧
     (∀ k ∈ [0, 1, 3], let w := moveWord k 0 7 (if k = 3 then 0 else 1) 3
       s.ownsMoved w = true ∧ s.strands w = false ∧ s.listed w = true) ∧
     (let w := moveWord 2 0 7 1 0
      s.ownsMoved w = true ∧ s.strands w = false ∧ s.listed w = false) ∧
     s.ownsMoved (moveWord 0 0 7 4 0) = false) ∧
    (∀ k ∈ [0, 1], let s := { State.reset with move15 := ⟨moveWord k 0 7 1 0, true, 2, 0⟩ }
      s.move15 = ⟨moveWord k 0 7 1 0, true, 2, 0⟩ ∧ (∀ e ∈ s.ctxs, e.2.bound = false) ∧ s.resetsLater = []) ∧
    (State.reset.resets.contains 199 = false ∧ State.reset.move15.busy = false ∧
      Tbl.rising 0 (run .c { full with guest := 8 }).ctxs = true ∧ ((run .c { full with guest := 8 }).ctx 0 0).guest = 8) ∧
    ({ State.reset with resets := [8] } : State).resets.contains 8 = true := by
  refine ⟨?_, ?_, ?_, ?_⟩ <;> decide +kernel

theorem hyps_RegistersAndWindows :
    State.reset.powered = true ∧ State.reset.power.state ≠ .off ∧ 0x1105000C % 8 ≠ 0 ∧ (2 ≠ 4 ∧ 2 ≠ 8) ∧
    regAt 0x11FFFFFF = none ∧ regAt 0x12093000 = none ∧ vregAt 0x50000000 = none ∧
    regAt 0x11050008 = some .result ∧ regAt 0x12091010 = some (.cluster 0 2) ∧
    (∀ k ∈ List.range 4, ((0xF777 : Word).extractLsb' (4 * k) 4).toNat < 8 ∨ ((0xF777 : Word).extractLsb' (4 * k) 4).toNat = 15) ∧
    (let s := { State.reset with links := ⟨true, 16, 5, []⟩
                                 trust := { State.reset.trust with policy := [⟨1, 0, 0, 0x200000, 0x200000⟩] } }
     s.links.hostUp = true ∧ s.pf0Range 0x3FFFF8 8 = true ∧ 0x3FFFF8 + 8 ≤ 2 ^ 36 ∧ fitted 0x3FFFF8 = true ∧ s.locked 0x3FFFF8 = false ∧
     s.pf0Range 0x400000 8 = false) ∧
    (let s := { State.reset with links := { State.reset.links with wz := [(0, 1)] } }
     s.peerUp = true ∧ fitted (0xFFFFFFF8 + 7) = true ∧ s.locked 0xFFFFFFF8 = false) := by
  refine ⟨?_, ?_, ?_, ?_, ?_, ?_, ?_, ?_, ?_, ?_, ?_, ?_⟩ <;> decide +kernel

theorem hyps_SchedulerBase :
    let w : Writer := .sched 0
    let at_ (a : Word) : State := fw [(1, a)] [] []
    (((({ FwCore.empty with pc := 0x100000 } : FwCore).interrupt = none) ∧ rvSram w ≤ 0x100000 ∧
      rvSram .vesper ≤ rvAddr .vesper 0x100000) ∧
     0x180 / 2 ^ 8 % 4 ≤ 1 ∧ (FwCore.empty.csr w 0x300).isSome = true ∧ (FwCore.empty.csr .vesper 0x300).isSome = true) ∧
    (rvAddr w (((at_ 0x10000000001).agent w).reg 1 + 0) % 2 ≠ 0 ∧ rvPlace w 0x11FFFFFF = .none ∧
      rvPlace .vesper 0x10000000000 = .none) ∧
    (let s := at_ 0x10000000400
     let a := rvAddr w ((s.agent w).reg 1 + 0)
     a % 8 = 0 ∧ rvPlace w a = .device 0x400 ∧ s.dram.badIn 0x400 8 = false ∧ s.locked 0x400 = false ∧
     ({ s with dram := { s.dram with locks := [(0, some 7)] } } : State).locked 0x400 = true ∧
     ({ s.agent w with reservation := some (a, 8, s.rvStamp w a) } : FwCore).reservation = some (a, 8, s.rvStamp w a) ∧
     (s.agent w).reservation ≠ some (a, 8, s.rvStamp w a)) ∧ ∀ fn, w ≠ .host fn := by
  refine ⟨?_, ?_, ?_, ?_⟩
  all_goals first | decide +kernel | (intro fn h; cases h)

/-- A camera or display of guest 0 on queue 0, its display queue 1. -/
def stream (display : Bool) : Stream :=
  { (default : Stream) with w0 := (if display then 3 else 1) + (1#64 <<< 29), w1 := 100, w2 := 0x1000, w3 := 64 + (1#64 <<< 32) }

theorem hyps_LinksAndStreams :
    (let s := { State.reset with links := { State.reset.links with wz := [(1, 1)] } }
     (s.links.wz.get 0 1).getLsbD 0 = true ∧ Tbl.rising 0 s.ctxs = true) ∧
    (let s := { State.reset with streams := [(95, stream false)], queues := [(0, queue 0 1 [])], time := 100
                                 cores := bazaar }
     s.powered = true ∧ (s.stream 95).enabled = true ∧ (s.stream 95).display = false ∧ s.served 95 = false ∧
     s.feedFor (s.stream 95).outQ (s.stream 95).guest = true ∧ (s.queue (s.stream 95).outQ).room 1 = true ∧
     (s.stream 95).period ≠ 0 ∧ (s.stream 95).start + (s.stream 95).period ≤ s.time ∧
     ({ s with time := 99 } : State).time < (s.stream 95).start + (s.stream 95).period ∧
     (match s.stirred.writePieces 0 0 false (pieces 128 ((s.stream 95).slotOf 0) ((leBytes 200 5).take 64)) with
      | .ok _ _ _ => true
      | _ => false) = true ∧ (s.serve 95).served 95 = true) ∧
    (∀ rs ∈ [[rec0], []],
      let s := { State.reset with streams := [(95, stream true)], queues := [(0, queue 0 1 []), (1, queue 0 1 rs)] }
      (s.stream 95).display = true ∧ s.served 95 = false ∧ s.feedFor (s.stream 95).outQ 0 = true ∧
      (s.queue (s.stream 95).outQ).room 1 = true ∧ s.feedFor (s.stream 95).inQ 0 = true ∧
      (s.stream 95).inQ ≠ (s.stream 95).outQ ∧ (s.queue (s.stream 95).inQ).recs.getLast? = rs.head?) := by
  refine ⟨?_, ?_, ?_⟩ <;> decide +kernel

theorem hyps_VesperCommands :
    let off := { State.reset with power := { State.reset.power with state := .off } }
    let s := { State.reset with vesper := { State.reset.vesper with ready := true, lock := some .sideBand }
                                parts := [(0, { PartSt.empty with pairs := 3 })] }
    off.power.state = .off ∧ s.power.state ≠ .off ∧ s.wake.pipeLocked 95 (s.stream 95) = false ∧
    State.reset.vesper.ready = false ∧ s.vesper.ready = true ∧ s.vesper.lock ≠ some .host ∧ s.vesper.lock ≠ none ∧
    State.reset.vesper.lock = none ∧ s.powered = true ∧ s.move15.busy = false ∧
    (let w := moveWord 0 0 7 1 0
     s.ownsMoved w = true ∧ s.strands w = false ∧ s.listed w = true ∧ s.ownsMoved (moveWord 0 7 0 1 0) = false) ∧
    (let w : Word := 1 + (23#64 <<< 2)
     let x : Stream := { (default : Stream) with w0 := w }
     x.enabled = true ∧ x.port ≤ 23 ∧ s.wake.pipeLocked 95 x = false ∧
     s.wake.pipeLocked 95 { s.stream 95 with w0 := w &&& 0x000001FFFFFFFFFF, w1 := 0, w2 := 0, w3 := 0 } = false) ∧
    (∀ e ∈ s.ctxs, e.2.bound = false) ∧ s.wake.inTransition = false ∧ s.wake.tokenOk [] = false := by
  refine ⟨?_, ?_, ?_, ?_, ?_, ?_, ?_, ?_, ?_, ?_, ?_, ?_, ?_, ?_, ?_⟩ <;> decide +kernel

theorem hyps_BootDebugAndAttestation :
    (State.reset.trust.booted = false ∧ State.reset.trust.failed = none ∧
      ([0, 0x01000000].find? State.reset.trust.accepts).isNone = true) ∧
    (let s := { State.reset with trust := { State.reset.trust with nonce := some ([], 60000000) } }
     s.trust.nonce = some ([], 60000000)) ∧
    (let s := { run .c { full with halted := true } with trust := { State.reset.trust with debug := 2, keys := false } }
     s.debuggable 0 0 = true ∧ (s.ctx 0 0).halted = true ∧ (s.ctx 0 0).quiet = true ∧
     (s.ctx 0 0).allocated 0x3FFFFF = true ∧ s.debuggable 63 3 = false ∧ 31 < (s.ctx 0 0).tilesN ∧
     ((s.ctx 0 0).readSr 0 0 (s.core 0).cycle .s 0x10F).isSome = true ∧ srWritable 0x15 = true) ∧
    (let u : Trust := { State.reset.trust with spdm := 3, algs := 3, sessions := [(5, true), (4, false)] }
     State.reset.powered = true ∧ u.spdm = 3 ∧ u.algs.testBit 1 = true ∧ u.algs = 3 ∧ u.keys = true ∧
     u.sessions.contains (4, false) = true ∧ u.sessions.contains (5, true) = true ∧ (u.block 16).isSome = true ∧
     (u.block 0xFD).isSome = true ∧ ({ u with keys := false } : Trust).keys = false) := by
  refine ⟨?_, ?_, ?_, ?_⟩ <;> decide +kernel

/-! ### Results of one step, from the spec's tables and worked examples -/

/-- What the youngest instruction in flight of the executing sequencer does at its retire. -/
def effects (o : Host.Outcome State Fault Refusal) : List Effect :=
  match o with | .next t => (t.sq.inflight.getLast?.map (·.effects)).getD [] | .fault _ => [] | .refused _ => []

/-- The pending trap of the executing context. -/
def trapped (o : Host.Outcome State Fault Refusal) : Option Trap :=
  match o with
  | .next t => match t.me.stop with | some (.trap _ x) => some x | _ => none
  | .fault _ => none
  | .refused _ => none

/-- The pc of the executing sequencer. -/
def pcOf (o : Host.Outcome State Fault Refusal) : Option (BitVec 57) :=
  match o with | .next t => some t.sq.pc | .fault _ => none | .refused _ => none

/-- Two scalar operands in s4 and s5. -/
def two (x y : Word) : State := run .c (regs .c [(4, x), (5, y)] full)

/-- 04 Table 4.7: division by zero, its overflow, and a remainder with the sign of x. -/
theorem test_division : effects (exec (.div cm0 (.s 3) (.s 4) (.s 0)) (two 7 0)) = [.s 3 0xFFFFFFFFFFFFFFFF] ∧
    effects (exec (.div cm0 (.s 3) (.s 4) (.s 5)) (two 0x8000000000000000 0xFFFFFFFFFFFFFFFF)) =
      [.s 3 0x8000000000000000] ∧
    effects (exec (.rem cm0 (.s 3) (.s 4) (.s 5)) (two 0xFFFFFFFFFFFFFFF9 2)) = [.s 3 0xFFFFFFFFFFFFFFFF] ∧
    effects (exec (.remu cm0 (.s 3) (.s 4) (.s 0)) (two 7 0)) = [.s 3 7] := by decide +kernel

/-- 04 Table 4.7: the high half of signed and unsigned products, and a shift by y mod 64. -/
theorem test_products_and_shifts :
    effects (exec (.mulh cm0 (.s 3) (.s 4) (.s 5)) (two 0xFFFFFFFFFFFFFFFF 2)) = [.s 3 0xFFFFFFFFFFFFFFFF] ∧
    effects (exec (.mulhu cm0 (.s 3) (.s 4) (.s 5)) (two 0xFFFFFFFFFFFFFFFF 2)) = [.s 3 1] ∧
    effects (exec (.sll cm0 (.s 3) (.s 4) (.s 5)) (two 1 65)) = [.s 3 2] ∧
    effects (exec (.sra cm0 (.s 3) (.s 4) (.s 5)) (two 0x8000000000000000 63)) = [.s 3 0xFFFFFFFFFFFFFFFF] := by
  decide +kernel

/-- 04 R71: an extracted field is sign-extended; an inserted one leaves the other bits. -/
theorem test_fields : effects (exec (.bfx cm0 (.s 3) (.s 4) 4 3 true) (two 0x80 0)) = [.s 3 0xFFFFFFFFFFFFFFF8] ∧
    effects (exec (.bfi cm0 (.s 5) (.s 4) 8 7) (two 0xAB 0xFFFFFFFFFFFF1234)) = [.s 5 0xFFFFFFFFFFFFAB34] := by
  decide +kernel

/-- 02 R28, 03: s0 reads as zero, and a write to it does nothing. -/
theorem test_register_zero : effects (exec (.addi cm0 (.s 0) (.s 4) 1) (two 7 0)) = [] ∧
    effects (exec (.addi cm0 (.s 3) (.s 0) (-1)) (two 7 0)) = [.s 3 0xFFFFFFFFFFFFFFFF] := by decide +kernel

/-- 04 R74, R78: a branch reads its condition, and its target is the word that PBR named. -/
theorem test_branch : pcOf (exec (.br cm0 3 1 false) (run .c flowing)) = some 64 ∧
    pcOf (exec (.br cm0 3 1 true) (run .c flowing)) = some 8 ∧
    effects (exec (.pbr cm0 2 (-3)) (run .c (full.setSeq .c { full.seq.c with pc := 64 }))) = [.b 2 ⟨40, true⟩] := by
  decide +kernel

/-- 04 R75: a branch through a register that is not prepared traps BAD_TARGET, at no issue. -/
theorem test_branch_unprepared :
    trapped (exec (.br cm0 0 1 false) (run .c flowing)) = some (Trap.plain .badTarget) := by decide +kernel

/-- 04 R65: MTS to a read-only register traps ILLEGAL_ENC, to TRAP.PC outside the handler PRIV. -/
theorem test_special_register_writes : trapped (exec (.mts cm0 0x003 (.s 1)) (run .c full)) = some (Trap.plain .illegalEnc) ∧
    trapped (exec (.mts cm0 0x012 (.s 1)) (run .c full)) = some (Trap.plain .priv) ∧
    trapped (exec (.mfs cm0 (.s 1) 0x00C) (run .c full)) = some (Trap.plain .illegalEnc) := by decide +kernel

/-- 06 R130: a signed byte load at the top of the scratchpad; a half-word beyond it, or misaligned, traps. -/
theorem test_scratchpad_loads : effects (exec (.lds cm0 (.s 2) (.s 0) 0 true 7)
      (run .c (spad full 7 [0x80]))) = [.s 2 0xFFFFFFFFFFFFFF80] ∧
    trapped (exec (.lds cm0 (.s 2) (.s 0) 1 false 7) (run .c full)) ≠ none := by decide +kernel

/-- 09 Table 9.1: 1 + 1 = 2 in FP32, in each element of the line. -/
theorem test_vector_add :
    let one : LineBits := lineOf fun _ => 0x3F800000
    let z : Tile := { ({ Tile.empty with tag := 1 } : Tile).writeLine .row 0 one (BitVec.allOnes 2048) with tag := 1 }
    effects (exec (.vfadd cm0 (.tile (tl 0)) (.tile (tl 1)) (.tile (tl 1)) 0) (run .x { full with tiles := [(0, z), (1, z)] }))
      = effects (exec (.vmov cm0 (.tile (tl 0)) (.tile (tl 2)) 0) (run .x { full with tiles :=
          [(0, z), (2, { z.writeLine .row 0 (lineOf fun _ => 0x40000000)
                          (BitVec.allOnes 2048) with tag := 1 })] })) := by decide +kernel


/-- 14 Table 14.10: TRAP.INFO of the worked run, a load of X at an entry that is not valid; 19: of the six loads. -/
theorem test_trap_info :
    (Trap.mk .loadFault true 0x2000003000 0 false (some ⟨false, 0, .read, 0⟩) 0 false).info .x false = 0x600 ∧
    (Trap.mk .loadFault true 0 0 false (some ⟨false, 3, .read, 2⟩) 0 false).info .x false = 0x86600 := by decide +kernel

/-- 11 Table 11.9: the block pair of the worked example under both numeric versions. -/
theorem test_block_pair :
    let rec' : LineBits := BitVec.ofNat 2048 1
    let one : Operand := ⟨fun k => if k = 0 then BitVec.ofNat 2048 (0x7F + 0x7F * 2 ^ 1024) else if k = 4 ∨ k = 20 then rec' else 0,
      none, true, false, 0, 4⟩
    unitCell 2 false one one 0 0 [0] 0x4B800000 = (0x4B800000, { nx := true }) ∧
    unitCell 1 false one one 0 0 [0, 1] 0x4B800000 = (0x4B800001, {}) ∧
    unitCell 2 false one one 0 0 [1] 0 = (0x3F800000, {}) := by decide +kernel

/-- 11 Table 11.9: the status word of that MMA. -/
theorem test_matrix_status :
    ({ mrun 0x12010000 2 with pc := 0x401208 } : MatRun).status 0 0 true = 0x0241000000024030 := by decide +kernel

/-- 20 Table 20.6: PWR.CLK of clusters 2 and 5. -/
theorem test_power_words :
    let s := State.reset.setCluster 2 { (State.reset.cluster 2) with fReq := 32, vReq := 26, fNow := 32, status := 0, rail := 0 }
    let s := s.setCluster 5 { (s.cluster 5) with fReq := 56, vReq := 50, fNow := 48, status := 2, rail := 2 }
    let s := (s.setRail 0 ⟨26, 0, none⟩).setRail 2 ⟨50, 0, none⟩
    s.clkWord 2 = 0x0D201A20 ∧ s.clkWord 5 = 0x519303238 := by decide +kernel

/-- 21: bytes 8 to 15 of KIOSK.RING[136] before and after the reset of its guest. -/
theorem test_ring_word :
    let r : KRing := { (default : KRing) with size := 5, kind := true, head := 8, tail := 16 }
    { r with gen := 1 }.ctlWord = 0x0001001000080015 ∧ { r with enable := true }.ctlWord = 0x0000001000080035 := by
  decide +kernel

/-- 08: the completion record of the copy of Table 8.10, by the engine of core 5. -/
theorem test_copy_record :
    let j : Job := { job 1 .over with seq := 0x21, progress := 128, partialDone := true }
    j.status full 5 = 0x0021000000800530 := by decide +kernel

/-- 14 R348, R351: TRAP enters the handler, with TRAP.PC at the next word; TRET goes to TRAP.PC and leaves handler mode. -/
theorem test_trap_and_return :
    let t := exec (.trap cm0 (.s 0) 0x12) (run .c trapping)
    (match t with
     | .next t => t.me.handler && decide (t.me.trapPc.c = 8) && decide (t.sq.pc = 0x100)
     | _ => false) = true ∧
    pcOf (exec (.tret cm0) (run .c { trapping with handler := true, trapPc := ⟨0x40, 0, 0, 0⟩ })) = some 0x40 := by
  decide +kernel

/-- 15 R371: words of RV64IMAC as the RISC-V manual encodes them: addi a0,a0,1; sd ra,24(sp); bne a4,x0,-16; jalr x0,ra;
mul a0,a0,a1; lr.w a1,(a0); sc.w a0,a2,(a0); amoadd.d a0,a1,(a0); csrrw x0,mtvec,t0; c.addi a0,1; c.sdsp ra,8; c.ldsp ra,8;
c.mv a0,a1; c.addi4spn s0,16; c.ld a5,0(a0); c.subw of 32 bits; the word 0. -/
theorem test_base_words :
    rvDecode true 0x00150513 = .op .add false 10 10 (.imm 1) ∧ rvDecode true 0x00113C23 = .store 2 1 24 8 ∧
    rvDecode true 0xFE0718E3 = .branch .ne 14 0 (-16) ∧ rvDecode true 0x00008067 = .jalr 0 1 0 ∧
    rvDecode true 0x02B50533 = .op .mul false 10 10 (.reg 11) ∧ rvDecode true 0x100525AF = .lr 11 10 4 ∧
    rvDecode true 0x18C5252F = .sc 10 10 12 4 ∧ rvDecode true 0x00B5352F = .amo .add 10 10 11 8 ∧
    rvDecode true 0x30529073 = .csr 1 0 (.reg 5) 0x305 ∧ rvDecode true 0x0505 = .op .add false 10 10 (.imm 1) ∧
    rvDecode true 0xE406 = .store 2 1 8 8 ∧ rvDecode true 0x60A2 = .load 1 2 8 8 true ∧
    rvDecode true 0x852E = .op .add false 10 0 (.reg 11) ∧ rvDecode true 0x0800 = .op .add false 8 2 (.imm 16) ∧
    rvDecode true 0x611C = .load 15 10 0 8 true ∧ rvDecode true 0x9D0D = .op .sub true 10 10 (.reg 11) ∧
    rvDecode true 0x0000 = .illegal := by decide +kernel

/-- 15 R372: a load of a scheduler core through the aperture reads device memory, and its pc moves on. -/
theorem test_aperture_load :
    let s0 := fw [(10, 0x10000000400)] [] [(0, 0x03), (1, 0x35), (2, 0x05)]
    let s := { s0 with dram := { s0.dram with bytes := [(0x400, 7)] }, moves := [⟨0, 0, .fw 0⟩] }
    (match step s with
     | .next t => decide ((t.fwCore 0).reg 10 = 7) && decide ((t.fwCore 0).pc = 4)
     | _ => false) = true := by decide +kernel
end Sys2Proof.Tests
end

section
/-! SUPPORT. Tables after a removal, and what a translation and the freeing of a slot leave unchanged: each says what
it erases (`sansXlat`, `sansSlots`, `sansBuckets`, `sansTasks`), and two states that are equal without it agree in
everything else. -/
namespace Sys2Proof

/-- At or below `k` nothing is found above `k`. -/
theorem Tbl.find_above_of_le {α : Type} (t : Tbl α) (k j : Nat) (h : j ≤ k) :
    Tbl.find (Tbl.above t k) j = none := by
  induction t with
  | nil => rfl
  | cons e t ih =>
    obtain ⟨a, w⟩ := e
    by_cases ha : a ≤ k
    · rw [show Tbl.above ((a, w) :: t) k = Tbl.above t k by simp [Tbl.above, ha], ih]
    · rw [show Tbl.above ((a, w) :: t) k = (a, w) :: t by simp [Tbl.above, ha]]
      simp only [Tbl.find]
      rw [if_neg (by omega), if_pos (by omega)]

/-- A table, canonical or not, finds nothing at a key just removed. -/
@[simp] theorem Tbl.find_del_same {α : Type} (t : Tbl α) (k : Nat) : Tbl.find (Tbl.del t k) k = none := by
  induction t with
  | nil => rfl
  | cons e t ih =>
    obtain ⟨a, w⟩ := e
    simp only [Tbl.del]
    split
    · exact Tbl.find_above_of_le t k k le_rfl
    · split
      · rename_i h1 h2; simp [Tbl.find, h1, h2]
      · rename_i h1 h2; simp [Tbl.find, h1, h2, ih]

end Sys2Proof

namespace Sys2Proof.Machine

/-! ### Translations -/

/-- A state without the parts that a translation may change: the times of lines, the TLBs and the walk caches (14 R364,
R365). -/
def State.sansXlat (s : State) : State :=
  { s with dram := State.reset.dram, cores := State.reset.cores, xlat := State.reset.xlat }

@[simp] theorem State.sansXlat_readEntry (s : State) (w : Walker) (stage2 : Bool) (level pa : Nat) :
    (s.readEntry w stage2 level pa).1.sansXlat = s.sansXlat := by
  unfold State.readEntry
  split <;> rfl

@[simp] theorem State.sansXlat_keepEntry (s : State) (w : Walker) (stage2 : Bool) (level pa : Nat) (e : Word) :
    (s.keepEntry w stage2 level pa e).sansXlat = s.sansXlat := by
  unfold State.keepEntry
  split <;> rfl

@[simp] theorem State.sansXlat_keepTlb (s : State) (core : Nat) (e : TlbEntry) :
    (s.keepTlb core e).sansXlat = s.sansXlat := rfl

@[simp] theorem State.sansXlat_walk2 (s : State) (w : Walker) (ia table : Nat) (acc : Access) (n : Nat) :
    (s.walk2 w ia table acc n).1.sansXlat = s.sansXlat := by
  induction n generalizing s w table with
  | zero => rfl
  | succ n ih =>
    simp only [State.walk2]
    split
    · simp
    · split
      · split_ifs <;> simp
      · simp [ih]

@[simp] theorem State.sansXlat_stage2 (s : State) (w : Walker) (ia : Nat) (acc : Access) :
    (s.stage2 w ia acc).1.sansXlat = s.sansXlat := by
  unfold State.stage2
  simp only
  split
  · rfl
  · exact s.sansXlat_walk2 ..

@[simp] theorem State.sansXlat_walk1 (s : State) (w : Walker) (va table : Nat) (acc : Access) (n : Nat) :
    (s.walk1 w va table acc n).1.sansXlat = s.sansXlat := by
  induction n generalizing s w table with
  | zero => rfl
  | succ n ih =>
    simp only [State.walk1]
    have h2 := s.sansXlat_stage2 w (table + (va / 2 ^ (12 + 9 * n)) % 512 * 8) .read
    split <;> rename_i h <;> rw [h] at h2
    · exact h2
    · exact h2
    · split
      · exact h2
      · split
        · simpa using h2
        · split
          · split <;> simpa using h2
          · simpa [ih] using h2

@[simp] theorem State.sansXlat_walk (s : State) (w : Walker) (va : Nat) (acc : Access) :
    (s.walk w va acc).1.sansXlat = s.sansXlat := by
  unfold State.walk
  simp only
  split
  · rfl
  · have h1 := s.sansXlat_walk1 w va (entryAddr (s.guest w.guest).s1) acc 5
    split <;> rename_i h <;> rw [h] at h1
    · exact h1
    · exact h1
    · rename_i s1 t ia sz1 e1
      have h2 := (s1.sansXlat_stage2 { w with pts := t } ia acc).trans h1
      split <;> rename_i h <;> rw [h] at h2
      · exact h2
      · exact h2
      · simpa using h2

/-- A translation, whatever it comes to, changes no other part of the state. -/
@[simp] theorem State.sansXlat_translate (s : State) (w : Walker) (va : Nat) (acc : Access) :
    (s.translate w va acc).1.sansXlat = s.sansXlat := by
  have hw := s.sansXlat_walk w va acc
  unfold State.translate
  split
  · rfl
  · cases s.tlbHit w va acc with
    | some hit =>
      obtain ⟨pa, kind⟩ := hit
      cases kind <;> rfl
    | none =>
      simp only
      split <;> rename_i h
      · rw [h] at hw; exact hw
      · exact hw

/-- A read of a guest's memory changes nothing but what its translations and its lines' times do. -/
theorem State.sansXlat_readGuest (s s' : State) (guest pts va n : Nat) (b : List Byte)
    (h : s.readGuest guest pts va n = .ok s' b) : s'.sansXlat = s.sansXlat := by
  induction n generalizing s pts va b with
  | zero => cases h; rfl
  | succ n ih =>
    have ht := s.sansXlat_translate (bazaarWalker guest pts) va .read
    simp only [State.readGuest] at h
    split at h <;> rename_i hx <;> rw [hx] at ht
    · cases h
    · cases h
    · split at h
      · cases h
      · split at h
        · cases h
        · split at h <;> cases h
          rename_i hr
          exact (ih _ _ _ _ hr).trans ht

/-! ### Freeing a slot -/

/-- A state without what the freeing of a slot may change: the contexts, their units and loans, and the buckets of a
core. -/
def State.sansSlots (s : State) : State :=
  { s with ctxs := State.reset.ctxs, power := State.reset.power, buckets := State.reset.buckets }

@[simp] theorem State.sansSlots_setCtx (s : State) (core slot : Nat) (c : Ctx) :
    (s.setCtx core slot c).sansSlots = s.sansSlots := rfl

theorem State.launches_of_sansSlots {s t : State} (h : t.sansSlots = s.sansSlots) : t.launches = s.launches :=
  (congrArg State.launches h :)

/-- A fold over steps that leave alone what `g` keeps leaves it alone. -/
theorem foldl_keeps {σ α β : Type} (g : σ → β) {f : σ → α → σ} (h : ∀ s a, g (f s a) = g s) (l : List α)
    (s : σ) : g (l.foldl f s) = g s :=
  List.foldlRecOn (motive := fun t => g t = g s) l f rfl fun t ht a _ => (h t a).trans ht

@[simp] theorem State.sansSlots_setBinding (s : State) (core slot : Nat) (b : Option Binding) :
    (s.setBinding core slot b).sansSlots = s.sansSlots := rfl

@[simp] theorem State.sansSlots_leaveQuad (s : State) (core slot : Nat) :
    (s.leaveQuad core slot).sansSlots = s.sansSlots := by
  rw [State.leaveQuad, State.sansSlots_setBinding]
  refine foldl_keeps State.sansSlots ?_ _ s
  exact fun _ _ => rfl

@[simp] theorem State.sansSlots_forgo (s : State) (keys : List Nat) (n : Nat) :
    (s.forgo keys n).sansSlots = s.sansSlots := rfl

@[simp] theorem State.sansSlots_settle (s : State) (core first : Nat) :
    (s.settle core first).sansSlots = s.sansSlots := by
  simp only [State.settle, State.sansSlots_forgo]
  refine foldl_keeps State.sansSlots ?_ _ s
  exact fun _ _ => rfl

@[simp] theorem State.sansSlots_freeGrant (s : State) (core slot : Nat) :
    (s.freeGrant core slot).sansSlots = s.sansSlots := by
  unfold State.freeGrant
  extract_lets key c _ s1 s2 rest best s3
  have hs : s2.sansSlots = s.sansSlots := s1.sansSlots_settle core key
  clear_value s2 best
  cases best <;> exact hs

/-- A state without its initiator buckets. -/
def State.sansBuckets (s : State) : State := { s with buckets := State.reset.buckets }

/-- Initiator buckets are all that a core's change of guests changes. -/
theorem State.sansBuckets_coreBuckets (s : State) (core : Nat) : (s.coreBuckets core).sansBuckets = s.sansBuckets := by
  unfold State.coreBuckets
  extract_lets guests key old
  refine (foldl_keeps State.sansBuckets (fun t g => ?_) guests old).trans
    (foldl_keeps State.sansBuckets (fun t k => ?_) (List.range 8) s)
  · split
    · rfl
    · split <;> rfl
  · simp only
    split <;> rfl

@[simp] theorem State.coreBuckets_ctxs (s : State) (core : Nat) : (s.coreBuckets core).ctxs = s.ctxs :=
  (congrArg State.ctxs (s.sansBuckets_coreBuckets core) :)

@[simp] theorem State.coreBuckets_launches (s : State) (core : Nat) : (s.coreBuckets core).launches = s.launches :=
  (congrArg State.launches (s.sansBuckets_coreBuckets core) :)

@[simp] theorem State.ctx_coreBuckets (s : State) (core a b : Nat) : (s.coreBuckets core).ctx a b = s.ctx a b :=
  congrArg (Tbl.get Ctx.empty · (a * 4 + b)) (s.coreBuckets_ctxs core)

@[simp] theorem State.sansSlots_coreBuckets (s : State) (core : Nat) : (s.coreBuckets core).sansSlots = s.sansSlots :=
  (congrArg State.sansSlots (s.sansBuckets_coreBuckets core) :)

/-- Emptying a slot changes the contexts, their units and loans, and the buckets of its core. -/
@[simp] theorem State.sansSlots_vacate (s : State) (core slot : Nat) :
    (s.vacate core slot).sansSlots = s.sansSlots := by
  rw [State.vacate, State.sansSlots_coreBuckets, State.sansSlots_setCtx, State.sansSlots_freeGrant,
    State.sansSlots_leaveQuad]

@[simp] theorem State.ctx_vacate (s : State) (core slot : Nat) : (s.vacate core slot).ctx core slot = Ctx.empty := by
  rw [State.vacate, State.ctx_coreBuckets, State.ctx_setCtx]

@[simp] theorem State.vacate_launches (s : State) (core slot : Nat) : (s.vacate core slot).launches = s.launches :=
  State.launches_of_sansSlots (s.sansSlots_vacate core slot)

/-- A state without its tasks and the queues that hold them. -/
def State.sansTasks (s : State) : State := { s with queues := State.reset.queues, tasks := State.reset.tasks }

/-- The return of a context's tasks changes tasks and queues only. -/
@[simp] theorem State.sansTasks_returnTasks (s : State) (t : CtxTasks) : (s.returnTasks t).sansTasks = s.sansTasks := by
  unfold State.returnTasks
  extract_lets s1
  have hs : s1.sansTasks = s.sansTasks := by
    refine foldl_keeps State.sansTasks (fun x n => ?_) _ s
    split <;> rfl
  clear_value s1
  split <;> exact hs

@[simp] theorem State.returnTasks_launches (s : State) (t : CtxTasks) : (s.returnTasks t).launches = s.launches :=
  (congrArg State.launches (s.sansTasks_returnTasks t) :)

end Sys2Proof.Machine
end

section
/-! SUPPORT. The numbers in the bytes of records (12 Table 12.5). -/
namespace Sys2Proof.Machine

/-- The number of some bytes is below the next power. -/
theorem leNat_lt (bs : List Byte) : leNat bs < 256 ^ bs.length := by
  induction bs with
  | nil => simp [leNat]
  | cons b t ih =>
    have hb := b.isLt
    rw [leNat, List.length_cons, pow_succ]
    omega

/-- A field of a record fits its bytes. -/
theorem recField_lt (bs : List Byte) (o n : Nat) : recField bs o n < 256 ^ n :=
  (leNat_lt _).trans_le (Nat.pow_le_pow_right (by decide) (by simp))

/-- The low bytes of a number are those of its low part. -/
theorem leBytes_take (n k v : Nat) (h : k ≤ n) : (leBytes n v).take k = leBytes k v := by
  induction n generalizing k v with
  | zero => rw [Nat.le_zero.mp h]; rfl
  | succ n ih =>
    cases k with
    | zero => rfl
    | succ k => rw [leBytes, List.take_succ_cons, ih _ _ (Nat.le_of_succ_le_succ h), leBytes]

/-- A field at the start of a record is the low part of the number there. -/
theorem recField_leBytes (n k v : Nat) (bs : List Byte) (h : k ≤ n) :
    recField (leBytes n v ++ bs) 0 k = v % 256 ^ k := by
  rw [recField, List.drop_zero, List.take_append_of_le_length (by simpa using h), leBytes_take n k v h, leNat_leBytes]

/-- Fields behind a number stand at their offset behind its bytes. -/
theorem recField_behind (n v o k : Nat) (bs : List Byte) :
    recField (leBytes n v ++ bs) (n + o) k = recField bs o k := by
  rw [recField, List.drop_append, List.drop_eq_nil_of_le (by simp), leBytes_length, Nat.add_sub_cancel_left]
  rfl

/-- The kind of a feed record (12 Table 12.5). -/
theorem recField_feedBytes_kind (kind sibling source seq : Nat) (body : List Byte) (h : kind < 256) :
    recField (feedBytes kind sibling source seq body) 0 1 = kind := by
  rw [feedBytes, recField_leBytes _ _ _ _ (by decide)]
  omega

end Sys2Proof.Machine
end

section
/-! PROOFS. Launches: the checks of a record and its acceptance (12 R284), binding (R288), completion (05 R114, 12
R285), and the posting of a completion (R285). -/
namespace Sys2Proof.Machine

/-! ### LAUNCH -/

theorem State.queue_setQueue_ne (s : State) (n m : Nat) (q : BQueue) (h : m ≠ n) :
    (s.setQueue n q).queue m = s.queue m :=
  Tbl.get_put_ne _ _ _ _ _ h

@[simp] theorem State.addLaunch_ctxs (s : State) (l : Launch) : (s.addLaunch l).ctxs = s.ctxs := rfl

@[simp] theorem State.queue_addLaunch (s : State) (l : Launch) (n : Nat) : (s.addLaunch l).queue n = s.queue n := rfl

/-- The accepted launch stands under the next number. -/
@[simp] theorem State.find_addLaunch (s : State) (l : Launch) : (s.addLaunch l).launches.find s.nextUid = some l :=
  Tbl.find_ins_same _ _ _

/-- The checks of a record look at what queues are, not at what they hold. -/
theorem State.recordFails_congr {s t : State} (g : Nat) (bs : List Byte)
    (h : ∀ n, (t.queue n).owner = (s.queue n).owner ∧ (t.queue n).kind = (s.queue n).kind ∧
      (t.queue n).enable = (s.queue n).enable) : t.recordFails g bs = s.recordFails g bs := by
  simp [State.recordFails, h]

/-- The capacity that a launch may use is its partition's. -/
theorem State.capacity_congr {s t : State} (p : Nat) (d : KDesc) (h : t.parts = s.parts) :
    t.capacity p d = s.capacity p d := by
  have he : t.eligible p d.heat = s.eligible p d.heat := by
    funext die; simp [State.eligible, State.part, h]
  simp [State.capacity, State.dies, he]

/-- Absent arguments read as no arguments. -/
theorem argTable_zeros : argTable (List.replicate 128 0) = [] := by decide +kernel

/-- What judging a launch leaves as its record has it. -/
theorem State.judge_keeps (s : State) (l : Launch) (image args : Option (List Byte)) :
    (s.judge l image args).guest = l.guest ∧ (s.judge l image args).prio = l.prio ∧
      (s.judge l image args).record = l.record ∧ (s.judge l image args).placed = l.placed := by
  unfold State.judge Launch.finish
  simp only
  split
  · exact ⟨rfl, rfl, rfl, rfl⟩
  · split
    · exact ⟨rfl, rfl, rfl, rfl⟩
    · split <;> exact ⟨rfl, rfl, rfl, rfl⟩

/-- A failing check of the record ends the launch with the least offset (R284). -/
theorem State.judge_of_recordFails (s : State) (l : Launch) (b a : List Byte) (o : Nat)
    (h : (s.recordFails l.guest l.record).min? = some o) :
    (s.judge l (some b) (some a)).end_ = some (2, o) := by
  simp [State.judge, failAt, h, Launch.finish]

/-- So does a failing check of the descriptor where the record passes. -/
theorem State.judge_of_descFails (s : State) (l : Launch) (b a : List Byte) (o : Nat)
    (hr : s.recordFails l.guest l.record = []) (h : (descFails b (argTable a)).min? = some o) :
    (s.judge l (some b) (some a)).end_ = some (2, o) := by
  simp [State.judge, failAt, hr, h, Launch.finish]

/-- A launch that passes its checks is accepted where one core's capacity covers it, and ends with the resource that it
exceeds where not (R284). -/
theorem State.judge_of_passed (s : State) (l : Launch) (b a : List Byte)
    (hr : s.recordFails l.guest l.record = []) (hd : descFails b (argTable a) = []) :
    s.judge l (some b) (some a) =
      if s.capacity (s.partOf l.guest) (kdesc b) = 0 then
        { l with args := argTable a, desc := kdesc b, total := instances (descLevels b) (argTable a) }
      else { l with args := argTable a, desc := kdesc b, endedAt := s.nextUid
                    end_ := some (1, s.capacity (s.partOf l.guest) (kdesc b)) } := by
  have hfails :
      (s.recordFails l.guest l.record ++ failAt (some b).isNone 0 ++ failAt (some a).isNone 8).min? = none := by
    rw [hr]; rfl
  have hdesc : (descFails b (argTable a)).min? = none := by rw [hd]; rfl
  simp only [State.judge, hfails, Option.getD_some, hdesc]
  cases s.capacity (s.partOf l.guest) (kdesc b) with
  | zero => rfl
  | succ n => simp [Launch.finish]

/-- A state after a read of a guest's memory, its head record taken, judges as the state before. -/
theorem State.checks_after_read {s s1 : State} {queue : Nat} {rest : List BRec} (h : s1.sansXlat = s.sansXlat)
    (g : Nat) (bs : List Byte) (d : KDesc) :
    let s2 := s1.setQueue queue { s.queue queue with recs := rest }
    s2.recordFails g bs = s.recordFails g bs ∧ s2.capacity (s2.partOf g) d = s.capacity (s.partOf g) d := by
  have hqueues : s1.queues = s.queues := (congrArg State.queues h :)
  have hparts : s1.parts = s.parts := (congrArg State.parts h :)
  have hguests : s1.guests = s.guests := (congrArg State.guests h :)
  refine ⟨State.recordFails_congr g bs fun n => ?_, ?_⟩
  · by_cases hn : n = queue
    · simp [hn]
    · rw [State.queue_setQueue_ne _ _ _ _ hn, State.queue, hqueues]
      exact ⟨rfl, rfl, rfl⟩
  · rw [State.partOf, State.guest, State.setQueue_guests, hguests]
    exact State.capacity_congr _ d hparts

section Accepted
variable {queue : Nat} {r : BRec} {rest : List BRec} {s s1 : State} {b : List Byte}
  (hrecs : (s.queue queue).recs = r :: rest) (hen : (s.queue queue).enable = true)
  (hkind : (s.queue queue).kind = 2) (hheld : s.heldLaunches r.guest < 64)
  (hreset : s.resets.contains r.guest = false) (hstill : s.still (s.partOf r.guest) = false)
  (hpage : recField r.bytes 0 8 % 2 ^ 12 = 0) (hargs : recField r.bytes 8 8 = 0)
  (hread : s.readGuest r.guest r.carry.pts (recField r.bytes 0 8 % 2 ^ 57) 32 = .ok s1 b)
include hrecs hen hkind hheld hreset hstill hpage hargs hread

/-- A record at the head of a launch queue that Bazaar may take, with a readable image and no arguments, is judged and
joins the launches. -/
theorem execLaunch_of_read :
    let s2 := s1.setQueue queue { s.queue queue with recs := rest }
    execLaunch queue s =
      .next (s2.addLaunch (s2.judge (newLaunch r s2.nextUid) (some b) (some (List.replicate 128 0)))) := by
  have himg : s.fetchFor r.guest r.carry.pts (recField r.bytes 0 8 % 2 ^ 57) 32
      (recField r.bytes 0 8 % 2 ^ 12 == 0) = .ok s1 b := by
    rw [State.fetchFor, hpage]; exact hread
  simp only [execLaunch, hrecs, hen, hkind, hreset, hstill, himg, hargs, decide_eq_false (Nat.not_le.mpr hheld)]
  rfl

/-- R284: a launch record that can be read is taken from its queue, and its launch is judged. -/
theorem launch_judged :
    ∃ t u l, exec (.launch queue) s = .next t ∧ (t.queue queue).recs = rest ∧ t.launches.find u = some l ∧
      l.guest = r.guest ∧ l.prio = r.prio ∧ l.record = r.bytes ∧ l.placed = [] ∧ t.ctxs = s.ctxs ∧
      (∀ o, (s.recordFails r.guest r.bytes).min? = some o → l.end_ = some (2, o)) ∧
      (s.recordFails r.guest r.bytes = [] →
        (∀ o, (descFails b []).min? = some o → l.end_ = some (2, o)) ∧
        (descFails b [] = [] →
          let n := s.capacity (s.partOf r.guest) (kdesc b)
          l.desc = kdesc b ∧ (n = 0 → l.end_ = none ∧ l.total = instances (descLevels b) []) ∧
            (n ≠ 0 → l.end_ = some (1, n)))) := by
  have hx := s.sansXlat_readGuest s1 _ _ _ _ _ hread
  have hnext := execLaunch_of_read hrecs hen hkind hheld hreset hstill hpage hargs hread
  obtain ⟨hfails, hcap⟩ := State.checks_after_read (queue := queue) (rest := rest) hx r.guest r.bytes (kdesc b)
  have hctxs : s1.ctxs = s.ctxs := (congrArg State.ctxs hx :)
  generalize hs2 : s1.setQueue queue { s.queue queue with recs := rest } = s2 at hnext hfails hcap
  obtain ⟨hg, hp, hr, hpl⟩ := s2.judge_keeps (newLaunch r s2.nextUid) (some b) (some (List.replicate 128 0))
  refine ⟨_, s2.nextUid, _, hnext, ?_, s2.find_addLaunch _, hg, hp, hr, hpl, ?_, fun o ho => ?_,
    fun hrec => ⟨fun o ho => ?_, fun hdesc => ?_⟩⟩
  · simp [← hs2]
  · simp [← hs2, hctxs]
  · exact s2.judge_of_recordFails _ b _ o (hfails ▸ ho)
  · exact s2.judge_of_descFails _ b _ o (hfails.trans hrec) (argTable_zeros.symm ▸ ho)
  · have hj := s2.judge_of_passed (newLaunch r s2.nextUid) b (List.replicate 128 0) (hfails.trans hrec)
      (argTable_zeros.symm ▸ hdesc)
    rw [argTable_zeros, show (newLaunch r s2.nextUid).guest = r.guest from rfl, hcap] at hj
    by_cases hn : s.capacity (s.partOf r.guest) (kdesc b) = 0
    · rw [hj, if_pos hn]
      exact ⟨rfl, fun _ => ⟨rfl, rfl⟩, fun h => absurd hn h⟩
    · rw [hj, if_neg hn]
      exact ⟨rfl, fun h => absurd h hn, fun _ => rfl⟩

end Accepted

/-! ### INSTANCE_BIND -/

/-- Every sequencer starts at its entry, with nothing done and registers zero (04 R62). -/
theorem Launch.start_seq (l : Launch) (uid part inst : Nat) (z : Sq) :
    (l.start uid part inst).seq.get z = { Seqr.empty with
      pc := BitVec.ofNat 57 (recField l.record 0 8 + l.desc.entries.get z), ended := false, done := false } := by
  cases z <;> rfl

/-- A context starts with every channel empty (05 R92). -/
theorem Launch.start_chan (l : Launch) (uid part inst : Nat) (k : ChanKind) (ch : Nat) :
    (l.start uid part inst).chan k ch = Chan.empty := by
  cases k <;> rfl

section Bound
variable {u inst core slot : Nat} {l : Launch} {s : State}
  (hfind : s.launches.find u = some l) (htarget : s.launchTarget l inst = some core)
  (hslot : s.freeSlot core = some slot) (hnext : s.nextFor l core = some inst) (hrun : s.mayRun l.guest = true)
  (hclocks : s.clocksRun = true) (hfits : s.fits core l.desc.ask = true) (hkept : s.keptOff core u inst l = false)
  (hahead : s.ahead core l.prio l.since = false)
include hfind htarget hslot hnext hrun hclocks hfits hkept hahead

/-- Work whose turn it is, with room on its core, starts in the core's free slot. -/
theorem execInstanceBind_of_room :
    execInstanceBind u inst s =
      let bound : State := { s.setCtx core slot (l.start u (s.partOf l.guest) inst) with
        launches := s.launches.ins u { l with placed := inst :: l.placed, live := l.live + 1 } }
      .next (bound.coreBuckets core) := by
  simp [execInstanceBind, hfind, htarget, hslot, hnext, hrun, hclocks, hfits, hkept, hahead]

/-- R288: what is bound takes its core's free slot, at the start of its program. -/
theorem bind_starts :
    ∃ t, exec (.instanceBind u inst) s = .next t ∧
      t.ctx core slot = l.start u (s.partOf l.guest) inst ∧
      (∀ j k, j * 4 + k ≠ core * 4 + slot → t.ctx j k = s.ctx j k) ∧
      t.launches.find u = some { l with placed := inst :: l.placed, live := l.live + 1 } := by
  refine ⟨_, execInstanceBind_of_room hfind htarget hslot hnext hrun hclocks hfits hkept hahead, ?_,
    fun j k hjk => ?_, ?_⟩
  · rw [State.ctx_coreBuckets]
    exact s.ctx_setCtx ..
  · rw [State.ctx_coreBuckets]
    exact s.ctx_setCtx_ne _ _ _ _ _ hjk
  · rw [State.coreBuckets_launches]
    exact Tbl.find_ins_same ..

end Bound

/-! ### INSTANCE_COMPLETE -/

/-- A launch that is left is over where that was its last context. -/
theorem State.find_leaveLaunch {s : State} {uid : Nat} {l : Launch} (f : Launch → Launch)
    (h : s.launches.find uid = some l) :
    (s.leaveLaunch uid f).launches.find uid = some ((f { l with live := l.live - 1 }).over s.nextUid) := by
  rw [State.leaveLaunch, h]
  exact Tbl.find_ins_same ..

/-- The end of a launch is all that its being over changes. -/
theorem Launch.over_eq (l : Launch) (serial : Nat) : ∃ e n, l.over serial = { l with end_ := e, endedAt := n } := by
  unfold Launch.over
  split
  · exact ⟨l.end_, l.endedAt, rfl⟩
  · split
    · exact ⟨_, serial, rfl⟩
    · exact ⟨_, serial, rfl⟩

/-- A launch with all its work placed and none left ends with its fault, or well (R285). -/
theorem Launch.over_end_of_last (l : Launch) (serial : Nat) (hend : l.end_ = none) (hlive : l.live = 0)
    (htotal : l.total ≤ l.placed.length) :
    (l.over serial).end_ = some (match l.fault with | some f => (4, f) | none => (0, 0)) := by
  simp only [Launch.over, hend, hlive, decide_eq_false (Nat.not_lt.mpr htotal)]
  cases l.fault <;> rfl

/-- A launch that has ended, that has contexts left, or that has work to place stays as it is. -/
theorem Launch.over_of_open (l : Launch) (serial : Nat)
    (h : l.end_ ≠ none ∨ l.live ≠ 0 ∨ l.placed.length < l.total) : l.over serial = l := by
  rw [Launch.over, if_pos]
  simpa [Option.isSome_iff_ne_none, or_assoc] using h

/-- A launch that a context has left, before it is seen to be over. -/
def Launch.left (l : Launch) (c : Ctx) : Launch :=
  { l with live := l.live - 1, retired := l.retired + 1, qleft := l.qleft || (c.qleft || !c.channelsEmpty) }

section Done
variable {core slot : Nat} {s : State} (hbound : (s.ctx core slot).bound = true)
  (hstop : (s.ctx core slot).stop = none) (hhandler : (s.ctx core slot).handler = false)
  (hquiet : (s.ctx core slot).quiet = true) (h0 : (s.ctx core slot).q0.jobs = [])
  (h1 : (s.ctx core slot).q1.jobs = []) (hjoints : s.jointsOpen core slot = false)
  (hdone : ∀ z, ((s.ctx core slot).seq.get z).done = true)
include hbound hstop hhandler hquiet h0 h1 hjoints hdone

/-- A context whose sequencers have ended and whose commands are over returns its tasks, leaves its launch and empties
its slot. -/
theorem execInstanceComplete_of_done :
    let c := s.ctx core slot
    execInstanceComplete core slot s =
      .next (((s.returnTasks c.tasks).leaveLaunch c.launch fun l =>
        { l with retired := l.retired + 1, qleft := l.qleft || (c.qleft || !c.channelsEmpty) }).vacate core slot) := by
  simp [execInstanceComplete, hbound, hstop, hhandler, hquiet, h0, h1, hjoints, hdone]

/-- 05 R114, R285: a context that is done leaves its launch, which is over with its last context. -/
theorem complete_leaves {l : Launch} (hfind : s.launches.find (s.ctx core slot).launch = some l) :
    let c := s.ctx core slot
    ∃ t k, exec (.instanceComplete core slot) s = .next t ∧ t.ctx core slot = Ctx.empty ∧
      t.launches.find c.launch = some k ∧ k.retired = l.retired + 1 ∧ k.live = l.live - 1 ∧
      k.qleft = (l.qleft || c.qleft || !c.channelsEmpty) ∧
      (l.end_ = none → l.live = 1 → l.total ≤ l.placed.length →
        k.end_ = some (match l.fault with | some f => (4, f) | none => (0, 0))) ∧
      ((l.end_ ≠ none ∨ 2 ≤ l.live ∨ l.placed.length < l.total) → k.end_ = l.end_) := by
  intro c
  obtain ⟨e, n, hover⟩ := (l.left c).over_eq (s.returnTasks c.tasks).nextUid
  refine ⟨_, (l.left c).over (s.returnTasks c.tasks).nextUid,
    execInstanceComplete_of_done hbound hstop hhandler hquiet h0 h1 hjoints hdone, State.ctx_vacate .., ?_, ?_, ?_, ?_,
    fun hend hlive htotal => ?_, fun hopen => ?_⟩
  · rw [State.vacate_launches]
    exact State.find_leaveLaunch _ (by rw [State.returnTasks_launches, hfind])
  · rw [hover]; rfl
  · rw [hover]; rfl
  · rw [hover]; exact (Bool.or_assoc ..).symm
  · exact (l.left c).over_end_of_last _ hend (show l.live - 1 = 0 by omega) htotal
  · rw [(l.left c).over_of_open _ (hopen.imp_right (Or.imp_left fun h => show l.live - 1 ≠ 0 by omega))]; rfl

end Done

/-! ### LAUNCH_COMPLETION_POST -/

/-- The record of a launch's completion on its done queue (Table 12.3, R285). -/
def completionBody (w0 w1 : Word) : List Byte :=
  leBytes 8 0 ++ leBytes 8 w0.toNat ++ leBytes 8 w1.toNat ++ leBytes 32 0

/-- The two words of a completion stand at bytes 16 and 24 of its record. -/
theorem recField_completionBody (sibling source seq : Nat) (w0 w1 : Word) :
    recField (feedBytes 3 sibling source seq (completionBody w0 w1)) 16 8 = w0.toNat ∧
      recField (feedBytes 3 sibling source seq (completionBody w0 w1)) 24 8 = w1.toNat := by
  have hw (w : Word) : w.toNat % 256 ^ 8 = w.toNat := Nat.mod_eq_of_lt w.isLt
  simp only [feedBytes, completionBody, List.append_assoc]
  constructor
  · rw [recField_behind 8 _ 8, recField_behind 8 _ 0, recField_leBytes _ _ _ _ le_rfl, hw]
  · rw [recField_behind 8 _ 16, recField_behind 8 _ 8, recField_behind 8 _ 0, recField_leBytes _ _ _ _ le_rfl, hw]

/-- A held launch completion goes behind the other held entries, and drops none (15 R379). -/
theorem State.postCq_of_launch (s : State) (g : Nat) (i : CqItem) (h : i.launch ≠ none) :
    s.postCq g i = s.setCq g { s.cq g with held := (s.cq g).held ++ [i] } := by
  obtain ⟨u, hu⟩ := Option.ne_none_iff_exists'.mp h
  simp [State.postCq, CqItem.plain, hu]

/-- The done queue of a launch whose record names an enabled feed queue, another guest's where a reset ended it. -/
theorem State.doneQueue_of_feed {s : State} {l : Launch} {code : Nat}
    (hbit : recField l.record 56 8 / 2 ^ 15 % 2 = 1) (hen : (s.queue (recField l.record 56 8 % 2 ^ 12)).enable = true)
    (hkind : (s.queue (recField l.record 56 8 % 2 ^ 12)).kind = 0)
    (howner : code = 3 → (s.queue (recField l.record 56 8 % 2 ^ 12)).owner ≠ l.guest) :
    s.doneQueue l code = some (recField l.record 56 8 % 2 ^ 12) :=
  if_pos ⟨hbit, hen, hkind, howner⟩

/-- A launch whose record names no done queue has none. -/
theorem State.doneQueue_eq_none {s : State} {l : Launch} {code : Nat} (hbit : recField l.record 56 8 / 2 ^ 15 % 2 = 0) :
    s.doneQueue l code = none :=
  if_neg fun h => by omega

/-- The words of a completion (Table 12.3). -/
theorem Launch.completion_eq (l : Launch) (code detail : Nat) :
    l.completion code detail = (BitVec.ofNat 64
      (code + detail % 256 * 2 ^ 8 + (if l.qleft then 2 ^ 16 else 0) + l.retired % 2 ^ 32 * 2 ^ 32),
      BitVec.ofNat 64 (recField l.record 50 2)) := by
  unfold Launch.completion
  cases l.qleft <;> rfl

/-- The record of a completion holds its two words, the second of them the record's tag. -/
theorem Launch.recField_completion (l : Launch) (code detail sibling source seq : Nat) :
    let w := l.completion code detail
    let x := feedBytes 3 sibling source seq (completionBody w.1 w.2)
    recField x 16 8 = w.1.toNat ∧ recField x 24 8 = recField l.record 50 2 := by
  obtain ⟨h0, h1⟩ :=
    recField_completionBody sibling source seq (l.completion code detail).1 (l.completion code detail).2
  refine ⟨h0, h1.trans ?_⟩
  have htag := recField_lt l.record 50 2
  rw [Launch.completion_eq, BitVec.toNat_ofNat, Nat.mod_eq_of_lt (by omega)]

section Ended
variable {u code detail : Nat} {l : Launch} {s : State}
  (hfind : s.launches.find u = some l) (hend : l.end_ = some (code, detail)) (hposted : l.posted = false)
  (hpow : s.powered = true)
include hfind hend hposted hpow

/-- A completion goes to the done queue once it has room, in the order of completion, and its launch leaves. -/
theorem execLaunchCompletionPost_of_queue {q : Nat} (hq : s.doneQueue l code = some q)
    (hroom : (s.queue q).room 1 = true) (hfirst : s.recordBefore q l.endedAt = false) :
    let w := l.completion code detail
    let t := (s.appendFeed q 3 0 l.guest (completionBody w.1 w.2) ⟨0, []⟩).1
    execLaunchCompletionPost u s = .next { t with launches := t.launches.del u } := by
  simp only [execLaunchCompletionPost, hfind, hend, hposted, hpow, hq, hroom, hfirst]
  rfl

/-- A completion without a done queue is held for the guest's ring, but for one that a reset made. -/
theorem execLaunchCompletionPost_of_ring (hq : s.doneQueue l code = none) (hcode : code ≠ 3) :
    let w := l.completion code detail
    let i : CqItem := ⟨0, 0, recField l.record 50 2, w.1, w.2, some u⟩
    let t := s.setCq l.guest { s.cq l.guest with held := (s.cq l.guest).held ++ [i] }
    execLaunchCompletionPost u s = .next { t with launches := s.launches.ins u { l with posted := true } } := by
  simp only [execLaunchCompletionPost, hfind, hend, hposted, hpow, hq, if_neg hcode]
  rw [State.postCq_of_launch _ _ _ (Option.some_ne_none u)]
  rfl

/-- R285: a completion with an open done queue is a feed record there, and its launch leaves. -/
theorem completion_posted {q : Nat} (hq : s.doneQueue l code = some q)
    (hroom : (s.queue q).room 1 = true) (hfirst : s.recordBefore q l.endedAt = false) :
    ∃ t x, exec (.launchCompletionPost u) s = .next t ∧ (t.queue q).recs = (s.queue q).recs ++ [x] ∧
      t.launches.find u = none ∧ recField x.bytes 0 1 = 3 ∧
      recField x.bytes 16 8 = (l.completion code detail).1.toNat ∧
      recField x.bytes 24 8 = recField l.record 50 2 ∧ t.ctxs = s.ctxs := by
  obtain ⟨hw0, htag⟩ := l.recField_completion code detail 0 l.guest (s.queue q).seq
  refine ⟨_, ⟨feedBytes 3 0 l.guest (s.queue q).seq _, ⟨0, []⟩, 0, (s.queue q).owner, 0⟩,
    execLaunchCompletionPost_of_queue hfind hend hposted hpow hq hroom hfirst, ?_, Tbl.find_del_same .., ?_, hw0, htag,
    rfl⟩
  · exact congrArg BQueue.recs (s.queue_setQueue q _)
  · exact recField_feedBytes_kind _ _ _ _ _ (by decide)

/-- R285: a completion without a done queue is held for the guest's completion ring. -/
theorem completion_held (hq : s.doneQueue l code = none) (hcode : code ≠ 3) :
    ∃ t x, exec (.launchCompletionPost u) s = .next t ∧ (t.cq l.guest).held = (s.cq l.guest).held ++ [x] ∧
      x.kind = 0 ∧ x.b0 = (l.completion code detail).1 ∧ x.tag = recField l.record 50 2 ∧ x.launch = some u ∧
      t.launches.find u = some { l with posted := true } ∧ t.queues = s.queues ∧ t.ctxs = s.ctxs :=
  ⟨_, _, execLaunchCompletionPost_of_ring hfind hend hposted hpow hq hcode,
    congrArg Cq.held (s.cq_setCq l.guest _), rfl, rfl, rfl, rfl, Tbl.find_ins_same .., rfl, rfl⟩

end Ended

/-! ### The statement -/

/-- Settles O50: each clause is what its own row does (`launch_judged`, `bind_starts`, `complete_leaves`,
`completion_posted` and `completion_held`). -/
theorem launches : Obligations.Launches := by
  refine ⟨?_, ?_, ?_, ?_⟩
  · intro queue r rest s s1 b hrecs hen hkind hheld hreset hstill hpage hargs hread
    exact launch_judged hrecs hen hkind hheld hreset hstill hpage hargs hread
  · intro u inst core slot l s hfind htarget hslot hnext hrun hclocks hfits hkept hahead
    obtain ⟨t, ht, hctx, hothers, hlaunch⟩ :=
      bind_starts hfind htarget hslot hnext hrun hclocks hfits hkept hahead
    refine ⟨t, ht, ?_⟩
    simp only [hctx]
    refine ⟨rfl, rfl, rfl, rfl, rfl, rfl, rfl, rfl, rfl, rfl, rfl, l.start_chan _ _ _, rfl, rfl, rfl, fun z => ?_,
      hothers, hlaunch⟩
    rw [l.start_seq]
    exact ⟨rfl, rfl, rfl, rfl⟩
  · intro core slot l s c hbound hstop hhandler hquiet h0 h1 hjoints hdone hfind
    exact complete_leaves hbound hstop hhandler hquiet h0 h1 hjoints hdone hfind
  · intro u code detail l s hfind hend hposted hpow w7 q w0
    have hw : w0 = (l.completion code detail).1 := by rw [l.completion_eq]
    rw [hw]
    refine ⟨fun hbit hen hkind howner hroom hfirst => ?_, fun hbit hcode => ?_⟩
    · exact completion_posted hfind hend hposted hpow (State.doneQueue_of_feed hbit hen hkind howner) hroom hfirst
    · exact completion_held hfind hend hposted hpow (State.doneQueue_eq_none hbit) hcode

end Sys2Proof.Machine
end

section
/-! SUPPORT. What accepting a word keeps of the state that its meaning left, and what taking its operands keeps: for the
words that act at their issue, as `starts_of_ready` is for those that do not. -/
namespace Sys2Proof.Machine

/-! ### Accepting -/

/-- The sequencer of an accepted word: what its meaning left of it, but for the flow, the waits, and the word itself,
which is the youngest in flight. -/
theorem sq_accept (r : Req) (t : Taken) (d : Done) :
    ∃ (p : Pending) (pc : VA) (loops : Tbl Loop) (ended : Bool),
      (accept r t d).sq = { d.s.sq with
        pc := pc, loops := loops, ended := ended, inflight := d.s.sq.inflight ++ [p], lastWait := d.s.sq.waited
        waited := 0, waiting := none, stalled := false, memWait := false } ∧
      p.opc = r.opc ∧ p.pc = d.s.sq.pc ∧ p.ts = r.cm.ts ∧ p.es = r.cm.es ∧ p.rsvs = r.slots d.s.who.y ∧
      p.effects = d.eff ∧ p.gate = d.gate ∧ p.carry = d.s.sq.carry := by
  obtain ⟨-, hseq⟩ := foldl_reserve (r.slots d.s.who.y) d.s.me
  unfold accept
  extract_lets y c q p pc flowed issued
  have hq : q = d.s.sq := congrArg (Quad.get · y) hseq
  obtain ⟨next, loops, hflow⟩ : ∃ next loops, flowed = { q with pc := next, loops := loops } :=
    ⟨_, _, q.flow_keeps r.long d.flow⟩
  refine ⟨p, next, loops, q.ended || d.ended, ?_, rfl, congrArg Seqr.pc hq, rfl, rfl, rfl, rfl, rfl,
    congrArg Seqr.carry hq⟩
  rw [State.sq_setMe, Ctx.seq_endRequest, Ctx.seq_leaveFeed, Ctx.seq_dropResume, Ctx.setSeq_get]
  simp only [issued, hflow, hq]
  rfl

/-- An accepted word is in flight with what its meaning gave, where its meaning left the address and the words in flight
of its sequencer as they were. -/
theorem inFlight_accept (r : Req) (t : Taken) (s : State) (d : Done) (hwho : d.s.who = s.who)
    (hin : d.s.sq.inflight = s.sq.inflight) (hpc : d.s.sq.pc = s.sq.pc) :
    InFlight r s (accept r t d) d.eff d.gate := by
  obtain ⟨p, pc, loops, ended, hsq, hopc, hp, hts, hes, hrsvs, heff, hgate, hcarry⟩ := sq_accept r t d
  refine ⟨p, ?_, hopc, hp.trans hpc, hts, hes, hrsvs.trans (by rw [hwho]), heff, hgate, ?_⟩
  · rw [hsq, hin]
  · rw [hsq, hcarry]; rfl

/-- No register changes when a word is accepted. -/
theorem regs_accept (r : Req) (t : Taken) (d : Done) : (accept r t d).sq.s = d.s.sq.s := by
  obtain ⟨p, pc, loops, ended, hsq, -⟩ := sq_accept r t d
  rw [hsq]

/-- Of the executing context an accepted word changes sequencers, channels, and the end of its request alone. -/
theorem rest_accept (r : Req) (t : Taken) (d : Done) :
    (accept r t d).me.rest = (d.s.me.endRequest d.s.who.y).rest := by
  obtain ⟨hrest, -⟩ := foldl_reserve (r.slots d.s.who.y) d.s.me
  unfold accept
  extract_lets y c q p pc q1
  rw [State.me_setMe, Ctx.rest_endRequest, Ctx.rest_leaveFeed, Ctx.rest_dropResume, Ctx.rest_setSeq, hrest,
    ← Ctx.rest_endRequest]

/-! ### The queues of a context -/

@[simp] theorem Ctx.eq_setEq (c : Ctx) (q : Bool) (v : EngQueue) : (c.setEq q v).eq q = v := by
  cases q <;> rfl

@[simp] theorem Ctx.eq_setEq_not (c : Ctx) (q : Bool) (v : EngQueue) : (c.setEq q v).eq (!q) = c.eq (!q) := by
  cases q <;> rfl

@[simp] theorem Ctx.seq_setEq (c : Ctx) (q : Bool) (v : EngQueue) : (c.setEq q v).seq = c.seq := by
  cases q <;> rfl

@[simp] theorem Ctx.eq_setSeq (c : Ctx) (y : Sq) (z : Seqr) (q : Bool) : (c.setSeq y z).eq q = c.eq q := rfl

@[simp] theorem Ctx.eq_endRequest (c : Ctx) (y : Sq) (q : Bool) : (c.endRequest y).eq q = c.eq q := by
  unfold Ctx.endRequest
  split <;> rfl

/-- Contexts that agree beside sequencers, channels and generators agree in their queues. -/
theorem Ctx.eq_of_rest {c d : Ctx} (h : d.rest = c.rest) (q : Bool) : d.eq q = c.eq q :=
  (congrArg (Ctx.eq · q) h :)

/-- Accepting a word changes no queue. -/
theorem eq_accept (r : Req) (t : Taken) (d : Done) (q : Bool) : (accept r t d).me.eq q = d.s.me.eq q :=
  (Ctx.eq_of_rest (rest_accept r t d) q).trans (Ctx.eq_endRequest ..)

/-! ### Taking the operands -/

section Taken
variable (r : Req) (s : State)

/-- Taking operands changes of its sequencer what it has received, and its one-shot limit. -/
theorem Req.sq_taken :
    ∃ p t k, (r.taken s).sq = { s.sq with pts := p, retPts := t, know := k, oneShot := none } := by
  obtain ⟨-, -, p, t, k, h⟩ := r.take_same s.me s.who.y
  exact ⟨p, t, k, by rw [Req.taken, State.sq_setMe, Ctx.setSeq_get, h]; rfl⟩

theorem Req.inflight_taken : (r.taken s).sq.inflight = s.sq.inflight := by
  obtain ⟨p, t, k, h⟩ := r.sq_taken s
  rw [h]

theorem Req.pc_taken : (r.taken s).sq.pc = s.sq.pc := by
  obtain ⟨p, t, k, h⟩ := r.sq_taken s
  rw [h]

theorem Req.rest_taken : (r.taken s).me.rest = s.me.rest := by
  obtain ⟨h, -⟩ := r.take_same s.me s.who.y
  rw [Req.taken, State.me_setMe, Ctx.rest_setSeq, h]

theorem Req.eq_taken (q : Bool) : (r.taken s).me.eq q = s.me.eq q := Ctx.eq_of_rest (r.rest_taken s) q

theorem Req.nextSeq_taken : (r.taken s).me.nextSeq = s.me.nextSeq := (congrArg Ctx.nextSeq (r.rest_taken s) :)

/-- The word of a sole source. -/
theorem take_word_of_one (i : Instr) (opc : Nat) (cm : Common) (a : Spec) (dst : Option Spec) :
    ((scalarReq i opc cm [a] dst).take s.me s.who.y).words.getD 0 0 = operand s [a] 0 :=
  take_words _ s rfl 0 Nat.one_pos

/-- A word whose meaning puts its one queue `q` as `v` and leaves its sequencer alone is in flight. -/
theorem inFlight_setEq (t : Taken) (q : Bool) (v : EngQueue) (gate : Gate) :
    InFlight r s (accept r t { s := (r.taken s).setMe ((r.taken s).me.setEq q v), gate := gate }) [] gate := by
  refine inFlight_accept r t s _ rfl ?_ ?_
  · rw [State.sq_setMe, Ctx.seq_setEq]; exact r.inflight_taken s
  · rw [State.sq_setMe, Ctx.seq_setEq]; exact r.pc_taken s

end Taken

end Sys2Proof.Machine
end

section
/-! PROOFS. The copy engine's queue instructions other than CPUSH (08 R197 to R202). -/
namespace Sys2Proof.Machine

section Queue
variable {cm : Common} {d a : Spec} {q : Bool} {s : State}

/-! ### CPOP and CPEEK -/

/-- R197: the oldest record leaves its queue, and what it carries is received at the issue. -/
theorem cpop_takes {x : Record} {l : List Record}
    (hready : Ready (scalarReq (.cpop cm d q) 0x71 cm [] (some d)) s) (hrec : (s.me.eq q).records = x :: l) :
    let r := scalarReq (.cpop cm d q) 0x71 cm [] (some d)
    let u := r.taken s
    let v := u.setMe (u.me.setEq q { u.me.eq q with records := l })
    exec (.cpop cm d q) s = .next (accept r (r.take s.me s.who.y)
      { s := v.setSq (v.sq.receive x.carry), eff := Spec.write s.who.y d x.word }) := by
  intro r u v
  rw [exec_cpop, execCpop]
  refine issue_ok r _ s _ hready ?_
  have hu : ((r.taken s).me.eq q).records = x :: l := by rw [r.eq_taken, hrec]
  simp only [hu]
  rfl

/-- R197: the issue of CPOP changes the records of its own queue alone, and its word is in flight. -/
theorem cpop_keeps (r : Req) (t : Taken) (q : Bool) (x : Record) (l : List Record) (s : State) (eff : List Effect) :
    let u := r.taken s
    let v := u.setMe (u.me.setEq q { u.me.eq q with records := l })
    let z := accept r t { s := v.setSq (v.sq.receive x.carry), eff := eff }
    (z.me.eq q).records = l ∧ (z.me.eq q).jobs = (s.me.eq q).jobs ∧ z.me.eq (!q) = s.me.eq (!q) ∧
      InFlight r s z eff .open_ := by
  intro u v z
  have hown : z.me.eq q = { s.me.eq q with records := l } := by
    simp [z, v, u, eq_accept, r.eq_taken]
  have hother : z.me.eq (!q) = s.me.eq (!q) := by
    simp [z, v, u, eq_accept, r.eq_taken]
  have hsq : v.sq = u.sq := by rw [State.sq_setMe, Ctx.seq_setEq]; rfl
  refine ⟨by rw [hown], by rw [hown], hother, inFlight_accept r t s _ rfl ?_ ?_⟩
  · rw [State.sq_setSq, hsq]; exact r.inflight_taken s
  · rw [State.sq_setSq, hsq]; exact r.pc_taken s

/-- R198: CPEEK writes the oldest record of its queue at its retire, or all ones, and does nothing at its issue. -/
theorem cpeek_starts (hready : Ready (scalarReq (.cpeek cm d q) 0x72 cm [] (some d)) s) :
    Starts (scalarReq (.cpeek cm d q) 0x72 cm [] (some d)) s (Spec.write s.who.y d
      (match (s.me.eq q).records with | y :: _ => y.word | [] => BitVec.allOnes 64)) .open_ .seq
      (exec (.cpeek cm d q) s) := by
  rw [exec_cpeek, execCpeek]
  refine starts_of_ready _ _ s _ .open_ .seq false hready ?_
  rw [Req.eq_taken]
  rfl

/-! ### CCHAIN and CKICK -/

/-- R199: a chain starts at a legal address; without credit it is parked. -/
theorem cchain_sets {spad : Bool} (hready : Ready (scalarReq (.cchain cm q a spad) 0x73 cm [a] none) s)
    (hst : (s.me.eq q).st ≠ 1) (halign : (operand s [a] 0).toNat % 128 = 0)
    (hrange : (operand s [a] 0).toNat < 2 ^ (if spad then 22 else 57)) :
    let r := scalarReq (.cchain cm q a spad) 0x73 cm [a] none
    let u := r.taken s
    let e := s.me.eq q
    exec (.cchain cm q a spad) s = .next (accept r (r.take s.me s.who.y)
      { s := u.setMe (u.me.setEq q
          { e with ptr := operand s [a] 0, inSpad := spad, carry := u.sq.carry
                   st := if e.credit = 0 then 2 else 1, park := if e.credit = 0 then 1 else 0 }) }) := by
  intro r u e
  rw [exec_cchain, execCchain]
  refine issue_ok r _ s _ hready ?_
  have hword : (r.take s.me s.who.y).words.getD 0 0 = operand s [a] 0 := take_word_of_one ..
  have hlegal : ¬ (e.st == 1 || (operand s [a] 0).toNat % 128 != 0 ||
      decide (2 ^ (if spad then 22 else 57) ≤ (operand s [a] 0).toNat)) := by
    rw [decide_eq_false (Nat.not_le.mpr hrange)]
    simp [e, hst, halign]
  simp only [hword, r.eq_taken]
  rw [if_neg hlegal]

/-- R200: credit is added, and a chain parked for want of it goes on. -/
theorem ckick_adds {n : BitVec 16} (hready : Ready (scalarReq (.ckick cm q a n) 0x74 cm [a] none) s)
    (hcredit : (s.me.eq q).credit + n.toNat + (operand s [a] 0).toNat ≤ 65535) :
    let r := scalarReq (.ckick cm q a n) 0x74 cm [a] none
    let u := r.taken s
    let e := s.me.eq q
    let v := e.credit + n.toNat + (operand s [a] 0).toNat
    let go : Bool := decide (e.st = 2 ∧ e.park = 1 ∧ 0 < v)
    exec (.ckick cm q a n) s = .next (accept r (r.take s.me s.who.y)
      { s := u.setMe (u.me.setEq q
          { e with credit := v, carry := u.sq.carry
                   st := if go then 1 else e.st, park := if go then 0 else e.park }) }) := by
  intro r u e v go
  rw [exec_ckick, execCkick]
  refine issue_ok r _ s _ hready ?_
  have hword : (r.take s.me s.who.y).words.getD 0 0 = operand s [a] 0 := take_word_of_one ..
  have hgo : (e.st == 2 && e.park == 1 && decide (0 < v)) = go := by
    rw [Bool.eq_iff_iff]
    simp [go, and_assoc]
  simp only [hword, r.eq_taken]
  rw [if_neg (Nat.not_lt.mpr hcredit), hgo]

/-! ### CQSTAT -/

/-- R201: CQSTAT writes Table 8.7 at its retire, as it stands at its issue, and does nothing else. -/
theorem cqstat_starts (hready : Ready (scalarReq (.cqstat cm d q) 0x75 cm [] (some d)) s) :
    Starts (scalarReq (.cqstat cm d q) 0x75 cm [] (some d)) s
      (Spec.write s.who.y d (cqstatWord (s.me.eq q) s.me.nextSeq)) .open_ .seq (exec (.cqstat cm d q) s) := by
  rw [exec_cqstat, execCqstat]
  refine starts_of_ready _ _ s _ .open_ .seq false hready ?_
  rw [Req.eq_taken, Req.nextSeq_taken]
  rfl

/-! ### CABORT -/

/-- R202: a command whose elements are not over is, with kind 5; any other stays as it is. -/
theorem Job.abort_eq (j : Job) : j.abort = if j.stoppable then { j with st := .over, kind := 5 } else j := by
  unfold Job.abort Job.stoppable
  cases j.st <;> rfl

/-- The commands that CABORT stops: of those that it names, the ones whose elements are not over (R202). -/
def Job.stopped (a : Spec) (v : Word) (j : Job) : Bool :=
  (a = .s 0 ∨ j.seq = (v.extractLsb' 0 32).toNat) ∧ (j.st = .waiting ∨ j.st = .running)

theorem Job.stopped_eq (a : Spec) (v : Word) (j : Job) :
    j.stopped a v = ((a == .s 0 || j.seq == (v.extractLsb' 0 32).toNat) && j.stoppable) := by
  rw [Bool.eq_iff_iff]
  simp [Job.stopped, Job.stoppable]

/-- A queue whose commands CABORT has stopped; its chain is parked where all of them were named (R202). -/
def EngQueue.aborted (e : EngQueue) (a : Spec) (v : Word) : EngQueue :=
  { e with
    jobs := e.jobs.map fun j => if j.stopped a v then { j with st := .over, kind := 5 } else j
    st := if a = .s 0 then 2 else e.st
    park := if a = .s 0 then 5 else e.park }

/-- R202: CABORT stops what it names in its own queue, and will retire when that has completed. -/
theorem cabort_stops (hready : Ready (scalarReq (.cabort cm q a) 0x76 cm [a] none) s) :
    let r := scalarReq (.cabort cm q a) 0x76 cm [a] none
    let u := r.taken s
    let e := s.me.eq q
    let v := operand s [a] 0
    exec (.cabort cm q a) s = .next (accept r (r.take s.me s.who.y)
      { s := u.setMe (u.me.setEq q (e.aborted a v))
        gate := .engine ((e.jobs.filter (·.stopped a v)).map (·.uid)) }) := by
  intro r u e v
  rw [exec_cabort, execCabort]
  refine issue_ok r _ s _ hready ?_
  have hword : (r.take s.me s.who.y).words.getD 0 0 = v := take_word_of_one ..
  have hjob (j : Job) : (if a == .s 0 || j.seq == (v.extractLsb' 0 32).toNat then j.abort else j) =
      if j.stopped a v then { j with st := .over, kind := 5 } else j := by
    rw [j.abort_eq, j.stopped_eq]
    cases a == .s 0 || j.seq == (v.extractLsb' 0 32).toNat <;> rfl
  simp only [hword, r.eq_taken, hjob, ← Job.stopped_eq, beq_iff_eq]
  rfl

end Queue

/-! ### The statement -/

/-- Settles O22: each clause is what its own row does (`cpop_takes` and `cpop_keeps`, `cpeek_starts`, `cchain_sets`,
`ckick_adds`, `cqstat_starts` and `cabort_stops`). -/
theorem queueInstructions : Obligations.QueueInstructions := by
  intro cm d a q spad n x l s
  refine ⟨?_, ?_, ?_, ?_, ?_, ?_⟩
  · intro r u v hready hrec
    obtain ⟨hrecs, hjobs, hother, hin⟩ :=
      cpop_keeps r (r.take s.me s.who.y) q x l s (Spec.write s.who.y d x.word)
    exact ⟨_, cpop_takes hready hrec, rfl, hrecs, hjobs, hother, hin⟩
  · intro r hready
    obtain ⟨t, ht, honly, hin, hflows⟩ := cpeek_starts hready
    exact ⟨t, ht, honly, hflows, hin⟩
  · intro r u e v hready hst halign hrange
    exact ⟨_, cchain_sets hready hst halign hrange, rfl, inFlight_setEq r s _ q _ .open_⟩
  · intro r u e v go hready hcredit
    exact ⟨_, ckick_adds hready hcredit, rfl, inFlight_setEq r s _ q _ .open_⟩
  · intro r e w hready
    obtain ⟨t, ht, honly, hin, hflows⟩ := cqstat_starts hready
    have hw : w = (e.jobs.filter (!·.begun)).length := by simp [w]
    refine ⟨t, ht, honly, hflows, ?_⟩
    rw [hw]
    exact hin
  · intro r u e hit hready
    refine ⟨_, cabort_stops hready, inFlight_setEq r s _ q _ _, ?_⟩
    rw [eq_accept, eq_accept, regs_accept, State.me_setMe, Ctx.eq_setEq, Ctx.eq_setEq_not, r.eq_taken, State.sq_setMe,
      Ctx.seq_setEq]
    exact ⟨rfl, rfl, rfl, fun h => ⟨if_pos h, if_pos h⟩, fun h => ⟨if_neg h, if_neg h⟩, rfl⟩

end Sys2Proof.Machine
end

section
/-! SUPPORT. The bits of a line by its elements and by its cells (06 Table 6.1, R121, 02 R39): what a line made of codes,
a mask of elements, and a masked merge hold. -/
namespace Sys2Proof.Machine

/-! ### Sizes -/

theorem perCell_cases (tag : Nat) : perCell tag = 1 ∨ perCell tag = 2 ∨ perCell tag = 4 ∨ perCell tag = 8 := by
  unfold perCell
  split_ifs <;> simp

/-- The containers of a cell fill it. -/
theorem perCell_mul_cbits (tag : Nat) : perCell tag * cbits tag = 32 := by
  unfold cbits
  rcases perCell_cases tag with h | h | h | h <;> rw [h]

/-- The containers of a line fill it. -/
theorem elems_mul_cbits (tag : Nat) : elems tag * cbits tag = 2048 := by
  rw [elems, Nat.mul_assoc, perCell_mul_cbits]

theorem cbits_pos (tag : Nat) : 0 < cbits tag := Nat.pos_of_mul_pos_left (by rw [perCell_mul_cbits]; decide)

/-- The bits of a container lie in the line. -/
theorem container_le {tag m : Nat} (hm : m < elems tag) : m * cbits tag + cbits tag ≤ 2048 := by
  rw [← elems_mul_cbits tag, ← Nat.succ_mul]
  exact Nat.mul_le_mul_right _ hm

/-! ### Containers -/

theorem elem_lt (tag : Nat) (l : LineBits) (m : Nat) : elem tag l m < 2 ^ cbits tag := Nat.mod_lt _ (Nat.two_pow_pos _)

/-- Bit `i` of a container is a bit of the line. -/
theorem testBit_elem (tag : Nat) (l : LineBits) (m i : Nat) :
    (elem tag l m).testBit i = (decide (i < cbits tag) && l.getLsbD (m * cbits tag + i)) := by
  rw [elem, Nat.testBit_mod_two_pow, Nat.testBit_div_two_pow, Nat.add_comm, BitVec.getLsbD]

/-- Each bit of a line is a bit of one container. -/
theorem getLsbD_eq_testBit_elem (tag : Nat) (l : LineBits) (i : Nat) :
    l.getLsbD i = (elem tag l (i / cbits tag)).testBit (i % cbits tag) := by
  rw [testBit_elem, decide_eq_true (Nat.mod_lt _ (cbits_pos tag)), Bool.true_and, Nat.div_add_mod']

/-- A number's containers are its digits, as far as the line reaches. -/
theorem elem_ofNat (tag n : Nat) {m : Nat} (hm : m < elems tag) :
    elem tag (BitVec.ofNat 2048 n) m = n / 2 ^ (m * cbits tag) % 2 ^ cbits tag := by
  refine Nat.eq_of_testBit_eq fun i => ?_
  rw [testBit_elem, Nat.testBit_mod_two_pow, Nat.testBit_div_two_pow, BitVec.getLsbD_ofNat, Nat.add_comm i]
  by_cases hi : i < cbits tag
  · have := container_le hm
    rw [decide_eq_true (show m * cbits tag + i < 2048 by omega), Bool.true_and]
  · simp [hi]

/-! ### Lines made of codes -/

theorem packCodes_digit (w : Nat) (cs : List Nat) (m : Nat) :
    packCodes w cs / 2 ^ (m * w) % 2 ^ w = cs.getD m 0 % 2 ^ w := by
  induction cs generalizing m with
  | nil => simp [packCodes]
  | cons c cs ih =>
    have hw : 0 < 2 ^ w := Nat.two_pow_pos w
    cases m with
    | zero => simp [packCodes]
    | succ m =>
      have htail : packCodes w (c :: cs) / 2 ^ w = packCodes w cs := by
        rw [packCodes, Nat.add_mul_div_left _ _ hw, Nat.div_eq_of_lt (Nat.mod_lt _ hw), Nat.zero_add]
      rw [Nat.succ_mul, Nat.add_comm, Nat.pow_add, ← Nat.div_div_eq_div_mul, htail, ih, List.getD_cons_succ]

/-- A line made of codes holds them, as far as it reaches. -/
theorem elem_packCodes (tag : Nat) (cs : List Nat) {m : Nat} (hm : m < elems tag) :
    elem tag (BitVec.ofNat 2048 (packCodes (cbits tag) cs)) m = cs.getD m 0 % 2 ^ cbits tag := by
  rw [elem_ofNat tag _ hm, packCodes_digit]

theorem packCodes_append (w : Nat) (cs : List Nat) (c : Nat) :
    packCodes w (cs ++ [c]) = packCodes w cs + c % 2 ^ w * 2 ^ (cs.length * w) := by
  induction cs with
  | nil => simp [packCodes]
  | cons x cs ih =>
    rw [List.cons_append, packCodes, packCodes, ih, List.length_cons, Nat.succ_mul, Nat.pow_add]
    ring

/-- The two ways of laying codes beside each other agree. -/
theorem foldl_eq_packCodes (w n : Nat) (f : Nat → Nat) :
    (List.range n).foldl (fun a m => a + f m % 2 ^ w * 2 ^ (m * w)) 0 = packCodes w ((List.range n).map f) := by
  induction n with
  | zero => rfl
  | succ n ih =>
    rw [List.range_succ, List.foldl_append, List.map_append, ih]
    simp [packCodes_append]

theorem elem_lineOfElems (tag : Nat) (f : Nat → Nat) {m : Nat} (hm : m < elems tag) :
    elem tag (lineOfElems tag f) m = f m % 2 ^ cbits tag := by
  rw [lineOfElems, foldl_eq_packCodes, elem_packCodes tag _ hm]
  simp [List.getD_eq_getElem?_getD, hm]

/-! ### Masks of elements -/

/-- A mask holds the bits of the containers that its test chooses. -/
theorem getLsbD_elemMask (tag : Nat) (take : Nat → Bool) {i : Nat} (hi : i < 2048) :
    (elemMask tag take).getLsbD i = take (i / cbits tag) := by
  have hm : i / cbits tag < elems tag := by
    rw [Nat.div_lt_iff_lt_mul (cbits_pos tag), elems_mul_cbits]; exact hi
  have hbit : i % cbits tag < cbits tag := Nat.mod_lt _ (cbits_pos tag)
  rw [getLsbD_eq_testBit_elem tag, elemMask, elem_lineOfElems tag _ hm, Nat.testBit_mod_two_pow]
  cases take (i / cbits tag) <;> simp [hbit, Nat.testBit_two_pow_sub_one]

/-- A merge under a mask of elements takes the chosen containers from the new line, the others from the old. -/
theorem elem_maskBits (tag : Nat) (old new : LineBits) (take : Nat → Bool) {m : Nat} (hm : m < elems tag) :
    elem tag (maskBits old new (elemMask tag take)) m = if take m then elem tag new m else elem tag old m := by
  refine Nat.eq_of_testBit_eq fun i => ?_
  by_cases hi : i < cbits tag
  · have hlt : m * cbits tag + i < 2048 := by have := container_le hm; omega
    have hdiv : (m * cbits tag + i) / cbits tag = m := by
      rw [Nat.mul_comm, Nat.mul_add_div (cbits_pos tag), Nat.div_eq_of_lt hi, Nat.add_zero]
    rw [testBit_elem, maskBits, BitVec.getLsbD_or, BitVec.getLsbD_and, BitVec.getLsbD_and, BitVec.getLsbD_not,
      getLsbD_elemMask tag take hlt, hdiv]
    cases take m <;> simp [testBit_elem, hi, hlt]
  · cases take m <;> simp [testBit_elem, hi]

/-! ### Cells -/

/-- A line made of its cells, bit for bit. -/
theorem getLsbD_lineOf (f : Nat → BitVec 32) {i : Nat} (hi : i < 2048) :
    (lineOf f).getLsbD i = (f (i / 32)).getLsbD (i % 32) := by
  have key (n : Nat) : ((List.range n).foldl (fun a k => a ||| ((f k).setWidth 2048 <<< (32 * k))) 0#2048).getLsbD i =
      (decide (i / 32 < n) && (f (i / 32)).getLsbD (i % 32)) := by
    induction n with
    | zero => simp
    | succ n ih =>
      rw [List.range_succ, List.foldl_append, List.foldl_cons, List.foldl_nil, BitVec.getLsbD_or, ih,
        BitVec.getLsbD_shiftLeft, BitVec.getLsbD_setWidth]
      rcases Nat.lt_trichotomy (i / 32) n with h | h | h
      · rw [decide_eq_true (show i < 32 * n by omega)]
        simp [h, Nat.lt_succ_of_lt h]
      · subst h
        rw [show i - 32 * (i / 32) = i % 32 by omega, decide_eq_false (show ¬ i < 32 * (i / 32) by omega)]
        simp [hi, show i % 32 < 2048 by omega]
      · rw [BitVec.getLsbD_of_ge (f n) _ (by omega)]
        simp [show ¬ i / 32 < n by omega, show ¬ i / 32 < n + 1 by omega]
  rw [lineOf, show (0 : LineBits) = 0#2048 from rfl, key 64, decide_eq_true (by omega), Bool.true_and]

theorem lineCell_lineOf (f : Nat → BitVec 32) {i : Nat} (hi : i < 64) : lineCell (lineOf f) i = f i := by
  refine BitVec.eq_of_getLsbD_eq fun j hj => ?_
  rw [lineCell, BitVec.getLsbD_extractLsb', getLsbD_lineOf f (by omega), decide_eq_true hj, Bool.true_and,
    show (32 * i + j) / 32 = i by omega, show (32 * i + j) % 32 = j by omega]

/-- A mask leaves a cell empty just where its test chooses no element of the cell. -/
theorem lineCell_elemMask_eq_zero (tag : Nat) (take : Nat → Bool) {i : Nat} (hi : i < 64) :
    lineCell (elemMask tag take) i = 0 ↔
      ((List.range (perCell tag)).any fun k => take (i * perCell tag + k)) = false := by
  have hcell := perCell_mul_cbits tag
  have hpos := cbits_pos tag
  have hbit (j : Nat) (hj : j < 32) :
      (lineCell (elemMask tag take) i).getLsbD j = take (i * perCell tag + j / cbits tag) := by
    rw [lineCell, BitVec.getLsbD_extractLsb', getLsbD_elemMask tag take (by omega), decide_eq_true hj, Bool.true_and,
      ← hcell, show perCell tag * cbits tag * i + j = cbits tag * (i * perCell tag) + j by ring,
      Nat.mul_add_div hpos]
  rw [List.any_eq_false]
  constructor
  · intro h k hk
    have hj : k * cbits tag < 32 := by
      rw [← hcell]; exact Nat.mul_lt_mul_of_pos_right (List.mem_range.mp hk) hpos
    have := hbit _ hj
    rw [h, Nat.mul_div_cancel _ hpos] at this
    simp [← this]
  · intro h
    refine BitVec.eq_of_getLsbD_eq fun j hj => ?_
    have hk : j / cbits tag < perCell tag := by rw [Nat.div_lt_iff_lt_mul hpos, hcell]; exact hj
    rw [hbit j hj, Bool.eq_false_iff.mpr (h _ (List.mem_range.mpr hk))]
    simp

/-- The cells of which a mask of elements holds a bit are those of the elements that its test chooses. -/
theorem lineCell_wholeCells (tag : Nat) (take : Nat → Bool) {i : Nat} (hi : i < 64) :
    lineCell (wholeCells (elemMask tag take)) i =
      if (List.range (perCell tag)).any fun k => take (i * perCell tag + k) then BitVec.allOnes 32 else 0 := by
  rw [wholeCells, lineCell_lineOf _ hi]
  simp only [lineCell_elemMask_eq_zero tag take hi]
  cases (List.range (perCell tag)).any fun k => take (i * perCell tag + k) <;> rfl

end Sys2Proof.Machine
end

section
/-! SUPPORT. What taking the operands of a vector word leaves of tiles, predicates and generators, and the lines that it
pops (02 R39, R40). -/
namespace Sys2Proof.Machine

/-! ### The state that taking operands leaves -/

section Taken
variable (r : Req) (s : State)

theorem Req.reg_taken (n : Nat) : (r.taken s).sq.reg n = s.sq.reg n := by
  obtain ⟨p, t, k, h⟩ := r.sq_taken s
  rw [h]; rfl

@[simp] theorem Req.index_taken (z : TileLine) : TileLine.index z (r.taken s).sq = TileLine.index z s.sq := by
  rw [TileLine.index, r.reg_taken]; rfl

@[simp] theorem Req.tile_taken (n : Nat) : (r.taken s).me.tile n = s.me.tile n :=
  (congrArg (Ctx.tile · n) (r.rest_taken s) :)

@[simp] theorem Req.pred_taken (n : Nat) : (r.taken s).me.pred n = s.me.pred n :=
  (congrArg (Ctx.pred · n) (r.rest_taken s) :)

@[simp] theorem Req.fzOn_taken : (r.taken s).me.fzOn = s.me.fzOn := (congrArg Ctx.fzOn (r.rest_taken s) :)

@[simp] theorem Req.tileTag_taken (z : TileLine) : (r.taken s).tileTag z = s.tileTag z := by
  simp [State.tileTag]

@[simp] theorem Req.tileLine_taken (z : TileLine) : (r.taken s).tileLine z = s.tileLine z := by
  simp [State.tileLine]

@[simp] theorem Req.eccOf_taken (l : List TileLine) : (r.taken s).eccOf l = s.eccOf l := by
  have h : (r.taken s).tileEcc = s.tileEcc := funext fun z => by simp [State.tileEcc]
  rw [State.eccOf, h]; rfl

@[simp] theorem Req.mergeEcc_taken (z : TileLine) (mask : LineBits) :
    (r.taken s).mergeEcc z mask = s.mergeEcc z mask := by
  simp [State.mergeEcc]

@[simp] theorem Req.vecFmt_taken (srcs : List Line) (d : Option Line) (dflt lo hi : Nat) :
    (r.taken s).vecFmt srcs d dflt lo hi = s.vecFmt srcs d dflt lo hi := by
  have h : (r.taken s).tileTag = s.tileTag := funext (r.tileTag_taken s)
  simp only [State.vecFmt, h]

@[simp] theorem Req.vecLines_taken (srcs : List Line) (popped : List LineBits) :
    (r.taken s).vecLines srcs popped = s.vecLines srcs popped := by
  induction srcs generalizing popped with
  | nil => rfl
  | cons x srcs ih => cases x <;> simp [State.vecLines, ih]

/-- No line in flight to a generator comes or goes. -/
theorem Req.genPushes_taken (g : Nat) : (r.taken s).me.genPushes g = s.me.genPushes g := by
  have h (z : Sq) : ((r.taken s).me.seq.get z).inflight = (s.me.seq.get z).inflight := by
    by_cases hz : z = s.who.y
    · rw [hz]; exact r.inflight_taken s
    · obtain ⟨-, hother, -⟩ := r.take_same s.me s.who.y
      rw [Req.taken, State.me_setMe, Ctx.setSeq, Quad.get_set_ne _ _ _ _ hz, hother z hz]
  simp only [Ctx.genPushes, h]

end Taken

/-! ### The lines popped -/

/-- The lines that generators give to a word in order, once those of `pre` have been popped (02 R40). -/
def Ctx.popped (c : Ctx) : List Nat → List Nat → List LineBits
  | _, [] => []
  | pre, g :: l => ((c.gen g).buf.getD (pre.count g) ⟨0, ⟨0, []⟩⟩).bits :: c.popped (pre ++ [g]) l

/-- What the generators of a context have become after some lines are popped: what is set and the lines that are left;
one from which nothing was popped is as it was. -/
structure LineInv (c : Ctx) (pre : List Nat) (d : Ctx) : Prop where
  cfg : ∀ g, (d.gen g).cfg = (c.gen g).cfg
  buf : ∀ g, (d.gen g).buf = (c.gen g).buf.drop (pre.count g)
  kept : ∀ g, g ∉ pre → d.gen g = c.gen g

@[simp] theorem Ctx.gen_setSeq (c : Ctx) (y : Sq) (q : Seqr) (g : Nat) : (c.setSeq y q).gen g = c.gen g := rfl

theorem Ctx.gen_setGen (c : Ctx) (n g : Nat) (v : Gen) : (c.setGen n v).gen g = if g = n then v else c.gen g :=
  Tbl.get_put _ _ _ _ _

theorem count_snoc_ne {α : Type} [DecidableEq α] {l : List α} {a b : α} (h : b ≠ a) :
    (l ++ [a]).count b = l.count b := by
  simp [List.count_append, Ne.symm h]

/-- One more line popped from a generator that is set. -/
theorem LineInv.step {c : Ctx} {pre : List Nat} {t : Taken} (y : Sq) (h : LineInv c pre t.ctx) {g : Nat}
    (hg : (c.gen g).cfg ≠ none) :
    LineInv c (pre ++ [g]) (Taken.line y t g).ctx ∧
      (Taken.line y t g).lines = t.lines ++ [((c.gen g).buf.getD (pre.count g) ⟨0, ⟨0, []⟩⟩).bits] := by
  obtain ⟨hcfg, hbuf, hkept⟩ := h
  obtain ⟨k, hk⟩ := Option.ne_none_iff_exists'.mp (hcfg g ▸ hg : (t.ctx.gen g).cfg ≠ none)
  have hhead : (c.gen g).buf.getD (pre.count g) ⟨0, ⟨0, []⟩⟩ = (t.ctx.gen g).buf.headD ⟨0, ⟨0, []⟩⟩ := by
    rw [hbuf, List.headD_eq_head?_getD, List.head?_drop, List.getD_eq_getElem?_getD]
  have htail : (t.ctx.gen g).buf.tail = (c.gen g).buf.drop ((pre ++ [g]).count g) := by
    rw [hbuf, List.tail_drop, List.count_append, List.count_singleton_self]
  rw [hhead]
  cases hb : (t.ctx.gen g).buf with
  | nil =>
    have hline : Taken.line y t g = { t with lines := t.lines ++ [0] } := by
      unfold Taken.line; dsimp only; rw [hb]
    rw [hline]
    refine ⟨⟨hcfg, fun j => ?_, fun j hj => hkept j (by simp_all)⟩, rfl⟩
    by_cases hj : j = g
    · subst hj; rw [← htail, hb]; rfl
    · rw [count_snoc_ne hj]; exact hbuf j
  | cons l rest =>
    have hline : Taken.line y t g =
        { t with
          ctx := (t.ctx.setGen g { t.ctx.gen g with buf := rest, pos := k.next (t.ctx.gen g).pos }).setSeq y
            ((t.ctx.seq.get y).receive l.carry)
          pops := t.pops ++ [.line g l]
          lines := t.lines ++ [l.bits] } := by
      unfold Taken.line; dsimp only; rw [hb, hk]
    rw [hline]
    refine ⟨⟨fun j => ?_, fun j => ?_, fun j hj => ?_⟩, rfl⟩
    · rw [Ctx.gen_setSeq, Ctx.gen_setGen]
      split
      · next hj => rw [hj, ← hcfg]
      · exact hcfg j
    · rw [Ctx.gen_setSeq, Ctx.gen_setGen]
      split
      · next hj => rw [hj, ← htail, hb]; rfl
      · next hj => rw [count_snoc_ne hj]; exact hbuf j
    · rw [Ctx.gen_setSeq, Ctx.gen_setGen, if_neg (by simp_all)]
      exact hkept j (by simp_all)

theorem LineInv.fold {c : Ctx} (y : Sq) (l : List Nat) (hl : ∀ g ∈ l, (c.gen g).cfg ≠ none) (pre : List Nat) (t : Taken)
    (h : LineInv c pre t.ctx) :
    LineInv c (pre ++ l) (l.foldl (Taken.line y) t).ctx ∧
      (l.foldl (Taken.line y) t).lines = t.lines ++ c.popped pre l := by
  induction l generalizing pre t with
  | nil => simpa [Ctx.popped] using h
  | cons g l ih =>
    obtain ⟨hinv, hlines⟩ := h.step y (hl g (List.mem_cons_self ..))
    obtain ⟨hinv', hlines'⟩ := ih (fun j hj => hl j (List.mem_cons_of_mem _ hj)) _ _ hinv
    rw [List.foldl_cons, hlines', hlines]
    refine ⟨by simpa using hinv', ?_⟩
    simp [Ctx.popped]

/-- What is taken before the lines leaves the generators and takes no line. -/
structure NoLine (c : Ctx) (t : Taken) : Prop where
  gens : t.ctx.gens = c.gens
  lines : t.lines = []

theorem NoLine.pop {c : Ctx} {t : Taken} (h : NoLine c t) (y : Sq) (k : ChanKind) (ch : Nat) : NoLine c (t.pop y k ch).1 := by
  unfold Taken.pop
  dsimp only
  split
  · exact h
  · exact ⟨by cases k <;> exact h.gens, h.lines⟩

theorem NoLine.source {c : Ctx} {t : Taken} (h : NoLine c t) (y : Sq) (f : Spec) : NoLine c (Taken.source y t f) := by
  cases f with
  | s n => exact ⟨h.gens, h.lines⟩
  | li n => exact ⟨h.gens, h.lines⟩
  | q z => exact ⟨(h.pop y .data (chanIx z y)).gens, (h.pop y .data (chanIx z y)).lines⟩

theorem NoLine.foldl {α : Type} {c : Ctx} {f : Taken → α → Taken} (hf : ∀ t a, NoLine c t → NoLine c (f t a)) (l : List α)
    {t : Taken} (h : NoLine c t) : NoLine c (l.foldl f t) := by
  induction l generalizing t with
  | nil => exact h
  | cons a l ih => exact ih (hf t a h)

/-- Tokens, carriers, scalar sources and outcomes come before the lines (02 R26, R37, R40). -/
theorem Req.take_eq_lines (r : Req) (c : Ctx) (y : Sq) :
    ∃ t, NoLine c t ∧ r.take c y = r.gsrc.foldl (Taken.line y) t := by
  refine ⟨_, ?_, rfl⟩
  have htok : NoLine c (Sq.order.foldl (fun t z =>
      if r.cm.tw.getLsbD z.num then (t.pop y .tok (chanIx z y)).1 else t) ⟨c, [], [], []⟩) := by
    refine NoLine.foldl (fun t z h => ?_) _ ⟨rfl, rfl⟩
    split
    · exact h.pop ..
    · exact h
  have hev : ∀ {t}, NoLine c t → NoLine c (if r.cm.ew = 0 then t else
      { t with ctx := t.ctx.setSeq y ((t.ctx.seq.get y).receive (c.eventCarry r.cm.ew.toNat)) }) := by
    intro t h
    split
    · exact h
    · exact ⟨h.gens, h.lines⟩
  have hsrc := NoLine.foldl (fun t f h => NoLine.source h y f) r.srcs (hev htok)
  cases r.boSrc with
  | none => exact hsrc
  | some ch => exact ⟨(hsrc.pop y .bo ch).gens, (hsrc.pop y .bo ch).lines⟩

/-- The lines that a word pops, and what that leaves of the generators. -/
theorem Req.lines_take (r : Req) (s : State) (hset : ∀ g ∈ r.gsrc, (s.me.gen g).cfg ≠ none) :
    (r.take s.me s.who.y).lines = s.me.popped [] r.gsrc ∧ ∀ g, g ∉ r.gsrc → (r.taken s).me.gen g = s.me.gen g := by
  obtain ⟨t, ⟨hgens, hlines⟩, htake⟩ := r.take_eq_lines s.me s.who.y
  have hgen (g : Nat) : t.ctx.gen g = s.me.gen g := by rw [Ctx.gen, hgens]; rfl
  have hinv : LineInv s.me [] t.ctx := ⟨fun g => by rw [hgen], fun g => by rw [hgen]; rfl, fun g _ => hgen g⟩
  obtain ⟨⟨-, -, hkept⟩, htaken⟩ := hinv.fold s.who.y r.gsrc hset
  refine ⟨by rw [htake, htaken, hlines, List.nil_append], fun g hg => ?_⟩
  rw [Req.taken, State.me_setMe, Ctx.gen_setSeq, htake]
  exact hkept g hg

/-- A push meets the same words of a generator that gives no line to the word. -/
theorem Req.pushEcc_taken (r : Req) (s : State) (hset : ∀ g ∈ r.gsrc, (s.me.gen g).cfg ≠ none) {g : Nat}
    (hg : g ∉ r.gsrc) (n : Nat) : (r.taken s).me.pushEcc g n = s.me.pushEcc g n := by
  have hspad : (r.taken s).me.spad = s.me.spad := (congrArg Ctx.spad (r.rest_taken s) :)
  have hgen := (r.lines_take s hset).2 g hg
  simp only [Ctx.pushEcc, r.genPushes_taken, hspad, hgen]

/-! ### The lines of the sources -/

theorem gensOf_append (l m : List Line) : gensOf (l ++ m) = gensOf l ++ gensOf m := List.filterMap_append ..

/-- A generator stands as often among some lines as its number among their generators. -/
theorem count_gensOf (l : List Line) (g : BitVec 3) : (gensOf l).count g.toNat = l.countP fun x => x == .gen g := by
  induction l with
  | nil => rfl
  | cons x l ih =>
    rw [show x :: l = [x] ++ l from rfl, gensOf_append, List.count_append, List.countP_append, ih]
    congr 1
    cases x with
    | tile z => rfl
    | gen k => simp [gensOf, List.count_singleton, List.countP_cons, BitVec.toNat_inj]

/-- Source by source, a word reads the lines that its operands give. -/
theorem vecLines_popped (s : State) (srcs pre : List Line) (n : Nat) :
    (s.vecLines srcs (s.me.popped (gensOf pre) (gensOf srcs))).getD n 0 =
      if n < srcs.length then lineOperand s (pre ++ srcs) (pre.length + n) else 0 := by
  induction srcs generalizing pre n with
  | nil => simp [State.vecLines]
  | cons x srcs ih =>
    have hrest (k : Nat) : (s.vecLines srcs (s.me.popped (gensOf (pre ++ [x])) (gensOf srcs))).getD k 0 =
        if k + 1 < (x :: srcs).length then lineOperand s (pre ++ x :: srcs) (pre.length + (k + 1)) else 0 := by
      rw [ih (pre ++ [x]) k, ← List.append_cons, List.length_append, List.length_singleton, List.length_cons,
        if_congr Nat.add_lt_add_iff_right.symm rfl rfl, Nat.add_assoc, Nat.add_comm 1 k]
    cases x with
    | tile z =>
      have hpre : gensOf pre = gensOf (pre ++ [.tile z]) := by simp [gensOf]
      rw [show gensOf (.tile z :: srcs) = gensOf srcs from rfl, State.vecLines]
      cases n with
      | zero => simp [lineOperand]
      | succ n => rw [List.getD_cons_succ, hpre, hrest]
    | gen g =>
      have hpre : gensOf pre ++ [g.toNat] = gensOf (pre ++ [.gen g]) := by simp [gensOf]
      rw [show gensOf (.gen g :: srcs) = g.toNat :: gensOf srcs from rfl, Ctx.popped, State.vecLines]
      cases n with
      | zero => simp [lineOperand, count_gensOf]
      | succ n => rw [List.getD_cons_succ, List.tail_cons, hpre, hrest]

theorem lineOperand_of_length_le (s : State) (srcs : List Line) {n : Nat} (h : srcs.length ≤ n) : lineOperand s srcs n = 0 := by
  simp [lineOperand, List.getElem?_eq_none h]

/-- A word whose generator sources, all of them set, are those of `srcs` reads its source lines as its operands give
them. -/
theorem Req.lines_taken (r : Req) (s : State) {srcs : List Line} (hsrc : r.gsrc = gensOf srcs)
    (hset : ∀ g ∈ r.gsrc, (s.me.gen g).cfg ≠ none) (n : Nat) :
    ((r.taken s).vecLines srcs (r.take s.me s.who.y).lines).getD n 0 = lineOperand s srcs n := by
  rw [r.vecLines_taken, (r.lines_take s hset).1, hsrc]
  have h := vecLines_popped s srcs [] n
  rw [show gensOf [] = [] from rfl] at h
  rw [h, List.nil_append, List.length_nil, Nat.zero_add]
  split
  · rfl
  · next hn => exact (lineOperand_of_length_le s srcs (Nat.not_lt.mp hn)).symm

/-! ### The generators of a word that is ready -/

/-- Generator operands that fail their check trap before issue (02 R44). -/
theorem Req.gens_ok_of_preTrap {r : Req} {c : Ctx} {y : Sq} (h : r.preTrap c y = none) {u : GenUse} (hu : u ∈ r.gens) :
    u.ok c (c.seq.get y) = true := by
  by_contra hno
  have hfail : (r.gens.any fun u => !u.ok c (c.seq.get y)) = true := List.any_eq_true.mpr ⟨u, hu, by simpa using hno⟩
  simp only [Req.preTrap, hfail] at h
  cases hbrk : r.brk <;> rw [hbrk] at h <;> split_ifs at h

/-- A generator operand of a ready word is set, and for the direction in which the word uses it (02 R40). -/
theorem Ready.gen_set {r : Req} {s : State} (h : Ready r s) {u : GenUse} (hu : u ∈ r.gens) (hany : u.any = false) :
    ∃ k, (s.me.gen u.g).cfg = some k ∧ k.write = u.write := by
  obtain ⟨htrap, -, -, hheld, -⟩ := h
  have hpending : s.sq.genPending u.g = false := by
    rw [Bool.eq_false_iff]
    intro hp
    have : r.held s.me s.sq = true := by
      simp only [Req.held, Bool.or_eq_true, List.any_eq_true]
      exact .inl (.inl (.inl (.inl (.inr ⟨u, hu, .inl hp⟩))))
    rw [hheld] at this
    cases this
  have hok : u.ok s.me s.sq = true := Req.gens_ok_of_preTrap htrap hu
  unfold GenUse.ok at hok
  rw [hany, hpending] at hok
  cases hcfg : (s.me.gen u.g).cfg with
  | none => simp [hcfg] at hok
  | some k =>
    simp only [hcfg, Bool.or_self, Bool.false_or, Bool.and_eq_true, beq_iff_eq] at hok
    obtain ⟨-, hdir, -⟩ := hok
    exact ⟨k, rfl, hdir⟩

section VecReq
variable {r : Req} {d : Option Line} {pops : List Line} {s : State}

/-- What a vector word asks of its generators: a line from a source each time it stands there, room for one in its
destination (02 R40). -/
abbrev vecGens (d : Option Line) (pops : List Line) : List GenUse :=
  (gensOf pops).map (fun n => ⟨n, false, ((gensOf pops).filter (· == n)).length, false⟩) ++
    (gensOf d.toList).map fun n => ⟨n, true, 1, false⟩

theorem mem_vecGens_source {g : Nat} (hg : g ∈ gensOf pops) : ∃ n, ⟨g, false, n, false⟩ ∈ vecGens d pops :=
  ⟨_, List.mem_append_left _ (List.mem_map.mpr ⟨g, hg, rfl⟩)⟩

theorem mem_vecGens_dest {g : Nat} (hg : g ∈ gensOf d.toList) : ⟨g, true, 1, false⟩ ∈ vecGens d pops :=
  List.mem_append_right _ (List.mem_map.mpr ⟨g, hg, rfl⟩)

/-- The generator sources of a ready vector word are set. -/
theorem Ready.sources_set (h : Ready r s) (hgens : r.gens = vecGens d pops) : ∀ g ∈ gensOf pops, (s.me.gen g).cfg ≠ none := by
  intro g hg
  obtain ⟨n, hn⟩ := mem_vecGens_source (d := d) hg
  obtain ⟨k, hk, -⟩ := h.gen_set (hgens ▸ hn) rfl
  rw [hk]
  exact Option.some_ne_none k

/-- A ready vector word pops no line from the generator that it writes: no generator is set for both directions. -/
theorem Ready.dest_not_source (h : Ready r s) (hgens : r.gens = vecGens d pops) {g : BitVec 3} (hd : d = some (.gen g)) :
    g.toNat ∉ gensOf pops := by
  intro hg
  obtain ⟨n, hn⟩ := mem_vecGens_source (d := d) hg
  have hw : g.toNat ∈ gensOf d.toList := by rw [hd]; exact List.mem_singleton.mpr rfl
  obtain ⟨k, hk, hread⟩ := h.gen_set (hgens ▸ hn) rfl
  obtain ⟨k', hk', hwrite⟩ := h.gen_set (hgens ▸ mem_vecGens_dest hw) rfl
  have hsame : k = k' := Option.some.inj (hk.symm.trans hk')
  rw [hsame, hwrite] at hread
  cases hread

end VecReq

end Sys2Proof.Machine
end

section
/-! SUPPORT. What a vector word writes: its codes and flags, and the line that its retire leaves (09 R222, 10 R237). -/
namespace Sys2Proof.Machine

/-- The flags of the elements that a test chooses, together (09 R219). -/
abbrev flagsOf (n : Nat) (take : Nat → Bool) (f : Nat → Nat × FFlags) : FFlags :=
  ((List.range n).filter take).foldl (fun (a : FFlags) m => a.or (f m).2) {}

/-- Element by element: codes of the governed ones with zero between them, and their flags. -/
theorem convAll_eq (n : Nat) (gov : Nat → Bool) (f : Nat → Nat × FFlags) :
    convAll n gov f = ((List.range n).map fun m => if gov m then (f m).1 else 0, flagsOf n gov f) := by
  unfold convAll flagsOf
  induction n with
  | zero => rfl
  | succ n ih =>
    rw [List.range_succ, List.foldl_append, ih]
    cases h : gov n <;> simp [h]

/-- A merged tile line: what is written of the cells (09 R222, 10 R237). -/
theorem merges_maskBits (s : State) (z : TileLine) (tag : Nat) (take : Nat → Bool) (v : LineBits) :
    Merges s z tag take
      (maskBits ((s.me.tile z.tile.toNat).rawLine z.dir (TileLine.index z s.sq)) v (elemMask tag take))
      (wholeCells (elemMask tag take)) := by
  refine ⟨fun m hm hno => ?_, fun i hi => lineCell_wholeCells tag take hi⟩
  rw [elem_maskBits tag _ _ take hm, hno]
  rfl

/-- A word whose codes are those that `f` gives to the elements it takes, and whose destination is clean, comes to the
line result of `f`. -/
theorem vecDone_lineResult (r : Req) (s : State) {d : Line} {tag : Nat} {take : Nat → Bool} {cs : List Nat} {fl : FFlags}
    {f : Nat → Nat × FFlags} (more : List Effect) (hclean : cleanDest s d tag take)
    (hset : ∀ g ∈ r.gsrc, (s.me.gen g).cfg ≠ none) (hdest : ∀ g, d = .gen g → g.toNat ∉ r.gsrc)
    (hcs : ∀ m, m < elems tag → take m = true → cs.getD m 0 % 2 ^ cbits tag = (f m).1 % 2 ^ cbits tag)
    (hfl : fl = flagsOf (elems tag) take f) :
    ∃ eff, (r.taken s).vecDone d tag take cs fl more = .ok { s := r.taken s, eff := eff } ∧
      LineResult s d tag take f more eff := by
  have hcode (m : Nat) (hm : m < elems tag) (ht : take m = true) :
      elem tag (BitVec.ofNat 2048 (packCodes (cbits tag) cs)) m = (f m).1 % 2 ^ cbits tag := by
    rw [elem_packCodes tag cs hm, hcs m hm ht]
  cases d with
  | gen g =>
    have hpush : (r.taken s).me.pushEcc g.toNat 1 = none :=
      (r.pushEcc_taken s hset (hdest g rfl) 1).trans hclean
    refine ⟨_, ?_, _, 0, hcode, fun z hz => (by cases hz), rfl⟩
    simp only [State.vecDone, hpush, hfl]
    rfl
  | tile z =>
    have hmerge : (r.taken s).mergeEcc z (elemMask tag take) = none := (r.mergeEcc_taken s z _).trans hclean
    let old := (s.me.tile z.tile.toNat).rawLine z.dir (TileLine.index z s.sq)
    let v : LineBits := BitVec.ofNat 2048 (packCodes (cbits tag) cs)
    refine ⟨_, ?_, maskBits old v (elemMask tag take), wholeCells (elemMask tag take), fun m hm ht => ?_, fun w hw => ?_,
      rfl⟩
    · simp only [State.vecDone, State.lineDone, hmerge, State.lineEffects, r.index_taken, r.tile_taken, hfl]
      rfl
    · rw [elem_maskBits tag old v take hm, if_pos ht, hcode m hm ht]
    · cases hw; exact merges_maskBits s z tag take v

end Sys2Proof.Machine
end

section
/-! SUPPORT. The integer members of Table 10.6 on bit vectors of the container's width (10 R246). -/
namespace Sys2Proof.Machine

/-! ### Numbers and bit vectors -/

theorem ofInt_valueOf {w : Nat} (sg : Bool) (x : BitVec w) : BitVec.ofInt w (valueOf sg x) = x := by
  cases sg with
  | false => simp [valueOf, BitVec.ofInt_natCast]
  | true => simp [valueOf]

theorem valueOf_inj {w : Nat} {sg : Bool} {x y : BitVec w} (h : valueOf sg x = valueOf sg y) : x = y := by
  rw [← ofInt_valueOf sg x, h, ofInt_valueOf]

/-- An integer code has the value of its bits. -/
theorem intVal_eq_valueOf {w c : Nat} (sg : Bool) (hw : 0 < w) (hc : c < 2 ^ w) :
    intVal w sg c = valueOf sg (BitVec.ofNat w c) := by
  have hcode : (BitVec.ofNat w c).toNat = c := Nat.mod_eq_of_lt hc
  cases sg with
  | false => simp [intVal, valueOf, hcode]
  | true =>
    have hhalf : 2 ^ w = 2 * 2 ^ (w - 1) := by rw [← Nat.pow_succ', Nat.succ_eq_add_one, Nat.sub_add_cancel hw]
    simp only [intVal, intVal.signedOf', valueOf, if_true, BitVec.toInt_eq_toNat_cond, hcode]
    rw [if_congr (show c < 2 ^ (w - 1) ↔ 2 * c < 2 ^ w by omega) rfl rfl]
    norm_cast

/-- A value modulo 2^w is the number of its bits. -/
theorem wrapInt_eq (w : Nat) (v : Int) : wrapInt w v = (BitVec.ofInt w v).toNat := by
  rw [BitVec.toNat_ofInt, wrapInt]
  push_cast
  rfl

/-- A value of at least -2^w, made positive before it is cut. -/
theorem toNat_add_pow_mod {w : Nat} {v : Int} (hv : -2 ^ w ≤ v) :
    (v + 2 ^ w).toNat % 2 ^ w = (BitVec.ofInt w v).toNat := by
  rw [← wrapInt_eq, wrapInt, ← Int.add_emod_right v (2 ^ w), Int.toNat_emod (by omega) (by positivity)]
  norm_cast

/-- A value held to the range of an integer format (10 R246). -/
def clampInt (w : Nat) (sg : Bool) (v : Int) : Int :=
  let top : Int := if sg then 2 ^ (w - 1) - 1 else 2 ^ w - 1
  let low : Int := if sg then -2 ^ (w - 1) else 0
  if top < v then top else if v < low then low else v

theorem satInt_eq {w : Nat} (hw : 0 < w) (sg : Bool) (v : Int) :
    (satInt w sg v).1 = (BitVec.ofInt w (clampInt w sg v)).toNat := by
  have hpow : (2 : Int) ^ w = 2 * 2 ^ (w - 1) := by rw [← pow_succ', Nat.sub_add_cancel hw]
  have hhalf : (0 : Int) < 2 ^ (w - 1) := by positivity
  let low : Int := if sg then -2 ^ (w - 1) else 0
  let top : Int := if sg then 2 ^ (w - 1) - 1 else 2 ^ w - 1
  obtain ⟨hlow, hlt, hpos, htop⟩ : -2 ^ w ≤ low ∧ low ≤ top ∧ 0 ≤ top ∧ top < 2 ^ w := by
    cases sg <;> simp only [low, top, Bool.false_eq_true, if_true, if_false] <;> omega
  show (if v < low then ((low + 2 ^ w).toNat % 2 ^ w, true) else if top < v then (top.toNat, true)
    else ((v + 2 ^ w).toNat % 2 ^ w, false)).1 =
      (BitVec.ofInt w (if top < v then top else if v < low then low else v)).toNat
  by_cases hunder : v < low
  · rw [if_pos hunder, if_neg (by omega), if_pos hunder]
    exact toNat_add_pow_mod hlow
  by_cases hover : top < v
  · rw [if_neg hunder, if_pos hover, if_pos hover, ← wrapInt_eq, wrapInt, Int.emod_eq_of_lt hpos htop]
  · rw [if_neg hunder, if_neg hover, if_neg hover, if_neg hunder]
    exact toNat_add_pow_mod (by omega)

theorem ofInt_two_pow (w n : Nat) : BitVec.ofInt w (2 ^ n) = BitVec.twoPow w n := by
  refine BitVec.eq_of_toNat_eq ?_
  rw [BitVec.toNat_twoPow, ← wrapInt_eq, wrapInt]
  norm_cast

/-- A shift to the right divides the value, rounding down, in the sign of its reading. -/
theorem ofInt_valueOf_div {w : Nat} (sg : Bool) (x : BitVec w) (n : Nat) :
    BitVec.ofInt w (valueOf sg x / 2 ^ n) = if sg then x.sshiftRight n else x >>> n := by
  cases sg with
  | true =>
    have h : x.toInt / 2 ^ n = (x.sshiftRight n).toInt := by
      rw [BitVec.toInt_sshiftRight, Int.shiftRight_eq_div_pow]
      norm_cast
    rw [valueOf, if_pos rfl, if_pos rfl, h, BitVec.ofInt_toInt]
  | false =>
    have h : (x.toNat : Int) / 2 ^ n = ((x >>> n).toNat : Int) := by
      rw [BitVec.toNat_ushiftRight, Nat.shiftRight_eq_div_pow]
      norm_cast
    rw [valueOf, if_neg Bool.false_ne_true, if_neg Bool.false_ne_true, h, BitVec.ofInt_natCast, BitVec.ofNat_toNat,
      BitVec.setWidth_eq]

/-! ### Table 10.6 -/

/-- The members of Table 10.6 on the bits of two containers. -/
def IOp.bits (o : IOp) (w : Nat) (sg : Bool) (x y : BitVec w) : BitVec w :=
  match o with
  | .add => x + y
  | .sub => x - y
  | .mul => x * y
  | .mulh => BitVec.ofInt w (valueOf sg x * valueOf sg y / 2 ^ w)
  | .min => if valueOf sg y < valueOf sg x then y else x
  | .max => if valueOf sg x < valueOf sg y then y else x
  | .and => x &&& y
  | .or => x ||| y
  | .xor => x ^^^ y
  | .shl => x <<< (y.toNat % w)
  | .shr => if sg then x.sshiftRight (y.toNat % w) else x >>> (y.toNat % w)
  | .adds => BitVec.ofInt w (clampInt w sg (valueOf sg x + valueOf sg y))

/-- Each member on the codes of two containers is its operation on their bits. -/
theorem IOp.eval_eq (o : IOp) {t a b : Nat} (ha : a < 2 ^ cbits t) (hb : b < 2 ^ cbits t) :
    o.eval t a b = (o.bits (cbits t) (t != 9) (BitVec.ofNat (cbits t) a) (BitVec.ofNat (cbits t) b)).toNat := by
  let w := cbits t
  let sg : Bool := t != 9
  let x := BitVec.ofNat w a
  let y := BitVec.ofNat w b
  have hw : 0 < w := cbits_pos t
  have hx : x.toNat = a := Nat.mod_eq_of_lt ha
  have hy : y.toNat = b := Nat.mod_eq_of_lt hb
  have hvx : intElem t a = valueOf sg x := intVal_eq_valueOf sg hw ha
  have hvy : intElem t b = valueOf sg y := intVal_eq_valueOf sg hw hb
  change _ = (o.bits w sg x y).toNat
  cases o with
  | add => simp only [IOp.eval, IOp.bits, hvx, hvy, wrapInt_eq]; rw [BitVec.ofInt_add, ofInt_valueOf, ofInt_valueOf]
  | sub =>
    simp only [IOp.eval, IOp.bits, hvx, hvy, wrapInt_eq]
    rw [Int.sub_eq_add_neg, BitVec.ofInt_add, BitVec.ofInt_neg, ofInt_valueOf, ofInt_valueOf, BitVec.sub_eq_add_neg]
  | mul => simp only [IOp.eval, IOp.bits, hvx, hvy, wrapInt_eq]; rw [BitVec.ofInt_mul, ofInt_valueOf, ofInt_valueOf]
  | mulh => simp only [IOp.eval, IOp.bits, hvx, hvy, wrapInt_eq]; rfl
  | min =>
    simp only [IOp.eval, IOp.bits, hvx, hvy]
    by_cases h : valueOf sg x ≤ valueOf sg y
    · rw [if_pos h, if_neg (by omega), hx]
    · rw [if_neg h, if_pos (by omega), hy]
  | max =>
    simp only [IOp.eval, IOp.bits, hvx, hvy]
    rcases Int.lt_trichotomy (valueOf sg x) (valueOf sg y) with h | h | h
    · rw [if_pos h.le, if_pos h, hy]
    · rw [if_pos h.le, if_neg h.not_lt, ← hy, valueOf_inj h]
    · rw [if_neg (by omega), if_neg (by omega), hx]
  | and => rw [IOp.bits, BitVec.toNat_and, hx, hy]; rfl
  | or => rw [IOp.bits, BitVec.toNat_or, hx, hy]; rfl
  | xor => rw [IOp.bits, BitVec.toNat_xor, hx, hy]; rfl
  | shl =>
    simp only [IOp.eval, IOp.bits, hvx, wrapInt_eq, hy]
    rw [BitVec.ofInt_mul, ofInt_valueOf, BitVec.shiftLeft_eq_mul_twoPow, ofInt_two_pow]
  | shr =>
    simp only [IOp.eval, IOp.bits, hvx, wrapInt_eq, hy]
    rw [ofInt_valueOf_div]
  | adds => simp only [IOp.eval, IOp.bits, hvx, hvy]; exact satInt_eq hw sg _

end Sys2Proof.Machine
end

section
/-! PROOFS. The element-wise vector instructions and their format (10 R236 to R241, R246 to R248, R250). -/
namespace Sys2Proof.Machine

/-! ### The format (R236) -/

section Format
variable {s : State} {srcs : List Line} {d : Option Line} {dflt lo hi : Nat}

/-- The tags that take part in fixing the format: those of the tiles among some lines, UNTYPED aside. -/
abbrev State.tagsOf (s : State) (l : List Line) : List Nat := ((tilesOf l).map s.tileTag).filter (· ≠ 0)

/-- The tag on which a list agrees, a default for none, nothing where two differ. -/
def agreedTag (dflt : Nat) : List Nat → Option Nat
  | [] => some dflt
  | t :: r => if r.all (· == t) then some t else none

theorem agreedTag_of_agree {l : List Nat} {t : Nat} (ht : t ∈ l) (hall : ∀ x ∈ l, x = t) : agreedTag dflt l = some t := by
  cases l with
  | nil => cases ht
  | cons u r =>
    obtain ⟨rfl, hr⟩ := List.forall_mem_cons.mp hall
    exact if_pos (List.all_eq_true.mpr fun x hx => beq_iff_eq.mpr (hr x hx))

theorem agreedTag_of_differ {l : List Nat} {t x : Nat} (ht : t ∈ l) (hx : x ∈ l) (hne : t ≠ x) :
    agreedTag dflt l = none := by
  cases l with
  | nil => cases ht
  | cons u r =>
    refine if_neg fun hall => hne ?_
    have heq : ∀ y ∈ u :: r, y = u :=
      List.forall_mem_cons.mpr ⟨rfl, fun y hy => beq_iff_eq.mp (List.all_eq_true.mp hall y hy)⟩
    exact (heq t ht).trans (heq x hx).symm

theorem vecFmt_eq : s.vecFmt srcs d dflt lo hi =
    (agreedTag ((s.tagsOf d.toList).headD dflt) (s.tagsOf srcs)).filter fun t => decide (lo ≤ t ∧ t ≤ hi) := by
  have h (l : List Nat) : l.filter (· != 0) = l.filter (· ≠ 0) := List.filter_congr fun x _ => by
    by_cases hx : x = 0 <;> simp [hx]
  simp only [State.vecFmt, h]
  change _ = (agreedTag _ (((tilesOf srcs).map s.tileTag).filter (· ≠ 0))).filter _
  cases ((tilesOf srcs).map s.tileTag).filter (· ≠ 0) <;> rfl

theorem vecFmt_of_agree {t : Nat} (ht : t ∈ s.tagsOf srcs) (hall : ∀ x ∈ s.tagsOf srcs, x = t) (hlo : lo ≤ t)
    (hhi : t ≤ hi) : s.vecFmt srcs d dflt lo hi = some t := by
  rw [vecFmt_eq, agreedTag_of_agree ht hall]
  exact Option.filter_some_pos (decide_eq_true ⟨hlo, hhi⟩)

theorem vecFmt_of_differ {t x : Nat} (ht : t ∈ s.tagsOf srcs) (hx : x ∈ s.tagsOf srcs) (hne : t ≠ x) :
    s.vecFmt srcs d dflt lo hi = none := by
  rw [vecFmt_eq, agreedTag_of_differ ht hx hne]
  rfl

theorem vecFmt_of_untyped {z : TileLine} (hsrcs : s.tagsOf srcs = []) (hd : d = some (.tile z)) (hz : s.tileTag z ≠ 0)
    (hlo : lo ≤ s.tileTag z) (hhi : s.tileTag z ≤ hi) : s.vecFmt srcs d dflt lo hi = some (s.tileTag z) := by
  have hdest : s.tagsOf d.toList = [s.tileTag z] := by simp [hd, State.tagsOf, tilesOf, hz]
  rw [vecFmt_eq, hsrcs, hdest]
  exact Option.filter_some_pos (decide_eq_true ⟨hlo, hhi⟩)

theorem vecFmt_range {t : Nat} (h : s.vecFmt srcs d dflt lo hi = some t) : lo ≤ t ∧ t ≤ hi := by
  rw [vecFmt_eq, Option.filter_eq_some_iff] at h
  exact of_decide_eq_true h.2

end Format

/-! ### One element-wise word -/

/-- How an element-wise instruction runs: its sources are those that it pops and tiles beside them, its element looks
only at what an issue leaves of its context, and its word is a map over elements by a function `f` that agrees with its
row of the table wherever elements are containers of a permitted format. -/
structure Elementwise.Runs (e : Elementwise) (i : Instr) (f : Ctx → Nat → (Nat → Nat → Nat) → Nat → Nat × FFlags) :
    Prop where
  pops : gensOf e.pops = gensOf e.srcs
  rest : ∀ c, e.res c.rest = e.res c
  agrees : ∀ c t x m, e.lo ≤ t → t ≤ e.hi → (∀ n k, x n k < 2 ^ cbits t) → f c t x m = e.res c t x m
  exec : ∀ s, exec i s = issue (vecReq i e.opc e.cls e.cm (some e.d) e.pops e.p) (fun s _ l =>
    s.vecMap e.d e.srcs (e.srcs.take e.fixing) e.srcs l e.p (fun s srcs d => s.vecFmt srcs d e.dflt e.lo e.hi)
      fun t ls => f s.me t (srcElem t ls)) s

/-- A ready word that runs so gives each governed element of its destination its row's result (R237). -/
theorem Elementwise.Runs.starts {e : Elementwise} {i : Instr} {f : Ctx → Nat → (Nat → Nat → Nat) → Nat → Nat × FFlags}
    (h : e.Runs i f) {tag : Nat} {s : State} (hready : Ready (vecReq i e.opc e.cls e.cm (some e.d) e.pops e.p) s)
    (hfmt : s.vecFmt (e.srcs.take e.fixing) (some e.d) e.dflt e.lo e.hi = some tag)
    (hecc : s.eccOf (tilesOf e.srcs) = none) (hclean : cleanDest s e.d tag (governed (s.me.pred e.p.toNat) tag)) :
    ∃ eff, Starts (vecReq i e.opc e.cls e.cm (some e.d) e.pops e.p) s eff .open_ .seq (Machine.exec i s) ∧
      LineResult s e.d tag (governed (s.me.pred e.p.toNat) tag)
        (e.res s.me tag fun n m => elem tag (lineOperand s e.srcs n) m) [] eff := by
  let r := vecReq i e.opc e.cls e.cm (some e.d) e.pops e.p
  let gov := governed (s.me.pred e.p.toNat) tag
  let result := e.res s.me tag fun n m => elem tag (lineOperand s e.srcs n) m
  let ls := (r.taken s).vecLines e.srcs (r.take s.me s.who.y).lines
  have hset : ∀ g ∈ r.gsrc, (s.me.gen g).cfg ≠ none := hready.sources_set (d := some e.d) rfl
  have hsrc : srcElem tag ls = fun n m => elem tag (lineOperand s e.srcs n) m := by
    funext n m
    rw [srcElem, r.lines_taken s h.pops hset]
  have hres : e.res (r.taken s).me = e.res s.me := by rw [← h.rest, r.rest_taken, h.rest]
  have hf : f (r.taken s).me tag (srcElem tag ls) = result := funext fun m => by
    obtain ⟨hlo, hhi⟩ := vecFmt_range hfmt
    rw [h.agrees _ _ (srcElem tag ls) _ hlo hhi fun n k => elem_lt .., hsrc, hres]
  have hcodes (m : Nat) (hm : m < elems tag) (hgov : gov m = true) :
      ((List.range (elems tag)).map fun m => if gov m then (result m).1 else 0).getD m 0 % 2 ^ cbits tag =
        (result m).1 % 2 ^ cbits tag := by
    simp [List.getD_eq_getElem?_getD, hm, hgov]
  obtain ⟨eff, hdone, hline⟩ := vecDone_lineResult r s [] hclean hset
    (fun g hg => hready.dest_not_source (d := some e.d) rfl (congrArg some hg)) hcodes rfl
  refine ⟨eff, ?_, hline⟩
  rw [h.exec]
  refine starts_of_ready r _ s eff .open_ .seq false hready ?_
  simp only [State.vecMap, r.vecFmt_taken, hfmt, r.eccOf_taken, hecc, r.pred_taken]
  rw [show f (r.taken s).me tag (srcElem tag ((r.taken s).vecLines e.srcs (r.take s.me s.who.y).lines)) = result from hf,
    convAll_eq]
  exact hdone

/-! ### The rows of the tables -/

section Rows
variable {i : Instr} {opc cls : Nat} {cm : Common} {d a b : Line} {p : BitVec 3}

/-- A word of one floating-point source (Table 10.3, 10.4). -/
theorem float1_runs {f : Fmt → Nat → Bool → Nat → Nat × FFlags} (h : ∀ s, exec i s = float1 i opc cls f cm d a p s) :
    (float1Op opc cls cm d a p f).Runs i fun c t x m => f (vecFloat t) c.rmode c.fzOn (x 0 m) :=
  ⟨rfl, fun _ => rfl, fun _ _ _ _ _ _ _ => rfl, h⟩

/-- A word of two floating-point sources (Table 10.3). -/
theorem float2_runs (o : FOp) {g : Fmt → Nat → Bool → FV → FV → Nat × FFlags}
    (hg : ∀ f rm fz x y, o.eval f rm fz x y = g f rm fz (f.value fz x) (f.value fz y))
    (h : ∀ s, exec i s = float2 i opc o cm d a b p s) :
    (float2Op opc cm d a b p g).Runs i fun c t x m => o.eval (vecFloat t) c.rmode c.fzOn (x 0 m) (x 1 m) :=
  ⟨rfl, fun _ => rfl, fun _ _ _ _ _ _ _ => hg .., h⟩

/-- A multiply-add, fused or rounded twice as the numeric version says (R240). -/
theorem float3_runs {z : TileLine} {negP negZ : Bool} (h : ∀ s, exec i s = float3 i opc negP negZ cm z a b p s) :
    (float3Op opc cm z a b p negP negZ).Runs i fun c t x m =>
      mulAdd c.nbv (vecFloat t) c.rmode c.fzOn negP negZ (x 0 m) (x 1 m) (x 2 m) :=
  ⟨by cases a <;> cases b <;> rfl, fun _ => rfl, fun _ _ _ _ _ _ _ => rfl, h⟩

/-- A word of two integer sources (Table 10.6). -/
theorem int2_runs (o : IOp) (h : ∀ s, exec i s = int2 i opc o cm d a b p s) :
    (intOp opc cm d a b p o.bits).Runs i fun _ t x m => (o.eval t (x 0 m) (x 1 m), {}) :=
  ⟨rfl, fun _ => rfl, fun _ _ _ _ _ _ hx => Prod.ext (o.eval_eq (hx 0 _) (hx 1 _)) rfl, h⟩

/-- VFSCALE reads its second source as integers of the container's width (R239). -/
theorem vfscale_runs {e : Elementwise} (h : Elementwise.of (.vfscale cm d a b p) = some e) :
    e.Runs (.vfscale cm d a b p) fun c t x m =>
      scaleElem (vecFloat t) c.rmode c.fzOn (x 0 m) (intVal (cbits t) true (x 1 m)) := by
  obtain rfl := Option.some.inj h
  refine ⟨rfl, fun _ => rfl, fun c t x m _ _ hx => ?_, exec_vfscale cm d a b p⟩
  rw [intVal_eq_valueOf true (cbits_pos t) (hx 1 m)]
  rfl

/-- A move of codes: its word computes what its row says (R247, R248, R250). -/
theorem runs_of_exec {e : Elementwise} (hpops : e.pops = e.srcs) (hrest : ∀ c, e.res c.rest = e.res c)
    (h : ∀ s, exec i s = issue (vecReq i e.opc e.cls e.cm (some e.d) e.pops e.p) (fun s _ l =>
      s.vecMap e.d e.srcs (e.srcs.take e.fixing) e.srcs l e.p (fun s srcs d => s.vecFmt srcs d e.dflt e.lo e.hi)
        fun t ls => e.res s.me t (srcElem t ls)) s) : e.Runs i e.res :=
  ⟨by rw [hpops], hrest, fun _ _ _ _ _ _ _ => rfl, h⟩

end Rows

/-- Each row of the tables runs as a map over elements by its own function. -/
theorem Elementwise.runs_of {i : Instr} {e : Elementwise} (h : Elementwise.of i = some e) : ∃ f, e.Runs i f := by
  cases i with
  | vfscale cm d a b p => exact ⟨_, vfscale_runs h⟩
  | vfadd cm d a b p => exact Option.some.inj h ▸ ⟨_, float2_runs .add (fun _ _ _ _ _ => rfl) (exec_vfadd cm d a b p)⟩
  | vfsub cm d a b p => exact Option.some.inj h ▸ ⟨_, float2_runs .sub (fun _ _ _ _ _ => rfl) (exec_vfsub cm d a b p)⟩
  | vfmul cm d a b p => exact Option.some.inj h ▸ ⟨_, float2_runs .mul (fun _ _ _ _ _ => rfl) (exec_vfmul cm d a b p)⟩
  | vfmin cm d a b p => exact Option.some.inj h ▸ ⟨_, float2_runs .min (fun _ _ _ _ _ => rfl) (exec_vfmin cm d a b p)⟩
  | vfmax cm d a b p => exact Option.some.inj h ▸ ⟨_, float2_runs .max (fun _ _ _ _ _ => rfl) (exec_vfmax cm d a b p)⟩
  | vfma cm d a b p => exact Option.some.inj h ▸ ⟨_, float3_runs (exec_vfma cm d a b p)⟩
  | vfms cm d a b p => exact Option.some.inj h ▸ ⟨_, float3_runs (exec_vfms cm d a b p)⟩
  | vfnma cm d a b p => exact Option.some.inj h ▸ ⟨_, float3_runs (exec_vfnma cm d a b p)⟩
  | vfabs cm d a p => exact Option.some.inj h ▸ ⟨_, float1_runs (exec_vfabs cm d a p)⟩
  | vfneg cm d a p => exact Option.some.inj h ▸ ⟨_, float1_runs (exec_vfneg cm d a p)⟩
  | vfrcp cm d a p => exact Option.some.inj h ▸ ⟨_, float1_runs (exec_vfrcp cm d a p)⟩
  | vfrsq cm d a p => exact Option.some.inj h ▸ ⟨_, float1_runs (exec_vfrsq cm d a p)⟩
  | vfsqrt cm d a p => exact Option.some.inj h ▸ ⟨_, float1_runs (exec_vfsqrt cm d a p)⟩
  | vfexp2 cm d a p => exact Option.some.inj h ▸ ⟨_, float1_runs (exec_vfexp2 cm d a p)⟩
  | vflog2 cm d a p => exact Option.some.inj h ▸ ⟨_, float1_runs (exec_vflog2 cm d a p)⟩
  | vftanh cm d a p => exact Option.some.inj h ▸ ⟨_, float1_runs (exec_vftanh cm d a p)⟩
  | vfsigm cm d a p => exact Option.some.inj h ▸ ⟨_, float1_runs (exec_vfsigm cm d a p)⟩
  | viadd cm d a b p => exact Option.some.inj h ▸ ⟨_, int2_runs .add (exec_viadd cm d a b p)⟩
  | visub cm d a b p => exact Option.some.inj h ▸ ⟨_, int2_runs .sub (exec_visub cm d a b p)⟩
  | vimul cm d a b p => exact Option.some.inj h ▸ ⟨_, int2_runs .mul (exec_vimul cm d a b p)⟩
  | vimulh cm d a b p => exact Option.some.inj h ▸ ⟨_, int2_runs .mulh (exec_vimulh cm d a b p)⟩
  | vimin cm d a b p => exact Option.some.inj h ▸ ⟨_, int2_runs .min (exec_vimin cm d a b p)⟩
  | vimax cm d a b p => exact Option.some.inj h ▸ ⟨_, int2_runs .max (exec_vimax cm d a b p)⟩
  | viand cm d a b p => exact Option.some.inj h ▸ ⟨_, int2_runs .and (exec_viand cm d a b p)⟩
  | vior cm d a b p => exact Option.some.inj h ▸ ⟨_, int2_runs .or (exec_vior cm d a b p)⟩
  | vixor cm d a b p => exact Option.some.inj h ▸ ⟨_, int2_runs .xor (exec_vixor cm d a b p)⟩
  | vishl cm d a b p => exact Option.some.inj h ▸ ⟨_, int2_runs .shl (exec_vishl cm d a b p)⟩
  | vishr cm d a b p => exact Option.some.inj h ▸ ⟨_, int2_runs .shr (exec_vishr cm d a b p)⟩
  | viadds cm d a b p => exact Option.some.inj h ▸ ⟨_, int2_runs .adds (exec_viadds cm d a b p)⟩
  | vmov cm d a p => exact Option.some.inj h ▸ ⟨_, runs_of_exec rfl (fun _ => rfl) (exec_vmov cm d a p)⟩
  | vbcastLine cm d a index p => exact Option.some.inj h ▸ ⟨_, runs_of_exec rfl (fun _ => rfl) (exec_vbcastLine cm d a index p)⟩
  | vshuf cm d a b p => exact Option.some.inj h ▸ ⟨_, runs_of_exec rfl (fun _ => rfl) (exec_vshuf cm d a b p)⟩
  | _ => cases (show none = some e from h)

/-! ### The statement -/

/-- Settles O25: each row runs as a map over elements by its own function (`Elementwise.runs_of`), whose word gives the
line result of its row (`Elementwise.Runs.starts`); the format is that of `vecFmt_of_agree`, `vecFmt_of_differ`,
`vecFmt_of_untyped` and `vecFmt_range`. -/
theorem vectorElementwise : Obligations.VectorElementwise := by
  refine ⟨fun i e tag s hrow => ?_, fun s srcs d dflt lo hi => ⟨?_, ?_, ?_, ?_⟩⟩
  · intro r gov hready hfmt hecc hclean
    obtain ⟨f, hruns⟩ := Elementwise.runs_of hrow
    exact hruns.starts hready hfmt hecc hclean
  · exact fun t ht hall hlo hhi => vecFmt_of_agree ht hall hlo hhi
  · exact fun t x ht hx hne => vecFmt_of_differ ht hx hne
  · exact fun z hsrcs hd hz hlo hhi => vecFmt_of_untyped hsrcs hd hz hlo hhi
  · exact fun t h => vecFmt_range h

end Sys2Proof.Machine
end

section
/-! SUPPORT. The order in which VARGMAX compares elements is a linear one: by the value, then -0 below +0 (10 R251). -/
namespace Sys2Proof.Machine

/-! ### Values -/

/-- A sign and an exact magnitude as a rational number. -/
def finValue (neg : Bool) (m : Nat) (e : Int) : ℚ := (if neg then -(m : ℚ) else m) * 2 ^ e

/-- Where a value that is no NaN stands among the rational numbers and the infinities. -/
def FV.place : FV → WithBot (WithTop ℚ)
  | .nan _ => 0
  | .inf neg => if neg then ⊥ else (⊤ : WithTop ℚ)
  | .fin neg m e => (finValue neg m e : WithTop ℚ)

/-- The signed difference that a comparison takes, at the lesser of the two exponents. -/
def alignedDiff (n1 : Bool) (m1 : Nat) (e1 : Int) (n2 : Bool) (m2 : Nat) (e2 : Int) : Int :=
  let e := min e1 e2
  let a : Int := (m1 * 2 ^ (e1 - e).toNat : Nat)
  let b : Int := (m2 * 2 ^ (e2 - e).toNat : Nat)
  (if n1 then -a else a) + (if !n2 then -b else b)

/-- A magnitude moved to a lower exponent keeps its value. -/
theorem finValue_align (neg : Bool) (m : Nat) {e u : Int} (h : u ≤ e) :
    (((if neg then -((m * 2 ^ (e - u).toNat : Nat) : Int) else (m * 2 ^ (e - u).toNat : Nat)) : Int) : ℚ) * 2 ^ u =
      finValue neg m e := by
  have hpow : (2 : ℚ) ^ (e - u).toNat * 2 ^ u = 2 ^ e := by
    rw [← zpow_natCast, ← zpow_add₀ two_ne_zero, Int.toNat_of_nonneg (by omega), Int.sub_add_cancel]
  cases neg <;> simp [finValue, ← hpow, mul_assoc]

theorem alignedDiff_eq (n1 : Bool) (m1 : Nat) (e1 : Int) (n2 : Bool) (m2 : Nat) (e2 : Int) :
    (alignedDiff n1 m1 e1 n2 m2 e2 : ℚ) * 2 ^ min e1 e2 = finValue n1 m1 e1 - finValue n2 m2 e2 := by
  have hneg : finValue (!n2) m2 e2 = -finValue n2 m2 e2 := by cases n2 <;> simp [finValue]
  rw [alignedDiff, Int.cast_add, add_mul, finValue_align n1 m1 (min_le_left ..), finValue_align (!n2) m2 (min_le_right ..),
    hneg, sub_eq_add_neg]

/-- Two finite values compare as their exact difference says. -/
theorem FV.cmp_fin (n1 : Bool) (m1 : Nat) (e1 : Int) (n2 : Bool) (m2 : Nat) (e2 : Int) :
    FV.cmp (.fin n1 m1 e1) (.fin n2 m2 e2) =
      if alignedDiff n1 m1 e1 n2 m2 e2 = 0 then 0 else if alignedDiff n1 m1 e1 n2 m2 e2 < 0 then -1 else 1 := by
  have hadd : exactAdd false n1 m1 e1 (!n2) m2 e2 =
      if alignedDiff n1 m1 e1 n2 m2 e2 = 0 then (if n1 == !n2 then n1 else false, 0, 0)
      else (decide (alignedDiff n1 m1 e1 n2 m2 e2 < 0), (alignedDiff n1 m1 e1 n2 m2 e2).natAbs, min e1 e2) := rfl
  simp only [FV.cmp, hadd]
  by_cases h : alignedDiff n1 m1 e1 n2 m2 e2 = 0 <;> simp [h]

/-- The comparison of two values that are no NaNs is that of their places. -/
theorem FV.cmp_eq {x y : FV} (hx : x.isNan = false) (hy : y.isNan = false) :
    FV.cmp x y = if x.place = y.place then 0 else if x.place < y.place then -1 else 1 := by
  cases x with
  | nan => cases hx
  | inf n =>
    cases y with
    | nan => cases hy
    | inf k => cases n <;> cases k <;> simp [FV.cmp, FV.place]
    | fin => cases n <;> simp [FV.cmp, FV.place]
  | fin n1 m1 e1 =>
    cases y with
    | nan => cases hy
    | inf k => cases k <;> simp [FV.cmp, FV.place]
    | fin n2 m2 e2 =>
      have hpos : (0 : ℚ) < 2 ^ min e1 e2 := by positivity
      have hdiff := alignedDiff_eq n1 m1 e1 n2 m2 e2
      have hzero : alignedDiff n1 m1 e1 n2 m2 e2 = 0 ↔ finValue n1 m1 e1 = finValue n2 m2 e2 := by
        rw [← sub_eq_zero (a := finValue n1 m1 e1), ← hdiff, mul_eq_zero, or_iff_left hpos.ne', Int.cast_eq_zero]
      have hneg : alignedDiff n1 m1 e1 n2 m2 e2 < 0 ↔ finValue n1 m1 e1 < finValue n2 m2 e2 := by
        rw [← sub_neg (a := finValue n1 m1 e1), ← hdiff, mul_comm, ← smul_eq_mul, smul_neg_iff_of_pos_left hpos,
          Int.cast_lt_zero]
      simp only [FV.cmp_fin, FV.place, WithBot.coe_inj, WithTop.coe_inj, WithBot.coe_lt_coe, WithTop.coe_lt_coe, hzero, hneg]

/-! ### Elements -/

/-- Whether a code is a NaN does not depend on flushing. -/
theorem Fmt.isNan_value (f : Fmt) (fz : Bool) (c : Nat) : (f.value fz c).isNan = (f.value false c).isNan := by
  unfold Fmt.value
  dsimp only
  split_ifs <;> rfl

/-- Where an element stands in the order of VARGMAX: by its value, and -0 below +0 (R251). -/
def argKey (fz : Bool) (t c : Nat) : WithBot (WithTop ℚ) ×ₗ Bool :=
  toLex (match tagFmt t with
    | some f => ((f.value fz c).place, !(f.value fz c).neg)
    | none => (((intVal (codeBits t) (t != 9 && t != 11) (c % 2 ^ codeBits t) : ℚ) : WithTop ℚ), true))

theorem argGreater_iff {fz : Bool} {t a b : Nat} (ha : argNumber t a = true) (hb : argNumber t b = true) :
    argGreater fz t a b = true ↔ argKey fz t b < argKey fz t a := by
  rw [Prod.Lex.lt_iff]
  unfold argGreater argKey
  unfold argNumber at ha hb
  cases ht : tagFmt t with
  | none => simp
  | some f =>
    simp only [ht, Bool.not_eq_true'] at ha hb
    have hcmp := FV.cmp_eq ((f.isNan_value fz a).trans ha) ((f.isNan_value fz b).trans hb)
    simp only [ofLex_toLex, hcmp, Bool.or_eq_true, Bool.and_eq_true, decide_eq_true_eq, beq_iff_eq]
    rcases lt_trichotomy (f.value fz a).place (f.value fz b).place with h | h | h
    · simp [h, h.ne, h.ne', h.not_gt]
    · cases (f.value fz a).neg <;> cases (f.value fz b).neg <;> simp [h]
    · simp [h, h.ne', h.not_gt]

/-! ### The greatest element -/

/-- Of a list of indexed elements, the numbered one that is greatest, the first of equal ones (R251). -/
structure Greatest (fz : Bool) (t : Nat) (l : List (Nat × Nat)) (b : Nat × Nat) : Prop where
  mem : b ∈ l
  number : argNumber t b.2 = true
  top : ∀ e ∈ l, argNumber t e.2 = true → argKey fz t e.2 ≤ argKey fz t b.2
  first : ∀ e ∈ l, argNumber t e.2 = true → e.1 < b.1 → argKey fz t e.2 < argKey fz t b.2

/-- The best element of a list so far: its greatest, or none where it holds no number. -/
def Best (fz : Bool) (t : Nat) (l : List (Nat × Nat)) : Option (Nat × Nat) → Prop
  | none => ∀ e ∈ l, argNumber t e.2 = false
  | some b => Greatest fz t l b

section Best
variable {fz : Bool} {t : Nat} {l : List (Nat × Nat)} {b e : Nat × Nat}

theorem Greatest.of_first (hl : ∀ x ∈ l, argNumber t x.2 = false) (he : argNumber t e.2 = true) :
    Greatest fz t (l ++ [e]) e where
  mem := by simp
  number := he
  top := by simp +contextual [or_imp, hl]
  first := by simp +contextual [or_imp, hl]

/-- An element that is no number, or stands behind and is not greater, changes nothing. -/
theorem Greatest.keep (h : Greatest fz t l b) (hlast : b.1 < e.1)
    (he : argNumber t e.2 = true → argKey fz t e.2 ≤ argKey fz t b.2) : Greatest fz t (l ++ [e]) b where
  mem := List.mem_append_left _ h.mem
  number := h.number
  top x hx hn := by
    rcases List.mem_append.mp hx with hx | hx
    · exact h.top x hx hn
    · obtain rfl := List.mem_singleton.mp hx
      exact he hn
  first x hx hn hlt := by
    rcases List.mem_append.mp hx with hx | hx
    · exact h.first x hx hn hlt
    · obtain rfl := List.mem_singleton.mp hx
      exact absurd hlt hlast.not_gt

/-- A greater number takes the place of the best. -/
theorem Greatest.replace (h : Greatest fz t l b) (he : argNumber t e.2 = true)
    (hgt : argKey fz t b.2 < argKey fz t e.2) : Greatest fz t (l ++ [e]) e where
  mem := by simp
  number := he
  top x hx hn := by
    rcases List.mem_append.mp hx with hx | hx
    · exact ((h.top x hx hn).trans_lt hgt).le
    · obtain rfl := List.mem_singleton.mp hx
      exact le_rfl
  first x hx hn hlt := by
    rcases List.mem_append.mp hx with hx | hx
    · exact (h.top x hx hn).trans_lt hgt
    · obtain rfl := List.mem_singleton.mp hx
      exact absurd hlt (lt_irrefl _)

/-- One element more, behind those before it. -/
theorem Best.snoc {o : Option (Nat × Nat)} (h : Best fz t l o) (hlast : ∀ x ∈ l, x.1 < e.1) :
    Best fz t (l ++ [e]) (argBest fz t o [e]) := by
  cases o with
  | none =>
    by_cases he : argNumber t e.2 = true
    · simp only [argBest, he, if_true]
      exact Greatest.of_first h he
    · simp only [argBest, he, Bool.false_eq_true, if_false]
      exact List.forall_mem_append.mpr ⟨h, List.forall_mem_singleton.mpr (Bool.eq_false_iff.mpr he)⟩
  | some b =>
    by_cases hstep : (argNumber t e.2 && argGreater fz t e.2 b.2) = true
    · obtain ⟨he, hgt⟩ := Bool.and_eq_true_iff.mp hstep
      simp only [argBest, hstep, if_true]
      exact Greatest.replace h he ((argGreater_iff he h.number).mp hgt)
    · simp only [argBest, hstep, Bool.false_eq_true, if_false]
      refine Greatest.keep h (hlast b h.mem) fun he => not_lt.mp fun hlt => hstep ?_
      rw [he, (argGreater_iff he h.number).mpr hlt]
      rfl

theorem argBest_cons (o : Option (Nat × Nat)) (r : List (Nat × Nat)) :
    argBest fz t o (e :: r) = argBest fz t (argBest fz t o [e]) r := by
  cases o <;> rfl

/-- The search of VARGMAX over elements of rising index finds the best of all. -/
theorem Best.append {o : Option (Nat × Nat)} {r : List (Nat × Nat)} (h : Best fz t l o)
    (hrise : (l ++ r).Pairwise fun x y => x.1 < y.1) : Best fz t (l ++ r) (argBest fz t o r) := by
  induction r generalizing l o with
  | nil => simpa [argBest] using h
  | cons e r ih =>
    rw [List.append_cons] at hrise ⊢
    obtain ⟨hfront, -, -⟩ := List.pairwise_append.mp hrise
    obtain ⟨-, -, hlast⟩ := List.pairwise_append.mp hfront
    rw [argBest_cons]
    exact ih (h.snoc fun x hx => hlast x hx e (List.mem_singleton.mpr rfl)) hrise

theorem best_argBest (hrise : l.Pairwise fun x y => x.1 < y.1) : Best fz t l (argBest fz t none l) :=
  Best.append (l := []) (fun _ h => by cases h) hrise

end Best

end Sys2Proof.Machine
end

section
/-! PROOFS. VEXT, VARGMAX and the predicate instructions (10 R249, R251, R253, R254). -/
namespace Sys2Proof.Machine

section Rows
variable {cm : Common} {d sc : Spec} {a : Line} {p pd pa pb : BitVec 3} {t : Nat} {s : State}

/-! ### VEXT (R249) -/

/-- A word whose one line source is `a` gives the element of it that its index names. -/
theorem vecExt_taken (r : Req) (d : Spec) (k : Nat) (hsrc : r.gsrc = gensOf [a]) (hset : ∀ g ∈ r.gsrc, (s.me.gen g).cfg ≠ none)
    (hfmt : s.anyFmt [a] none = some t) (hecc : s.eccOf (tilesOf [a]) = none) :
    (r.taken s).vecExt d a (r.take s.me s.who.y).lines k =
      .ok { s := r.taken s
            eff := Spec.write s.who.y d (extValue t (elem t (lineOperand s [a] 0) (k % elems t))) } := by
  have hfmt' : (r.taken s).anyFmt [a] none = some t := (r.vecFmt_taken s ..).trans hfmt
  simp only [State.vecExt, hfmt', r.eccOf_taken, hecc, srcElem, r.lines_taken s hsrc hset]
  rfl

theorem vextIndex_starts (index : BitVec 9) :
    let r := { vecReq (.vextIndex cm d a index) 0xA6 4 cm none [a] 0 with dst := some d }
    Ready r s → s.anyFmt [a] none = some t → s.eccOf (tilesOf [a]) = none →
    Starts r s (Spec.write s.who.y d (extValue t (elem t (lineOperand s [a] 0) (index.toNat % elems t)))) .open_ .seq
      (exec (.vextIndex cm d a index) s) := by
  intro r hready hfmt hecc
  have hset : ∀ g ∈ r.gsrc, (s.me.gen g).cfg ≠ none := hready.sources_set (d := none) rfl
  rw [exec_vextIndex, execVextIndex]
  exact starts_of_ready r _ s _ .open_ .seq false hready (vecExt_taken r d index.toNat rfl hset hfmt hecc)

theorem vextScalar_starts :
    let r := { vecReq (.vextScalar cm d a sc) 0xA6 4 cm none [a] 0 with srcs := [sc], dst := some d }
    Ready r s → s.anyFmt [a] none = some t → s.eccOf (tilesOf [a]) = none →
    Starts r s
      (Spec.write s.who.y d (extValue t (elem t (lineOperand s [a] 0) ((operand s [sc] 0).toNat % elems t)))) .open_ .seq
      (exec (.vextScalar cm d a sc) s) := by
  intro r hready hfmt hecc
  have hset : ∀ g ∈ r.gsrc, (s.me.gen g).cfg ≠ none := hready.sources_set (d := none) rfl
  have hindex : (r.take s.me s.who.y).words.getD 0 0 = operand s [sc] 0 := take_words r s rfl 0 Nat.one_pos
  rw [exec_vextScalar, execVextScalar, ← hindex]
  exact starts_of_ready r _ s _ .open_ .seq false hready (vecExt_taken r d _ rfl hset hfmt hecc)

/-! ### VARGMAX (R251) -/

/-- The elements that VARGMAX looks at, each with its index. -/
def argElems (n : Nat) (gov : Nat → Bool) (x : Nat → Nat) : List (Nat × Nat) := ((List.range n).filter gov).map fun m => (m, x m)

theorem mem_argElems {n : Nat} {gov : Nat → Bool} {x : Nat → Nat} {e : Nat × Nat} :
    e ∈ argElems n gov x ↔ e.1 < n ∧ gov e.1 = true ∧ e.2 = x e.1 := by
  obtain ⟨m, c⟩ := e
  simp only [argElems, List.mem_map, List.mem_filter, List.mem_range, Prod.mk.injEq]
  constructor
  · rintro ⟨k, ⟨hk, hgov⟩, rfl, rfl⟩
    exact ⟨hk, hgov, rfl⟩
  · rintro ⟨hm, hgov, rfl⟩
    exact ⟨m, ⟨hm, hgov⟩, rfl, rfl⟩

theorem argElems_rise (n : Nat) (gov : Nat → Bool) (x : Nat → Nat) :
    (argElems n gov x).Pairwise fun u v => u.1 < v.1 :=
  List.pairwise_map.mpr (List.pairwise_lt_range.filter _)

/-- What VARGMAX writes: the index of the best element, or all ones. -/
def argIndex : Option (Nat × Nat) → Word
  | some e => BitVec.ofNat 64 e.1
  | none => BitVec.allOnes 64

theorem vargmax_starts :
    let r := { vecReq (.vargmax cm d a p) 0xA9 4 cm none [a] p with dst := some d }
    let es := argElems (elems t) (governed (s.me.pred p.toNat) t) (elem t (lineOperand s [a] 0))
    Ready r s → s.anyFmt [a] none = some t → s.eccOf (tilesOf [a]) = none →
    Starts r s (Spec.write s.who.y d (argIndex (argBest s.me.fzOn t none es))) .open_ .seq
      (exec (.vargmax cm d a p) s) := by
  intro r es hready hfmt hecc
  have hset : ∀ g ∈ r.gsrc, (s.me.gen g).cfg ≠ none := hready.sources_set (d := none) rfl
  have hfmt' : (r.taken s).anyFmt [a] none = some t := (r.vecFmt_taken s ..).trans hfmt
  rw [exec_vargmax, execVargmax]
  refine starts_of_ready r _ s _ .open_ .seq false hready ?_
  simp only [hfmt', r.eccOf_taken, hecc, r.pred_taken, r.fzOn_taken, srcElem, r.lines_taken s (srcs := [a]) rfl hset]
  rfl

/-- The index that VARGMAX writes names the greatest governed number, the lowest of equal ones, where there is one. -/
theorem argIndex_best (fz : Bool) (t : Nat) (gov : Nat → Bool) (x : Nat → Nat) :
    let may (m : Nat) : Prop := m < elems t ∧ gov m = true ∧ argNumber t (x m) = true
    let v := argIndex (argBest fz t none (argElems (elems t) gov x))
    ((∀ m, ¬ may m) → v = BitVec.allOnes 64) ∧
      ((∃ m, may m) → ∃ m, may m ∧ v = BitVec.ofNat 64 m ∧
        (∀ j, may j → argGreater fz t (x j) (x m) = false) ∧
        ∀ j, j < m → may j → argGreater fz t (x m) (x j) = true) := by
  intro may v
  have hbest := best_argBest (fz := fz) (t := t) (argElems_rise (elems t) gov x)
  have hmem {m : Nat} (hm : may m) : (m, x m) ∈ argElems (elems t) gov x := mem_argElems.mpr ⟨hm.1, hm.2.1, rfl⟩
  cases hfound : argBest fz t none (argElems (elems t) gov x) with
  | none =>
    rw [hfound] at hbest
    refine ⟨fun _ => by simp only [v, hfound]; rfl, fun ⟨m, hm⟩ => ?_⟩
    exact absurd hm.2.2 (Bool.eq_false_iff.mp (hbest _ (hmem hm)))
  | some b =>
    rw [hfound] at hbest
    obtain ⟨hb, hnumber, htop, hfirst⟩ := hbest
    obtain ⟨hlt, hgov, hcode⟩ := mem_argElems.mp hb
    rw [hcode] at hnumber htop hfirst
    have hmay : may b.1 := ⟨hlt, hgov, hnumber⟩
    refine ⟨fun hno => absurd hmay (hno _), fun _ => ⟨b.1, hmay, by simp only [v, hfound]; rfl, fun j hj => ?_,
      fun j hlt hj => ?_⟩⟩
    · rw [Bool.eq_false_iff, Ne, argGreater_iff hj.2.2 hnumber]
      exact (htop _ (hmem hj) hj.2.2).not_gt
    · exact (argGreater_iff hnumber hj.2.2).mpr (hfirst _ (hmem hj) hj.2.2 hlt)

/-! ### PLOP and PCNT (R253, R254) -/

/-- The bits that a table gives to two predicates. -/
def plopBits (table : BitVec 4) (x y : BitVec 256) : BitVec 256 :=
  let pick (n : Nat) (v : BitVec 256) : BitVec 256 := if table.getLsbD n then v else 0
  pick 0 (~~~x &&& ~~~y) ||| pick 1 (~~~x &&& y) ||| pick 2 (x &&& ~~~y) ||| pick 3 (x &&& y)

theorem getLsbD_plopBits (table : BitVec 4) (x y : BitVec 256) {m : Nat} (hm : m < 256) :
    (plopBits table x y).getLsbD m =
      table.getLsbD ((if x.getLsbD m then 2 else 0) + (if y.getLsbD m then 1 else 0)) := by
  have hpick (n : Nat) (v : BitVec 256) :
      (if table.getLsbD n then v else 0).getLsbD m = (table.getLsbD n && v.getLsbD m) := by
    cases table.getLsbD n <;> simp
  simp only [plopBits, BitVec.getLsbD_or, hpick, BitVec.getLsbD_and, BitVec.getLsbD_not, decide_eq_true hm, Bool.true_and]
  cases x.getLsbD m <;> cases y.getLsbD m <;> simp

theorem plopLogical_starts (table : BitVec 4) :
    let r := { scalarReq (.plopLogical cm pd pa pb table) 0xAB cm [] none with
               reads := [.p pa.toNat, .p pb.toNat], writes := [.p pd.toNat] }
    Ready r s → Starts r s [.p pd.toNat (plopBits table (s.me.pred pa.toNat) (s.me.pred pb.toNat))] .open_ .seq
      (exec (.plopLogical cm pd pa pb table) s) := by
  intro r hready
  rw [exec_plopLogical, execPlopLogical]
  refine starts_of_ready r _ s _ .open_ .seq false hready ?_
  simp only [r.pred_taken]
  rfl

theorem getLsbD_firstBits (n : Nat) {m : Nat} (hm : m < 256) :
    (BitVec.ofNat 256 (2 ^ min n 256 - 1)).getLsbD m = decide (m < n) := by
  rw [BitVec.getLsbD_ofNat, Nat.testBit_two_pow_sub_one, decide_eq_true hm, Bool.true_and]
  exact decide_eq_decide.mpr (by omega)

theorem plopFirst_starts :
    let r := { scalarReq (.plopFirst cm pd sc) 0xAB cm [sc] none with writes := [.p pd.toNat] }
    Ready r s → Starts r s [.p pd.toNat (BitVec.ofNat 256 (2 ^ min (operand s [sc] 0).toNat 256 - 1))] .open_ .seq
      (exec (.plopFirst cm pd sc) s) := by
  intro r hready
  have hword : (r.take s.me s.who.y).words.getD 0 0 = operand s [sc] 0 := take_words r s rfl 0 Nat.one_pos
  rw [exec_plopFirst, execPlopFirst, ← hword]
  exact starts_of_ready r _ s _ .open_ .seq false hready rfl

theorem firstFrom_eq (q : Nat → Bool) (lo n : Nat) : firstFrom q lo n = (List.range' lo n).find? q := by
  induction n generalizing lo with
  | zero => rfl
  | succ n ih =>
    rw [firstFrom, List.range'_succ, List.find?_cons, ih]
    cases q lo <;> rfl

theorem pcnt_starts (first : Bool) :
    let r := { scalarReq (.pcnt cm d pa pb first) 0xAC cm [] (some d) with reads := [.p pa.toNat, .p pb.toNat] }
    let both (m : Nat) : Bool := (s.me.pred pa.toNat).getLsbD m && (s.me.pred pb.toNat).getLsbD m
    Ready r s → Starts r s (Spec.write s.who.y d (BitVec.ofNat 64
        (if first then ((List.range 256).find? both).getD 256 else (List.range 256).countP both))) .open_ .seq
      (exec (.pcnt cm d pa pb first) s) := by
  intro r both hready
  have hboth : (s.me.pred pa.toNat &&& s.me.pred pb.toNat).getLsbD = both := funext fun m => BitVec.getLsbD_and
  have hcount : countBits (s.me.pred pa.toNat &&& s.me.pred pb.toNat).toNat 256 = (List.range 256).countP both := by
    rw [countBits, ← List.countP_eq_length_filter, ← hboth]
    rfl
  rw [exec_pcnt, execPcnt]
  refine starts_of_ready r _ s _ .open_ .seq false hready ?_
  simp only [r.pred_taken, firstFrom_eq, hboth, hcount, List.range_eq_range']
  rfl

end Rows

/-! ### The statement -/

/-- Settles O28: each clause is what its own row does (`vextIndex_starts`, `vextScalar_starts`, `vargmax_starts` with
`argIndex_best`, `plopLogical_starts`, `plopFirst_starts` and `pcnt_starts`). -/
theorem vectorToScalar : Obligations.VectorToScalar := by
  intro cm d sc a index p pd pa pb table first t s
  refine ⟨?_, ?_, ?_, ?_, ?_, ?_⟩
  · exact vextIndex_starts index
  · exact vextScalar_starts
  · exact fun hready hfmt hecc => ⟨_, vargmax_starts hready hfmt hecc, argIndex_best ..⟩
  · exact fun hready => ⟨_, plopLogical_starts table hready, fun m hm => getLsbD_plopBits _ _ _ hm⟩
  · exact fun hready => ⟨_, plopFirst_starts hready, fun m hm => getLsbD_firstBits _ hm⟩
  · exact pcnt_starts first

end Sys2Proof.Machine
end

section
/-! SUPPORT. Where a trap goes, what TRAP.INFO reports of it, and what its handler finds (14 R339, R342 to R346). -/
namespace Sys2Proof.Machine

/-! ### Where a trap goes (R342, R343) -/

section Delivery
variable {c : Ctx} {t : Trap}

theorem Ctx.delivery_of_ecc (h : t.cause = .eccUncorr) : c.delivery t = .fatal := by
  simp [Ctx.delivery, h]

theorem Ctx.delivery_of_fatal (h : t.fatal = true) : c.delivery t = .fatal := by
  simp [Ctx.delivery, h]

/-- A failed lazy check is fatal, at whichever stage it was made. -/
theorem Ctx.delivery_of_key {x : XFault} (hx : t.x = some x) (hkey : x.fault = 4) : c.delivery t = .fatal := by
  unfold Ctx.delivery
  rw [hx]
  split <;> simp [hkey]

/-- A fault of stage 2 goes to firmware with the context saved, in handler mode too. -/
theorem Ctx.delivery_of_stage2 {x : XFault} (hcause : t.cause ≠ .eccUncorr) (hfatal : t.fatal = false)
    (hx : t.x = some x) (hstage : x.stage2 = true) (hkey : x.fault ≠ 4) : c.delivery t = .resumable := by
  simp [Ctx.delivery, hcause, hfatal, hx, hstage, hkey]

/-- Any other cause goes to the handler, where R343 lets it. -/
theorem Ctx.delivery_of_own (hcause : t.cause ≠ .eccUncorr) (hfatal : t.fatal = false)
    (hx : ∀ x, t.x = some x → x.stage2 = false ∧ x.fault ≠ 4) :
    c.delivery t = if c.trapVec = 0 || c.handler then .fatal else .handler := by
  unfold Ctx.delivery
  cases h : t.x with
  | none => simp [hcause, hfatal]
  | some x =>
    obtain ⟨hstage, hkey⟩ := hx x h
    simp [hcause, hfatal, hstage, hkey]

theorem Ctx.delivery_handler (hcause : t.cause ≠ .eccUncorr) (hfatal : t.fatal = false) (hx : t.x = none)
    (hvec : c.trapVec ≠ 0) (hout : c.handler = false) : c.delivery t = .handler := by
  rw [Ctx.delivery_of_own hcause hfatal (by simp [hx]), if_neg (by simpa [hout] using hvec)]

theorem Ctx.delivery_inside (hcause : t.cause ≠ .eccUncorr) (hfatal : t.fatal = false)
    (hx : ∀ x, t.x = some x → x.stage2 = false ∧ x.fault ≠ 4) (hno : c.trapVec = 0 ∨ c.handler = true) :
    c.delivery t = .fatal := by
  rw [Ctx.delivery_of_own hcause hfatal hx, if_pos (by simpa using hno)]

/-- What is no fault of a walk is fatal without a handler and inside it. -/
theorem Ctx.delivery_inside_of_none (hx : t.x = none) (hno : c.trapVec = 0 ∨ c.handler = true) :
    c.delivery t = .fatal := by
  by_cases hcause : t.cause = .eccUncorr
  · exact Ctx.delivery_of_ecc hcause
  · cases hfatal : t.fatal with
    | true => exact Ctx.delivery_of_fatal hfatal
    | false => exact Ctx.delivery_inside hcause hfatal (by simp [hx]) hno

/-- Only a fatal trap is nested. -/
theorem Ctx.nested_eq_false (h : c.delivery t ≠ .fatal) : c.nested t = false := by
  simp [Ctx.nested, h]

theorem Ctx.nested_inside (hcause : t.cause ≠ .eccUncorr) (hfatal : t.fatal = false)
    (hx : ∀ x, t.x = some x → x.stage2 = false ∧ x.fault ≠ 4) (hno : c.trapVec = 0 ∨ c.handler = true) :
    c.nested t = true := by
  unfold Ctx.nested
  rw [Ctx.delivery_inside hcause hfatal hx hno]
  cases h : t.x with
  | none => simp [hcause, hfatal]
  | some x => simp [hcause, hfatal, (hx x h).2]

end Delivery

/-! ### TRAP.INFO (R346, Table 14.3) -/

theorem num_lt_four (y : Sq) : y.num < 4 := by cases y <;> decide

section Info
variable {t : Trap} (y : Sq) (nested : Bool)

/-- The fields of TRAP.INFO: between the sequencer and `nested` stand eleven bits, where level and fault are in range. -/
theorem Trap.info_fields (t : Trap) (y : Sq) (nested : Bool) : ∃ w,
    t.info y nested = BitVec.ofNat 64
      (t.detail % 2 ^ 8 + y.num * 2 ^ 8 + w * 2 ^ 10 + nested.toNat * 2 ^ 21 + t.code.toNat * 2 ^ 32) ∧
    ((∀ x, t.x = some x → x.level < 8 ∧ x.fault < 8) → w < 2 ^ 11) := by
  obtain ⟨low, hlow, hle⟩ : ∃ low : Nat,
      (if t.after then 2 ^ 10 else 0) + (if t.straddle then 2 ^ 11 else 0) = low * 2 ^ 10 ∧ low ≤ 3 := by
    refine ⟨(if t.after then 1 else 0) + (if t.straddle then 2 else 0), ?_, ?_⟩ <;>
      cases t.after <;> cases t.straddle <;> decide
  have hnested : (if nested then 2 ^ 21 else 0) = nested.toNat * 2 ^ 21 := by cases nested <;> rfl
  unfold Trap.info
  rw [hnested]
  cases hx : t.x with
  | none =>
    refine ⟨low + 7 * 2 ^ 3, congrArg (BitVec.ofNat 64) ?_, fun _ => ?_⟩
    · dsimp only
      omega
    · omega
  | some x =>
    refine ⟨low + (if x.stage2 then 1 else 0) * 2 ^ 2 + x.level * 2 ^ 3 + Access.code x.access * 2 ^ 6 + x.fault * 2 ^ 8,
      congrArg (BitVec.ofNat 64) ?_, fun h => ?_⟩
    · dsimp only
      omega
    · obtain ⟨hlevel, hfault⟩ := h x rfl
      have hstage : (if x.stage2 then 1 else 0) ≤ 1 := by cases x.stage2 <;> decide
      have hacc : Access.code x.access ≤ 3 := by cases x.access <;> decide
      omega

theorem Trap.info_seq : ((t.info y nested).extractLsb' 8 2).toNat = y.num := by
  obtain ⟨w, hinfo, -⟩ := t.info_fields y nested
  have hy := num_lt_four y
  rw [hinfo, BitVec.extractLsb'_toNat, BitVec.toNat_ofNat, Nat.shiftRight_eq_div_pow]
  omega

theorem Trap.info_code (h : ∀ x, t.x = some x → x.level < 8 ∧ x.fault < 8) :
    (t.info y nested).extractLsb' 32 16 = t.code := by
  obtain ⟨w, hinfo, hw⟩ := t.info_fields y nested
  have hy := num_lt_four y
  have hw := hw h
  have hn := nested.toNat_lt
  have hcode := t.code.isLt
  apply BitVec.eq_of_toNat_eq
  rw [hinfo, BitVec.extractLsb'_toNat, BitVec.toNat_ofNat, Nat.shiftRight_eq_div_pow]
  omega

theorem Trap.info_nested (h : ∀ x, t.x = some x → x.level < 8 ∧ x.fault < 8) :
    (t.info y nested).getLsbD 21 = nested := by
  obtain ⟨w, hinfo, hw⟩ := t.info_fields y nested
  have hy := num_lt_four y
  have hw := hw h
  have hn := nested.toNat_lt
  rw [hinfo, BitVec.getLsbD_ofNat, Nat.testBit_eq_decide_div_mod_eq,
    show (t.detail % 2 ^ 8 + y.num * 2 ^ 8 + w * 2 ^ 10 + nested.toNat * 2 ^ 21 + t.code.toNat * 2 ^ 32) / 2 ^ 21 % 2 =
      nested.toNat by omega]
  cases nested <;> rfl

/-- TRAP.INFO of a trap that reports its code alone, before issue and after it. -/
theorem Trap.info_coded (cause : Cause) (a : Word) (code : BitVec 16) :
    (Trap.coded cause a code).info y false = BitVec.ofNat 64 (y.num * 2 ^ 8 + 7 * 2 ^ 13 + code.toNat * 2 ^ 32) ∧
    ({ Trap.coded cause a code with after := true }).info y false =
      BitVec.ofNat 64 (y.num * 2 ^ 8 + 2 ^ 10 + 7 * 2 ^ 13 + code.toNat * 2 ^ 32) := by
  constructor <;> simp [Trap.info, Trap.coded, Trap.at, Trap.plain]

end Info

/-! ### Taking a trap (R339, R344) -/

/-- A trap of a handler cause is entered at once where nothing is in flight. -/
theorem Ctx.takeTrap_of_handler {c : Ctx} {t : Trap} (y : Sq) (hquiet : c.quiet = true) (hto : c.delivery t = .handler) :
    c.takeTrap y t = (c.recordTrap y t).enterHandler := by
  simp [Ctx.takeTrap, hquiet, hto]

theorem Ctx.pcs_get (c : Ctx) (z : Sq) : c.pcs.get z = (c.seq.get z).pc := by cases z <;> rfl

/-- Whether anything is in flight shows in the words in flight alone. -/
theorem Ctx.quiet_setSeq {c : Ctx} {y : Sq} {q : Seqr} (h : q.inflight = (c.seq.get y).inflight) :
    (c.setSeq y q).quiet = c.quiet := by
  have hin (z : Sq) : ((c.setSeq y q).seq.get z).inflight = (c.seq.get z).inflight := by
    by_cases hz : z = y
    · rw [hz, Ctx.setSeq_get, h]
    · rw [Ctx.setSeq, Quad.get_set_ne _ _ _ _ hz]
  simp only [Ctx.quiet, hin]
  rfl

/-- Registers, conditions and target registers of a sequencer (04 R62). -/
def Seqr.registers (q : Seqr) : Tbl Word × BitVec 8 × Tbl BReg := (q.s, q.k, q.b)

/-- A sequencer replaced by one of the same registers: no sequencer's registers change. -/
theorem Ctx.registers_setSeq {c : Ctx} {y : Sq} {q : Seqr} (h : q.registers = (c.seq.get y).registers) (z : Sq) :
    ((c.setSeq y q).seq.get z).registers = (c.seq.get z).registers := by
  by_cases hz : z = y
  · rw [hz, Ctx.setSeq_get, h]
  · rw [Ctx.setSeq, Quad.get_set_ne _ _ _ _ hz]

theorem Ctx.registers_enterHandler (c : Ctx) (z : Sq) :
    (c.enterHandler.seq.get z).registers = (c.seq.get z).registers := by
  cases z <;> rfl

theorem onlyMe_setMe (s : State) (c : Ctx) : OnlyMe s (s.setMe c) :=
  ⟨rfl, fun _ _ h => State.ctx_setCtx_ne _ _ _ _ _ _ h⟩

theorem onlyMe_trans {s t u : State} (hst : OnlyMe s t) (htu : OnlyMe t u) : OnlyMe s u := by
  obtain ⟨hs, hsctx⟩ := hst
  obtain ⟨ht, htctx⟩ := htu
  have hwho : t.who = s.who := (congrArg State.who hs :)
  refine ⟨?_, fun a b h => (htctx a b (by rwa [hwho])).trans (hsctx a b h)⟩
  calc { u with ctxs := s.ctxs } = { ({ u with ctxs := t.ctxs } : State) with ctxs := s.ctxs } := rfl
    _ = s := by rw [ht, hs]

/-- What a context that has entered its handler shows, beside TRAP.PC (R339, R344): `u` is what `c` becomes. -/
structure Ctx.Entered (c : Ctx) (y : Sq) (t : Trap) (u : Ctx) : Prop where
  mode : u.handler = true
  cause : u.trapCause = t.cause.code
  addr : u.trapAddr = t.addr
  info : u.trapInfo = t.info y false
  goes : u.seq.c.pc = c.trapVec.setWidth 57
  data : u.data = c.data
  toks : u.toks = c.toks
  bos : u.bos = c.bos
  gens : u.gens = c.gens
  spad : u.spad = c.spad
  registers : ∀ z, (u.seq.get z).registers = (c.seq.get z).registers

theorem Ctx.entered_enterHandler {c : Ctx} {t : Trap} (y : Sq) (hto : c.delivery t = .handler) :
    c.Entered y t (c.recordTrap y t).enterHandler where
  mode := rfl
  cause := rfl
  addr := rfl
  info := congrArg (t.info y) (Ctx.nested_eq_false (by rw [hto]; decide))
  goes := rfl
  data := rfl
  toks := rfl
  bos := rfl
  gens := rfl
  spad := rfl
  registers := (c.recordTrap y t).registers_enterHandler

/-- What a sequencer has of its own beside its registers does not show after the entry. -/
theorem Ctx.Entered.of_setSeq {c u : Ctx} {y z : Sq} {q : Seqr} {t : Trap} (h : (c.setSeq z q).Entered y t u)
    (hq : q.registers = (c.seq.get z).registers) : c.Entered y t u :=
  { h with registers := fun w => (h.registers w).trans (Ctx.registers_setSeq hq w) }

/-- The executing sequencer traps into the handler of its context. -/
theorem State.takeTrap_entered {s : State} {t : Trap} (hquiet : s.me.quiet = true) (hto : s.me.delivery t = .handler) :
    s.me.Entered s.who.y t (s.takeTrap t).me ∧ (s.takeTrap t).me.trapPc.get s.who.y = s.sq.pc := by
  let q : Seqr := { s.sq with oneShot := none, waited := 0, waiting := none }
  have hme : (s.takeTrap t).me = ((s.me.setSeq s.who.y q).recordTrap s.who.y t).enterHandler :=
    (State.me_setMe _ _).trans (Ctx.takeTrap_of_handler _ ((Ctx.quiet_setSeq (q := q) rfl).trans hquiet) hto)
  have hentered := Ctx.entered_enterHandler (c := s.me.setSeq s.who.y q) s.who.y hto
  rw [hme]
  refine ⟨hentered.of_setSeq rfl, ?_⟩
  calc (s.me.setSeq s.who.y q).pcs.get s.who.y = ((s.me.setSeq s.who.y q).seq.get s.who.y).pc := Ctx.pcs_get _ _
    _ = s.sq.pc := by rw [Ctx.setSeq_get]

/-- A trap of a handler cause, taken where its sequencer has become `q` with the same registers and words in flight. -/
theorem State.takeTrap_setSq {s : State} {q : Seqr} {x : Trap} (hin : q.inflight = s.sq.inflight)
    (hregs : q.registers = s.sq.registers) (hquiet : s.me.quiet = true) (hto : s.me.delivery x = .handler) :
    let u := (s.setSq q).takeTrap x
    OnlyMe s u ∧ s.me.Entered s.who.y x u.me ∧ u.me.trapPc.get s.who.y = q.pc := by
  intro u
  have hme : (s.setSq q).me = s.me.setSeq s.who.y q := State.me_setSq ..
  have hquiet' : (s.setSq q).me.quiet = true := by rw [hme, Ctx.quiet_setSeq hin, hquiet]
  have hto' : (s.setSq q).me.delivery x = .handler := by rw [hme]; exact hto
  obtain ⟨hentered, hplace⟩ := State.takeTrap_entered hquiet' hto'
  rw [State.sq_setSq] at hplace
  rw [hme] at hentered
  exact ⟨onlyMe_trans (onlyMe_setMe ..) (onlyMe_setMe ..), hentered.of_setSeq hregs, hplace⟩

end Sys2Proof.Machine
end

section
/-! PROOFS. Taking a trap (14 R339, R341 to R346). -/
namespace Sys2Proof.Machine

/-- Settles O40: what the handler finds is what `Ctx.recordTrap` and `Ctx.enterHandler` write
(`Ctx.takeTrap_of_handler`), and each clause on where a trap goes is a case of `Ctx.delivery`. -/
theorem trapsTaken : Obligations.TrapsTaken := by
  refine ⟨fun c y t hquiet hto => ?_, fun c t => ⟨?_, ?_, ?_, ?_, ?_, ?_, ?_⟩⟩
  · have hnested : c.nested t = false := Ctx.nested_eq_false (by rw [hto]; decide)
    have hinfo : ((c.recordTrap y t).enterHandler).trapInfo = t.info y false := congrArg (t.info y) hnested
    intro u
    have hu : u = (c.recordTrap y t).enterHandler := Ctx.takeTrap_of_handler y hquiet hto
    rw [hu, hinfo]
    exact ⟨rfl, rfl, rfl, rfl, Trap.info_seq y false, Trap.info_code y false, c.pcs_get, rfl, rfl, rfl, rfl, rfl, rfl, rfl,
      rfl, rfl, rfl, rfl, rfl, rfl, rfl, rfl, rfl, rfl, rfl, rfl⟩
  · exact Ctx.delivery_of_ecc
  · exact Ctx.delivery_handler
  · exact Ctx.delivery_inside_of_none
  · intro hcause hfatal hx hno
    have hown : ∀ x, t.x = some x → x.stage2 = false ∧ x.fault ≠ 4 := fun x h => by
      obtain ⟨hstage, hfault, -⟩ := hx x h
      exact ⟨hstage, by omega⟩
    have hnested : c.nested t = true := Ctx.nested_inside hcause hfatal hown hno
    refine ⟨Ctx.delivery_inside hcause hfatal hown hno, hnested, fun y => ?_⟩
    rw [hnested]
    refine Trap.info_nested y true fun x h => ?_
    obtain ⟨-, hfault, hlevel⟩ := hx x h
    exact ⟨hlevel, by omega⟩
  · intro x y hcause hfatal hx hstage hfault hlevel _
    have hto : c.delivery t = .resumable := Ctx.delivery_of_stage2 hcause hfatal hx hstage (by omega)
    refine ⟨hto, ?_⟩
    rw [Ctx.nested_eq_false (by rw [hto]; decide)]
    refine Trap.info_nested y false fun z hz => ?_
    obtain rfl : x = z := Option.some.inj (hx.symm.trans hz)
    exact ⟨hlevel, by omega⟩
  · exact fun x => Ctx.delivery_of_stage2
  · exact fun x => Ctx.delivery_of_key

end Sys2Proof.Machine
end

section
/-! SUPPORT. The checks before issue that a system word meets first (02 R44), and what taking operands and accepting a
word keep of each sequencer: its registers, and that its time does not go back. -/
namespace Sys2Proof.Machine

/-! ### Checks before issue -/

section Checks
variable {r : Req} {c : Ctx} {y : Sq}

theorem Req.permitted_of_preTrap (h : r.preTrap c y = none) : permitted r.opc y = true := by
  by_contra hp
  rw [Req.preTrap, if_pos (by simpa using hp)] at h
  cases h

theorem Req.priv_of_preTrap (h : r.preTrap c y = none) : r.priv = false := by
  unfold Req.preTrap at h
  split at h
  · cases h
  · split at h
    · cases h
    · split at h
      · cases h
      · next hpriv => exact Bool.eq_false_iff.mpr hpriv

theorem Req.preTrap_of_priv (hperm : permitted r.opc y = true) (henc : r.encOk y = true) (hpriv : r.priv = true) :
    r.preTrap c y = some (Trap.plain .priv) := by
  simp [Req.preTrap, hperm, henc, hpriv]

theorem Req.preTrap_of_brk {k : BitVec 16} (hperm : permitted r.opc y = true) (henc : r.encOk y = true)
    (hpriv : r.priv = false) (hbrk : r.brk = some k) : r.preTrap c y = some (Trap.coded .brk 0 k) := by
  simp [Req.preTrap, hperm, henc, hpriv, hbrk, Trap.coded, Trap.at, Trap.plain]

end Checks

/-! ### Outcomes of an issue -/

section Outcomes
variable {r : Req} {body : State → List Word → List LineBits → Result} {s : State}

theorem issue_of_preTrap {t : Trap} (h : r.preTrap s.me s.who.y = some t) : issue r body s = .next (s.takeTrap t) := by
  unfold issue
  rw [h]

/-- A ready word that traps after its issue with TRAP.PC at the next word (R348). -/
theorem issue_trapNext {x : Trap} (h : Ready r s)
    (hb : body (r.taken s) (r.take s.me s.who.y).words (r.take s.me s.who.y).lines = .trapNext x) :
    issue r body s =
      .next ((s.setSq { s.sq with pc := s.sq.pc + 8, lastWait := s.sq.waited }).takeTrap { x with after := true }) := by
  rw [issue_of_ready r body s h, hb]

/-- A ready word that stops its context is accepted as every word is (R350). -/
theorem issue_stop {st : Stop} {d : Done} (h : Ready r s)
    (hb : body (r.taken s) (r.take s.me s.who.y).words (r.take s.me s.who.y).lines = .stop st d) :
    issue r body s = .next ((accept r (r.take s.me s.who.y) d).setMe
      { (accept r (r.take s.me s.who.y) d).me with stop := some st }) := by
  rw [issue_of_ready r body s h, hb]

end Outcomes

/-! ### Times while operands are taken (07 R145) -/

theorem Seqr.pts_le_receive (q : Seqr) (k : Carry) : q.pts ≤ (q.receive k).pts := Nat.le_max_left ..

theorem Taken.pts_le_pop (t : Taken) (y : Sq) (k : ChanKind) (ch : Nat) :
    (t.ctx.seq.get y).pts ≤ ((t.pop y k ch).1.ctx.seq.get y).pts := by
  unfold Taken.pop
  dsimp only
  split
  · exact Nat.le_refl _
  · rw [Ctx.setSeq_get]
    exact Seqr.pts_le_receive ..

theorem Taken.pts_le_source (t : Taken) (y : Sq) (f : Spec) :
    (t.ctx.seq.get y).pts ≤ ((Taken.source y t f).ctx.seq.get y).pts := by
  cases f with
  | s n => exact Nat.le_refl _
  | li n => exact Nat.le_refl _
  | q z => exact t.pts_le_pop y .data (chanIx z y)

theorem Taken.pts_le_line (t : Taken) (y : Sq) (n : Nat) :
    (t.ctx.seq.get y).pts ≤ ((Taken.line y t n).ctx.seq.get y).pts := by
  unfold Taken.line
  dsimp only
  split
  · rw [Ctx.setSeq_get]
    exact Seqr.pts_le_receive ..
  · exact Nat.le_refl _

/-- A time that no operand takes back is not taken back by a list of them. -/
theorem pts_le_foldl {α : Type} {f : Taken → α → Taken} {y : Sq}
    (h : ∀ t a, (t.ctx.seq.get y).pts ≤ ((f t a).ctx.seq.get y).pts) (l : List α) (t : Taken) :
    (t.ctx.seq.get y).pts ≤ ((l.foldl f t).ctx.seq.get y).pts :=
  List.foldlRecOn l f (motive := fun u => (t.ctx.seq.get y).pts ≤ (u.ctx.seq.get y).pts) (Nat.le_refl _)
    fun u hu a _ => hu.trans (h u a)

/-- Taking operands does not take the time of the sequencer back. -/
theorem Req.pts_le_take (r : Req) (c : Ctx) (y : Sq) : (c.seq.get y).pts ≤ ((r.take c y).ctx.seq.get y).pts := by
  unfold Req.take
  extract_lets start tokens event sources outcome
  have htokens : (c.seq.get y).pts ≤ (tokens.ctx.seq.get y).pts := by
    refine pts_le_foldl (fun t z => ?_) Sq.order start
    split
    · exact t.pts_le_pop y .tok (chanIx z y)
    · exact Nat.le_refl _
  have hevent : (tokens.ctx.seq.get y).pts ≤ (event.ctx.seq.get y).pts := by
    unfold event
    split
    · exact Nat.le_refl _
    · rw [Ctx.setSeq_get]
      exact Seqr.pts_le_receive ..
  have hsources : (event.ctx.seq.get y).pts ≤ (sources.ctx.seq.get y).pts :=
    pts_le_foldl (fun t f => t.pts_le_source y f) r.srcs event
  have houtcome : (sources.ctx.seq.get y).pts ≤ (outcome.ctx.seq.get y).pts := by
    unfold outcome
    cases r.boSrc with
    | none => exact Nat.le_refl _
    | some ch => exact sources.pts_le_pop y .bo ch
  have hlines := pts_le_foldl (fun t g => t.pts_le_line y g) r.gsrc outcome
  omega

section Taken
variable (r : Req) (s : State)

theorem Req.seq_taken_ne {z : Sq} (hz : z ≠ s.who.y) : (r.taken s).me.seq.get z = s.me.seq.get z := by
  obtain ⟨-, hother, -⟩ := r.take_same s.me s.who.y
  rw [Req.taken, State.me_setMe, Ctx.setSeq, Quad.get_set_ne _ _ _ _ hz, hother z hz]

theorem Req.registers_taken (z : Sq) : ((r.taken s).me.seq.get z).registers = (s.me.seq.get z).registers := by
  by_cases hz : z = s.who.y
  · obtain ⟨p, t, k, h⟩ := r.sq_taken s
    rw [hz, show (r.taken s).me.seq.get s.who.y = _ from h]
    rfl
  · rw [r.seq_taken_ne s hz]

theorem Req.pts_le_taken (z : Sq) : (s.me.seq.get z).pts ≤ ((r.taken s).me.seq.get z).pts := by
  by_cases hz : z = s.who.y
  · rw [hz, Req.taken, State.me_setMe, Ctx.setSeq_get]
    exact r.pts_le_take s.me s.who.y
  · rw [r.seq_taken_ne s hz]

end Taken

/-! ### Accepting a word that changed its context -/

section Accept
variable (r : Req) (t : Taken) (d : Done)

theorem onlyMe_accept : OnlyMe d.s (accept r t d) := onlyMe_setMe ..

/-- Beside sequencers, channels and generators an accepted word changes of its context the requests for power alone. -/
theorem rest_accept_power : ∃ p, (accept r t d).me.rest = ({ d.s.me with power := p } : Ctx).rest := by
  rw [rest_accept]
  unfold Ctx.endRequest
  split
  · exact ⟨_, rfl⟩
  · exact ⟨_, rfl⟩

theorem flow_accept : (accept r t d).sq.pc = (d.s.sq.flow r.long d.flow).pc ∧
    (accept r t d).sq.loops = (d.s.sq.flow r.long d.flow).loops := by
  obtain ⟨-, hseq⟩ := foldl_reserve (r.slots d.s.who.y) d.s.me
  unfold accept
  extract_lets y c q p pc flowed issued
  have hq : q = d.s.sq := congrArg (Quad.get · y) hseq
  rw [State.sq_setMe, Ctx.seq_endRequest, Ctx.seq_leaveFeed, Ctx.seq_dropResume, Ctx.setSeq_get, ← hq]
  exact ⟨rfl, rfl⟩

theorem seq_accept_ne {z : Sq} (hz : z ≠ d.s.who.y) : (accept r t d).me.seq.get z = d.s.me.seq.get z := by
  obtain ⟨-, hseq⟩ := foldl_reserve (r.slots d.s.who.y) d.s.me
  unfold accept
  extract_lets y c q p pc flowed issued
  rw [State.me_setMe, Ctx.seq_endRequest, Ctx.seq_leaveFeed, Ctx.seq_dropResume, Ctx.setSeq, Quad.get_set_ne _ _ _ _ hz]
  exact congrArg (Quad.get · z) hseq

/-- An accepted word changes no register and no time of any sequencer. -/
theorem registers_accept (z : Sq) : ((accept r t d).me.seq.get z).registers = (d.s.me.seq.get z).registers ∧
    ((accept r t d).me.seq.get z).pts = (d.s.me.seq.get z).pts := by
  by_cases hz : z = d.s.who.y
  · obtain ⟨p, pc, loops, ended, hsq, -⟩ := sq_accept r t d
    rw [hz, show (accept r t d).me.seq.get d.s.who.y = _ from hsq]
    exact ⟨rfl, rfl⟩
  · rw [seq_accept_ne r t d hz]
    exact ⟨rfl, rfl⟩

end Accept

/-! ### The return from a handler (R351) -/

section Return
variable (c : Ctx) (z : Sq)

theorem Ctx.pc_returnFromTrap : (c.returnFromTrap.seq.get z).pc = c.trapPc.get z := by cases z <;> rfl

theorem Ctx.registers_returnFromTrap : (c.returnFromTrap.seq.get z).registers = (c.seq.get z).registers := by
  cases z <;> rfl

theorem Ctx.pts_returnFromTrap : (c.returnFromTrap.seq.get z).pts = max (c.seq.get z).pts c.seq.c.pts := by
  cases z <;> rfl

end Return

end Sys2Proof.Machine
end

section
/-! PROOFS. TRAP, BRK, HCALL and TRET (14 R347 to R351). -/
namespace Sys2Proof.Machine

section Words
variable {cm : Common} {a : Spec} {d : BitVec 5} {code : BitVec 16} {s : State}

/-! ### TRAP (R348) -/

/-- TRAP is a trap at the next word, with its operand and its code. -/
theorem trap_traps (hready : Ready (scalarReq (.trap cm a code) 0xE0 cm [a] none) s) :
    exec (.trap cm a code) s = .next ((s.setSq { s.sq with pc := s.sq.pc + 8, lastWait := s.sq.waited }).takeTrap
      { Trap.coded .softTrap (operand s [a] 0) code with after := true }) := by
  rw [exec_trap, execTrap, ← take_word_of_one s (.trap cm a code) 0xE0 cm a none]
  exact issue_trapNext hready rfl

/-! ### BRK (R349) -/

/-- The request of BRK. -/
abbrev brkReq (cm : Common) (code : BitVec 16) : Req :=
  { opc := 0xE1, cm := cm, wf := (Instr.brk cm code).wellFormed, brk := some code }

section Brk
variable (henc : (brkReq cm code).encOk s.who.y = true)
include henc

theorem brk_preTrap : (brkReq cm code).preTrap s.me s.who.y = some (Trap.coded .brk 0 code) := by
  have hperm : permitted 0xE1 s.who.y = true := by cases s.who.y <;> rfl
  exact Req.preTrap_of_brk hperm henc rfl rfl

theorem brk_traps (hin : s.breaksOut = false) :
    exec (.brk cm code) s = .next (s.takeTrap (Trap.coded .brk 0 code)) := by
  rw [exec_brk, execBrk]
  simp only [brk_preTrap henc, hin, Bool.false_eq_true, and_false, if_false]

/-- A BRK that goes to the debugger records its trap and halts its context (23 Table 23.5). -/
theorem brk_halts (hbreak : s.breaksOut = true) :
    exec (.brk cm code) s =
      .next (s.setMe { s.me.recordTrap s.who.y (Trap.coded .brk 0 code) with halted := true }) := by
  rw [exec_brk, execBrk]
  simp only [brk_preTrap henc, hbreak]
  rfl

end Brk

/-! ### HCALL (R350) -/

/-- HCALL is accepted, and stops its context. -/
theorem hcall_stops (hready : Ready (scalarReq (.hcall cm d a code) 0xE2 cm [a] none) s) :
    let r := scalarReq (.hcall cm d a code) 0xE2 cm [a] none
    let u := accept r (r.take s.me s.who.y) { s := r.taken s }
    exec (.hcall cm d a code) s =
      .next (u.setMe { u.me with stop := some (.hcall code (operand s [a] 0) d.toNat) }) := by
  intro r u
  rw [exec_hcall, execHcall, ← take_word_of_one s (.hcall cm d a code) 0xE2 cm a none]
  exact issue_stop hready rfl

/-- A word that is accepted without an effect, and stops its context: its sequencer is as if it had only issued. -/
theorem hcall_keeps (r : Req) (t : Taken) (st : Option Stop) (s : State) :
    let u := accept r t { s := r.taken s }
    let v := u.setMe { u.me with stop := st }
    InFlight r s v [] .open_ ∧ v.me.stop = st ∧ v.sq.s = s.sq.s ∧ v.me.spad = s.me.spad := by
  intro u v
  have hme : v.me = { u.me with stop := st } := State.me_setMe ..
  have hsq : v.sq = u.sq := State.sq_setMe ..
  have hin : InFlight r s u [] .open_ := inFlight_accept r t s _ rfl (r.inflight_taken s) (r.pc_taken s)
  obtain ⟨p, t', k, htaken⟩ := r.sq_taken s
  obtain ⟨pw, hrest⟩ := rest_accept_power r t { s := r.taken s }
  refine ⟨?_, ?_, ?_, ?_⟩
  · unfold InFlight
    rw [hsq]
    exact hin
  · rw [hme]
  · rw [hsq, regs_accept, htaken]
  · rw [hme]
    exact (congrArg Ctx.spad hrest :).trans (congrArg Ctx.spad (r.rest_taken s) :)

/-! ### TRET (R351) -/

/-- The request of TRET: outside handler mode it is PRIV, and it waits for what C has in flight. -/
abbrev tretReq (cm : Common) (s : State) : Req :=
  { scalarReq (.tret cm) 0xE3 cm [] none with priv := !s.me.handler, hold := !s.sq.inflight.isEmpty }

theorem tret_returns (hready : Ready (tretReq cm s) s) :
    let r := tretReq cm s
    let c := (r.taken s).me.returnFromTrap
    exec (.tret cm) s = .next (accept r (r.take s.me s.who.y)
      { s := (r.taken s).setMe c, flow := .goto c.seq.c.pc }) := by
  intro r c
  rw [exec_tret, execTret]
  exact issue_ok r _ s _ hready rfl

theorem eq_c_of_permitted_tret {y : Sq} : permitted 0xE3 y = true → y = .c := by cases y <;> decide

/-- Only C issues TRET, and only in handler mode. -/
theorem handler_of_tret_ready (hready : Ready (tretReq cm s) s) : s.who.y = .c ∧ s.me.handler = true := by
  obtain ⟨hpre, -⟩ := hready
  have hperm : permitted 0xE3 s.who.y = true := Req.permitted_of_preTrap hpre
  have hpriv : (!s.me.handler) = false := Req.priv_of_preTrap hpre
  exact ⟨eq_c_of_permitted_tret hperm, by simpa using hpriv⟩

section Returned
variable {r : Req} {t : Taken} {u : Done} {c : Ctx} (hme : u.s.me = c.returnFromTrap)
include hme

/-- R351: of its context TRET leaves handler mode and empties the shadow; the trap registers stay. -/
theorem returned_accept :
    let v := (accept r t u).me
    v.handler = false ∧ v.shadow = [] ∧ v.trapPc = c.trapPc ∧ v.trapCause = c.trapCause ∧ v.spad = c.spad := by
  intro v
  obtain ⟨p, hrest⟩ := rest_accept_power r t u
  rw [hme] at hrest
  exact ⟨(congrArg Ctx.handler hrest :), (congrArg Ctx.shadow hrest :), (congrArg Ctx.trapPc hrest :),
    (congrArg Ctx.trapCause hrest :), (congrArg Ctx.spad hrest :)⟩

/-- R351: C goes on at its TRAP.PC with its loop stack back. -/
theorem returned_accept_c (hwho : u.s.who.y = .c) (hflow : u.flow = .goto c.trapPc.c) :
    (accept r t u).me.seq.c.pc = c.trapPc.c ∧ (accept r t u).me.seq.c.loops = c.shadow := by
  have hsq : (accept r t u).sq = (accept r t u).me.seq.c := congrArg (accept r t u).me.seq.get hwho
  have hback : u.s.sq = c.returnFromTrap.seq.c := by
    rw [State.sq, hme, hwho]
    rfl
  obtain ⟨hpc, hloops⟩ := flow_accept r t u
  rw [hsq, hflow, hback] at hpc hloops
  exact ⟨hpc, hloops⟩

/-- R351: every sequencer goes on at its TRAP.PC with its registers, no earlier than C has got. -/
theorem returned_accept_seq (hwho : u.s.who.y = .c) (hflow : u.flow = .goto c.trapPc.c) (z : Sq) :
    let q := (accept r t u).me.seq.get z
    q.pc = c.trapPc.get z ∧ q.registers = (c.seq.get z).registers ∧ c.seq.c.pts ≤ q.pts := by
  intro q
  obtain ⟨hregs, hpts⟩ := registers_accept r t u z
  rw [hme, Ctx.registers_returnFromTrap] at hregs
  rw [hme, Ctx.pts_returnFromTrap] at hpts
  refine ⟨?_, hregs, (Nat.le_max_right ..).trans hpts.ge⟩
  by_cases hz : z = .c
  · subst hz
    exact (returned_accept_c hme hwho hflow).1
  · have hq : q = u.s.me.seq.get z := seq_accept_ne r t u (by rwa [hwho])
    rw [hq, hme, Ctx.pc_returnFromTrap]

end Returned

/-- What TRET leaves of the state in which it issues on C. -/
theorem tret_keeps (r : Req) (t : Taken) (hwho : s.who.y = .c) :
    let c := (r.taken s).me.returnFromTrap
    let v := accept r t { s := (r.taken s).setMe c, flow := .goto c.seq.c.pc }
    OnlyMe s v ∧ v.me.handler = false ∧ v.me.shadow = [] ∧ (∀ z, (v.me.seq.get z).pc = s.me.trapPc.get z) ∧
      v.me.seq.c.loops = s.me.shadow ∧
      (∀ z, (v.me.seq.get z).s = (s.me.seq.get z).s ∧ (v.me.seq.get z).k = (s.me.seq.get z).k ∧
        (v.me.seq.get z).b = (s.me.seq.get z).b) ∧
      v.me.trapPc = s.me.trapPc ∧ v.me.trapCause = s.me.trapCause ∧ v.me.spad = s.me.spad ∧
      ∀ z, s.me.seq.c.pts ≤ (v.me.seq.get z).pts := by
  intro c v
  let done : Done := { s := (r.taken s).setMe c, flow := .goto c.seq.c.pc }
  have hme : done.s.me = c := State.me_setMe ..
  have hrest := r.rest_taken s
  have htrapPc : (r.taken s).me.trapPc = s.me.trapPc := (congrArg Ctx.trapPc hrest :)
  obtain ⟨hmode, hshadow, hpcs, hcause, hspad⟩ := returned_accept (r := r) (t := t) hme
  obtain ⟨-, hloops⟩ := returned_accept_c (r := r) (t := t) hme hwho rfl
  have hseq := returned_accept_seq (r := r) (t := t) hme hwho rfl
  refine ⟨onlyMe_trans (onlyMe_trans (onlyMe_setMe ..) (onlyMe_setMe ..)) (onlyMe_accept ..), hmode, hshadow, fun z => ?_,
    hloops.trans (congrArg Ctx.shadow hrest :), fun z => ?_, hpcs.trans htrapPc,
    hcause.trans (congrArg Ctx.trapCause hrest :), hspad.trans (congrArg Ctx.spad hrest :), fun z => ?_⟩
  · obtain ⟨hpc, -⟩ := hseq z
    rw [hpc, htrapPc]
  · obtain ⟨-, hregs, -⟩ := hseq z
    have hregs := hregs.trans (r.registers_taken s z)
    exact ⟨congrArg (·.1) hregs, congrArg (·.2.1) hregs, congrArg (·.2.2) hregs⟩
  · obtain ⟨-, -, hpts⟩ := hseq z
    exact (r.pts_le_taken s .c).trans hpts

/-- Outside handler mode TRET on C is PRIV. -/
theorem tret_priv (hwho : s.who.y = .c) (henc : (tretReq cm s).encOk .c = true) (hout : s.me.handler = false) :
    exec (.tret cm) s = .next (s.takeTrap (Trap.plain .priv)) := by
  have hpriv : (tretReq cm s).priv = true := congrArg not hout
  have hpre : (tretReq cm s).preTrap s.me s.who.y = some (Trap.plain .priv) := by
    rw [hwho]
    exact Req.preTrap_of_priv rfl henc hpriv
  rw [exec_tret]
  exact issue_of_preTrap hpre

end Words

/-! ### The statement -/

/-- Settles O42: TRAP and BRK enter the handler as every trap does (`trap_traps`, `brk_traps`, `State.takeTrap_setSq`,
`State.takeTrap_entered`), a BRK that goes to the debugger halts its context (`brk_halts`), HCALL is accepted and stops
its context (`hcall_stops`, `hcall_keeps`), and TRET is accepted in the context that returns (`tret_returns`,
`tret_keeps`, `tret_priv`). -/
theorem trapsCalled : Obligations.TrapsCalled := by
  refine ⟨fun cm a d code s => ⟨?_, ?_, ?_⟩, fun cm s => ?_⟩
  · intro r hready hquiet hvec hout
    let next : Seqr := { s.sq with pc := s.sq.pc + 8, lastWait := s.sq.waited }
    have hto : s.me.delivery { Trap.coded .softTrap (operand s [a] 0) code with after := true } = .handler :=
      Ctx.delivery_handler (show Cause.softTrap ≠ .eccUncorr by decide) rfl rfl hvec hout
    obtain ⟨honly, hentered, hplace⟩ := State.takeTrap_setSq (q := next) rfl rfl hquiet hto
    obtain ⟨-, hinfo⟩ := Trap.info_coded s.who.y .softTrap (operand s [a] 0) code
    exact ⟨_, trap_traps hready, honly, hentered.mode, hentered.cause, hentered.addr, hplace,
      hentered.info.trans hinfo, hentered.goes, hentered.data,
      congrArg Prod.fst (hentered.registers s.who.y), hentered.spad⟩
  · intro r henc
    refine ⟨fun hin => ⟨_, brk_traps henc hin, rfl, rfl, rfl⟩, fun hin hquiet hvec hout => ?_, fun hbreak => ?_⟩
    · have hto : s.me.delivery (Trap.coded .brk 0 code) = .handler :=
        Ctx.delivery_handler (show Cause.brk ≠ .eccUncorr by decide) rfl rfl hvec hout
      obtain ⟨hentered, hplace⟩ := State.takeTrap_entered hquiet hto
      obtain ⟨hinfo, -⟩ := Trap.info_coded s.who.y .brk 0 code
      exact ⟨_, brk_traps henc hin, onlyMe_setMe .., hentered.mode, hentered.cause, hplace,
        hentered.info.trans hinfo, hentered.goes,
        congrArg Prod.fst (hentered.registers s.who.y), hentered.data, hentered.toks, hentered.bos, hentered.gens⟩
    · refine ⟨_, brk_halts henc hbreak, ?_⟩
      rw [State.me_setMe]
      exact ⟨rfl, rfl, Ctx.pcs_get .., Trap.info_code _ _ (by simp [Trap.coded, Trap.at, Trap.plain]),
        rfl, rfl, rfl, rfl, rfl⟩
  · intro r hready
    exact ⟨_, hcall_stops hready, hcall_keeps r _ _ s⟩
  · intro r
    refine ⟨fun hready => ?_, tret_priv⟩
    obtain ⟨hwho, hmode⟩ := handler_of_tret_ready hready
    exact ⟨hmode, _, tret_returns hready, tret_keeps _ _ hwho⟩

end Sys2Proof.Machine
end

section
/-! SUPPORT. What an instruction of a scheduler core leaves (15 R371, R381), the bits of a word that a field's extraction
gives (04 R71), and what a walk of stage 2 and the read of a command entry keep (14 R364, 15 R382). -/
namespace Sys2Proof.Machine

/-! ### Registers of a scheduler core -/

theorem FwCore.reg_zero (c : FwCore) : c.reg 0 = 0 := rfl

theorem FwCore.reg_congr {c d : FwCore} (h : c.x = d.x) (n : BitVec 5) : c.reg n = d.reg n := by
  rw [FwCore.reg, FwCore.reg, h]

theorem FwCore.reg_setX_same (c : FwCore) {rd : BitVec 5} (v : Word) (h : rd ≠ 0) : (c.setX rd v).reg rd = v := by
  rw [FwCore.reg, FwCore.setX, if_neg h, if_neg h]
  exact Tbl.get_put_same ..

theorem FwCore.reg_setX_ne (c : FwCore) {rd n : BitVec 5} (v : Word) (h : n ≠ rd) : (c.setX rd v).reg n = c.reg n := by
  unfold FwCore.setX
  split
  · rfl
  · have hne : n.toNat ≠ rd.toNat := fun he => h (BitVec.eq_of_toNat_eq he)
    simp only [FwCore.reg, Tbl.get_put_ne _ _ _ _ _ hne]

/-- A write of a register changes the registers alone. -/
theorem FwCore.setX_keeps (c : FwCore) (rd : BitVec 5) (v : Word) : ∃ x, c.setX rd v = { c with x := x } := by
  unfold FwCore.setX
  split
  · exact ⟨c.x, rfl⟩
  · exact ⟨_, rfl⟩

/-! ### Scheduler cores as they stood -/

theorem State.fwCore_setFwMe_ne (s : State) (c : FwCore) {k : Nat} (h : k ≠ s.fw) : (s.setFwMe c).fwCore k = s.fwCore k :=
  Tbl.get_put_ne _ _ _ _ _ h

/-- The scheduler cores are those of an earlier state, but for what the executing one holds in its SRAM and its slots,
and for its time. -/
structure FwStands (s u : State) : Prop where
  fw : u.fw = s.fw
  me : { u.fwMe with sram := s.fwMe.sram, slots := s.fwMe.slots, pts := s.fwMe.pts } = s.fwMe
  others : ∀ k, k ≠ s.fw → u.fwCore k = s.fwCore k

namespace FwStands
variable {s u : State}

theorem of_fws (hfw : u.fw = s.fw) (hfws : u.fws = s.fws) : FwStands s u := by
  have hcore (k : Nat) : u.fwCore k = s.fwCore k := congrArg (Tbl.get FwCore.empty · k) hfws
  refine ⟨hfw, ?_, fun k _ => hcore k⟩
  rw [State.fwMe, hfw, hcore]
  rfl

theorem setFwMe (h : FwStands s u) {c : FwCore}
    (hc : { c with sram := s.fwMe.sram, slots := s.fwMe.slots, pts := s.fwMe.pts } = s.fwMe) :
    FwStands s (u.setFwMe c) := by
  refine ⟨h.fw, ?_, fun k hk => ?_⟩
  · rw [State.fwMe_setFwMe]
    exact hc
  · rw [State.fwCore_setFwMe_ne _ _ (by rwa [h.fw]), h.others k hk]

theorem setRing (h : FwStands s u) (n : Nat) (r : KRing) : FwStands s (u.setRing n r) := ⟨h.fw, h.me, h.others⟩

theorem x (h : FwStands s u) : u.fwMe.x = s.fwMe.x := (congrArg FwCore.x h.me :)

theorem pc (h : FwStands s u) : u.fwMe.pc = s.fwMe.pc := (congrArg FwCore.pc h.me :)

theorem minstret (h : FwStands s u) : u.fwMe.minstret = s.fwMe.minstret := (congrArg FwCore.minstret h.me :)

theorem mtvec (h : FwStands s u) : u.fwMe.mtvec = s.fwMe.mtvec := (congrArg FwCore.mtvec h.me :)

theorem mepc (h : FwStands s u) : u.fwMe.mepc = s.fwMe.mepc := (congrArg FwCore.mepc h.me :)

end FwStands

/-- R371: an instruction of a scheduler core that left the cores as they stood goes to its end. -/
theorem fwDone_ends {s u : State} (h : FwStands s u) (rd : BitVec 5) (v : Word) :
    ∃ t, u.fwDone rd v = .next t ∧ FwEnds s t rd v ∧ t.fwMe.sram = u.fwMe.sram ∧ t.rings = u.rings ∧ t.dram = u.dram := by
  obtain ⟨x, hx⟩ := u.fwMe.setX_keeps rd v
  let c : FwCore := { u.fwMe.setX rd v with pc := u.fwMe.pc + 4, minstret := u.fwMe.minstret + 1, asleep := false }
  let t : State := ({ u with power := { u.power with quietSince := u.time } } : State).setFwMe c
  have hme : t.fwMe = c := State.fwMe_setFwMe ..
  have hreg (n : BitVec 5) : t.fwMe.reg n = (u.fwMe.setX rd v).reg n := by
    rw [hme]
    rfl
  refine ⟨t, rfl, ⟨h.fw, ?_, FwCore.reg_zero _, fun hrd => ?_, fun n hn => ?_, ?_, ?_, ?_, fun k hk => ?_⟩, ?_, rfl, rfl⟩
  · rw [hme, ← h.pc]
  · rw [hreg, FwCore.reg_setX_same _ _ hrd]
  · rw [hreg, FwCore.reg_setX_ne _ _ hn, FwCore.reg_congr h.x]
  · rw [hme, ← h.minstret]
  · rw [hme, ← h.mtvec]
    exact (congrArg FwCore.mtvec hx :)
  · rw [hme, ← h.mepc]
    exact (congrArg FwCore.mepc hx :)
  · rw [← h.others k hk]
    exact State.fwCore_setFwMe_ne _ _ (by rwa [← h.fw] at hk)
  · rw [hme]
    exact (congrArg FwCore.sram hx :)

/-- R381: an exception after a part of an instruction that left the cores as they stood. -/
theorem raise_enters {s u : State} (h : FwStands s u) (cause : Nat) (v : Word) :
    ∃ t, u.raise cause v = .next t ∧ t.fwMe.mcause = BitVec.ofNat 64 cause ∧ t.fwMe.mtval = v ∧ t.fwMe.mepc = s.fwMe.pc ∧
      t.fwMe.pc = s.fwMe.mtvec &&& ~~~3#64 ∧ t.fwMe.x = s.fwMe.x ∧ t.fwMe.sram = u.fwMe.sram ∧
      (∀ k, k ≠ s.fw → t.fwCore k = s.fwCore k) ∧ t.rings = u.rings ∧ t.ctxs = u.ctxs := by
  refine ⟨_, rfl, ?_⟩
  rw [State.fwMe_setFwMe, ← h.pc, ← h.mtvec, ← h.x]
  refine ⟨rfl, rfl, rfl, rfl, rfl, rfl, fun k hk => ?_, rfl, rfl⟩
  rw [State.fwCore_setFwMe_ne _ _ (by rwa [h.fw]), h.others k hk]

/-! ### The field of a word (04 R71) -/

/-- A number's low bits sign-extended are its bit vector of that width sign-extended. -/
theorem sext64_eq_signExtend {n : Nat} (v : Nat) (hpos : 0 < n) (hle : n ≤ 64) :
    sext64 n v = (BitVec.ofNat n v).signExtend 64 := by
  have hpow : 2 ^ n ≤ 2 ^ 64 := Nat.pow_le_pow_right (by decide) hle
  have hmod : v % 2 ^ n < 2 ^ n := Nat.mod_lt _ (Nat.two_pow_pos n)
  have hmsb : (BitVec.ofNat n v).msb = v.testBit (n - 1) := by
    have hlast : n - 1 < n := Nat.sub_lt hpos Nat.one_pos
    rw [BitVec.msb_eq_getLsbD_last, BitVec.getLsbD_ofNat, decide_eq_true hlast, Bool.true_and]
  refine BitVec.eq_of_toNat_eq ?_
  rw [BitVec.toNat_signExtend, hmsb, BitVec.toNat_setWidth, BitVec.toNat_ofNat, sext64, BitVec.toNat_ofNat]
  cases v.testBit (n - 1)
  · simp
  · simp only [if_true]
    omega

/-- The field that BFX and BFEXT give. -/
theorem bfxRes_eq (x : Word) (pos lenM1 : BitVec 6) (sx : Bool) :
    bfxRes x pos lenM1 sx =
      if sx then ((x >>> pos.toNat).setWidth (lenM1.toNat + 1)).signExtend 64
      else ((x >>> pos.toNat).setWidth (lenM1.toNat + 1)).setWidth 64 := by
  have hf : (x >>> pos.toNat).setWidth (lenM1.toNat + 1) =
      BitVec.ofNat (lenM1.toNat + 1) (x.toNat / 2 ^ pos.toNat % 2 ^ (lenM1.toNat + 1)) := by
    refine BitVec.eq_of_toNat_eq ?_
    simp [Nat.shiftRight_eq_div_pow]
  cases sx with
  | true => simp only [bfxRes, if_true, hf, sext64_eq_signExtend _ (Nat.succ_pos _) lenM1.isLt]
  | false =>
    refine BitVec.eq_of_toNat_eq ?_
    simp [bfxRes, hf]

/-! ### What a walk and a read keep -/

theorem State.bytes_home (s : State) (part pa : Nat) : (s.home part pa).bytes = s.dram.bytes := by
  unfold State.home
  dsimp only
  split
  · rfl
  · split <;> rfl

theorem State.bytes_readEntry (s : State) (w : Walker) (stage2 : Bool) (level pa : Nat) :
    (s.readEntry w stage2 level pa).1.dram.bytes = s.dram.bytes := by
  unfold State.readEntry
  split
  · rfl
  · exact (Dram.bytes_homeLoad ..).trans (s.bytes_home ..)

theorem State.bytes_keepEntry (s : State) (w : Walker) (stage2 : Bool) (level pa : Nat) (e : Word) :
    (s.keepEntry w stage2 level pa e).dram.bytes = s.dram.bytes := by
  unfold State.keepEntry
  split <;> rfl

theorem State.bytes_walk2 (s : State) (w : Walker) (ia table : Nat) (acc : Access) (n : Nat) :
    (s.walk2 w ia table acc n).1.dram.bytes = s.dram.bytes := by
  induction n generalizing s w table with
  | zero => rfl
  | succ n ih =>
    simp only [State.walk2]
    split
    · exact s.bytes_readEntry ..
    · split
      · split_ifs <;> simp [State.bytes_keepEntry, State.bytes_readEntry]
      · rw [ih, State.bytes_keepEntry, State.bytes_readEntry]

/-- R364: a walk of stage 2 reads memory and changes no byte of it. -/
theorem State.bytes_stage2 (s : State) (w : Walker) (ia : Nat) (acc : Access) :
    (s.stage2 w ia acc).1.dram.bytes = s.dram.bytes := by
  unfold State.stage2
  dsimp only
  split
  · rfl
  · exact s.bytes_walk2 ..

/-- The state after the read of an entry that was answered, with its bytes or with a failure. -/
def EntryRead.after : EntryRead → Option State
  | .ok s _ => some s
  | .bad s _ => some s
  | .wait => none
  | .gone => none

/-- What the read of a command entry keeps: the scheduler cores but for the executing one's time, the rings, and the
bytes of memory. -/
structure ReadKeeps (s u : State) : Prop where
  stands : FwStands s u
  sram : u.fwMe.sram = s.fwMe.sram
  rings : u.rings = s.rings
  bytes : u.dram.bytes = s.dram.bytes

/-- After a walk of stage 2 the core takes the walk's time. -/
theorem ReadKeeps.of_sansXlat {s u : State} (h : u.sansXlat = s.sansXlat) (hbytes : u.dram.bytes = s.dram.bytes) (p : Nat) :
    ReadKeeps s (u.setFwMe { u.fwMe with pts := p }) := by
  have hfw : u.fw = s.fw := (congrArg State.fw h :)
  have hstands : FwStands s u := .of_fws hfw (congrArg State.fws h :)
  have hcore (k : Nat) : u.fwCore k = s.fwCore k := congrArg (Tbl.get FwCore.empty · k) (congrArg State.fws h :)
  refine ⟨hstands.setFwMe hstands.me, ?_, (congrArg State.rings h :), hbytes⟩
  rw [State.fwMe_setFwMe, State.fwMe, hfw, hcore]
  rfl

/-- R382: a read that is answered, with the entry or with a failure, leaves the head where it is; the caller moves it. -/
theorem readCommand_keeps {s u : State} {ring ea : Nat} (h : (s.readCommand ring ea).after = some u) : ReadKeeps s u := by
  have hx := fun w => s.sansXlat_stage2 w ea .read
  have hb := fun w => s.bytes_stage2 w ea .read
  have hhost : ReadKeeps s s.fresh := ⟨.of_fws rfl rfl, rfl, rfl, rfl⟩
  unfold State.readCommand at h
  dsimp only at h
  split at h
  · split at h <;> cases h <;> exact hhost
  · split at h <;> rename_i hwalk <;>
      replace hx := (congrArg (·.1.sansXlat) hwalk).symm.trans (hx _) <;>
      replace hb := (congrArg (·.1.dram.bytes) hwalk).symm.trans (hb _)
    · cases h
      exact .of_sansXlat hx hb _
    · split at h <;> cases h
      exact .of_sansXlat hx hb _
    · split at h
      · cases h
        exact .of_sansXlat hx hb _
      · split at h <;> cases h
        refine .of_sansXlat ?_ ?_ _
        · exact hx
        · exact ((Dram.bytes_homeLoad ..).trans (State.bytes_home ..)).trans hb

end Sys2Proof.Machine
end

section
/-! PROOFS. Exceptions of a scheduler core, BFEXT, SWAIT, PCLR and RFETCH (15 R381 to R385). -/
namespace Sys2Proof.Machine

section Words
variable {s : State} {rd rs1 rs2 : BitVec 5}

/-! ### BFEXT (R383) -/

/-- The bits above a field's 13 are clear where the word is below 2 ^ 13. -/
theorem extractLsb'_high_eq_zero_iff (v : Word) : v.extractLsb' 13 51 = 0 ↔ v.toNat < 2 ^ 13 := by
  have hv := v.isLt
  rw [← BitVec.toNat_inj, BitVec.extractLsb'_toNat, Nat.shiftRight_eq_div_pow]
  change v.toNat / 2 ^ 13 % 2 ^ 51 = 0 ↔ _
  omega

theorem bfext_done (hv : (s.fwMe.reg rs2).toNat < 2 ^ 13)
    (hfit : ((s.fwMe.reg rs2).extractLsb' 0 6).toNat + (((s.fwMe.reg rs2).extractLsb' 6 6).toNat + 1) ≤ 64) :
    exec (.bfext rd rs1 rs2) s = s.fwDone rd (bfxRes (s.fwMe.reg rs1) ((s.fwMe.reg rs2).extractLsb' 0 6)
      ((s.fwMe.reg rs2).extractLsb' 6 6) ((s.fwMe.reg rs2).getLsbD 12)) := by
  rw [exec_bfext, execBfext]
  refine if_neg ?_
  rw [ne_eq, extractLsb'_high_eq_zero_iff]
  omega

theorem bfext_raises (hout : 2 ^ 13 ≤ (s.fwMe.reg rs2).toNat ∨
    64 < ((s.fwMe.reg rs2).extractLsb' 0 6).toNat + (((s.fwMe.reg rs2).extractLsb' 6 6).toNat + 1)) :
    exec (.bfext rd rs1 rs2) s = s.raise 2 ((mkFw rs2 rs1 1 rd 0x0B).setWidth 64) := by
  rw [exec_bfext, execBfext]
  refine if_pos ?_
  rw [ne_eq, extractLsb'_high_eq_zero_iff]
  omega

/-! ### SWAIT (R384) -/

theorem swait_done (hg : s.fwMe.reg rs1 = 31 ∨
      ((s.fwMe.reg rs1).toNat ≤ 24 ∧ s.routeOf (s.fwMe.reg rs1).toNat = s.fw))
    (hw : (if s.fwMe.reg rs1 = 31 then s.ownWord s.fw else s.pendingOf (s.fwMe.reg rs1).toNat) &&& s.fwMe.reg rs2 ≠ 0) :
    exec (.swait rd rs1 rs2) s = s.fwDone rd
      ((if s.fwMe.reg rs1 = 31 then s.ownWord s.fw else s.pendingOf (s.fwMe.reg rs1).toNat) &&& s.fwMe.reg rs2) := by
  rw [exec_swait, execSwait]
  exact (if_pos hg).trans (if_pos hw)

/-! ### PCLR (R385) -/

theorem pclr_done (hn : (s.fwMe.reg rs1).toNat < 1600) :
    exec (.pclr rs1) s = (s.aged.setRing (s.fwMe.reg rs1).toNat
      { s.ring (s.fwMe.reg rs1).toNat with pending := false, age := 0 }).fwDone 0 0 := by
  rw [exec_pclr, execPclr]
  exact if_neg (by omega)

/-- R376: ageing changes no scheduler core. -/
theorem State.aged_cores (s : State) : s.aged.fw = s.fw ∧ s.aged.fws = s.fws := by
  unfold State.aged
  dsimp only
  split <;> exact ⟨rfl, rfl⟩

/-! ### RFETCH (R382) -/

section Fetch
variable {k : RSlot} (hslot : (s.fwMe.reg rs1).toNat < 16) (hbound : s.fwMe.slots.find (s.fwMe.reg rs1).toNat = some k)
  (hroom : (s.ring k.ring).tail < 2 ^ (s.ring k.ring).size)
include hslot hbound hroom

/-- RFETCH of an empty ring. -/
theorem rfetch_empty (hempty : (s.ring k.ring).head = (s.ring k.ring).tail) :
    exec (.rfetch rd rs1) s = s.fwDone rd (BitVec.allOnes 64) := by
  rw [exec_rfetch, execRfetch]
  simp only [if_pos hslot, hbound]
  rw [if_neg (by omega), if_pos hempty]

/-- The address of the entry at a ring's head. -/
abbrev KRing.headAddr (r : KRing) : Nat := r.base.toNat + 64 * r.head

/-- RFETCH of an entry that is read. -/
theorem rfetch_taken {v : State} {bs : List Byte} (hsome : (s.ring k.ring).head ≠ (s.ring k.ring).tail)
    (hread : s.readCommand k.ring (s.ring k.ring).headAddr = .ok v bs) :
    exec (.rfetch rd rs1) s =
      ((v.setFwMe { v.fwMe with sram := v.fwMe.sram.write (0xFFC00 + 64 * (s.fwMe.reg rs1).toNat) bs }).setRing k.ring
        { s.ring k.ring with head := ((s.ring k.ring).head + 1) % 2 ^ (s.ring k.ring).size }).fwDone rd
          (BitVec.ofNat 64 (s.ring k.ring).head) := by
  rw [exec_rfetch, execRfetch]
  simp only [if_pos hslot, hbound]
  rw [if_neg (by omega), if_neg hsome, hread]

/-- RFETCH of an entry whose read fails. -/
theorem rfetch_fails {v : State} {host : Bool} (hsome : (s.ring k.ring).head ≠ (s.ring k.ring).tail)
    (hread : s.readCommand k.ring (s.ring k.ring).headAddr = .bad v host) :
    exec (.rfetch rd rs1) s = v.raise 24 (BitVec.ofNat 64 ((s.ring k.ring).headAddr % 2 ^ 63 + bitNum host * 2 ^ 63)) := by
  rw [exec_rfetch, execRfetch]
  simp only [if_pos hslot, hbound]
  rw [if_neg (by omega), if_neg hsome, hread]

end Fetch

/-- What an entry taken leaves: its 64 bytes in the slot's buffer, and the ring one entry on. -/
theorem rfetch_leaves {v : State} {bs : List Byte} (n a : Nat) (r : KRing) (x : Word) (rd : BitVec 5) (hkeeps : ReadKeeps s v)
    (hlen : bs.length = 64) :
    ∃ t, ((v.setFwMe { v.fwMe with sram := v.fwMe.sram.write a bs }).setRing n r).fwDone rd x = .next t ∧
      FwEnds s t rd x ∧ t.ring n = r ∧ (∀ m, m ≠ n → t.ring m = s.ring m) ∧ t.fwMe.sram.read a 64 = bs ∧
      (∀ y, (y < a ∨ a + 64 ≤ y) → t.fwMe.sram.byte y = s.fwMe.sram.byte y) ∧ t.dram.bytes = s.dram.bytes := by
  have hput := hkeeps.stands.setFwMe (c := { v.fwMe with sram := v.fwMe.sram.write a bs }) hkeeps.stands.me
  obtain ⟨t, hdone, hends, hsram, hrings, hdram⟩ := fwDone_ends (hput.setRing n r) rd x
  have hbuffer : t.fwMe.sram = s.fwMe.sram.write a bs := by
    rw [hsram, ← hkeeps.sram]
    exact congrArg FwCore.sram (State.fwMe_setFwMe ..)
  have hring (m : Nat) : t.ring m = (s.setRing n r).ring m := by
    refine congrArg (Tbl.get default · m) (hrings.trans ?_)
    exact congrArg (Tbl.put default · n r) hkeeps.rings
  refine ⟨t, hdone, hends, ?_, fun m hm => ?_, ?_, fun y hy => ?_, ?_⟩
  · rw [hring, State.ring_setRing]
  · rw [hring, State.ring_setRing_ne _ _ _ _ hm]
  · rw [hbuffer, ← hlen, Memory.read_write]
  · rw [hbuffer, Memory.byte_write_out _ _ _ _ (by rwa [hlen])]
  · rw [hdram, ← hkeeps.bytes]
    rfl

end Words

/-! ### The statement -/

/-- Settles O44: each word is cut down to the end of an instruction or to an exception (`bfext_done`, `bfext_raises`,
`swait_done`, `pclr_done`, `rfetch_empty`, `rfetch_taken`, `rfetch_fails`), which leave the scheduler cores as
`fwDone_ends` and `raise_enters` say; the read of an entry keeps rings and memory (`readCommand_keeps`). -/
theorem schedulerWords : Obligations.SchedulerWords := by
  have hself (s : State) : FwStands s s := .of_fws rfl rfl
  refine ⟨fun s cause v => ?_, fun rd rs1 rs2 s => ⟨⟨fun hv hfit => ?_, fun hout => ?_⟩, fun hg hw => ?_, fun hn => ?_⟩,
    fun rd rs1 k s v bs => ?_⟩
  · obtain ⟨t, hraise, hcause, hval, hepc, hpc, hx, -, hothers, hrings, hctxs⟩ := raise_enters (hself s) cause v
    exact ⟨t, hraise, hepc, hcause, hval, hpc, hx, hothers, hrings, hctxs⟩
  · obtain ⟨t, hdone, hends, hsram, hrings, -⟩ := fwDone_ends (hself s) rd (bfxRes (s.fwMe.reg rs1)
      ((s.fwMe.reg rs2).extractLsb' 0 6) ((s.fwMe.reg rs2).extractLsb' 6 6) ((s.fwMe.reg rs2).getLsbD 12))
    rw [bfxRes_eq] at hends
    exact ⟨t, (bfext_done hv hfit).trans hdone, hends, hsram, hrings⟩
  · obtain ⟨t, hraise, hcause, hval, hepc, -, hx, hsram, -, hrings, -⟩ :=
      raise_enters (hself s) 2 ((mkFw rs2 rs1 1 rd 0x0B).setWidth 64)
    exact ⟨t, _, (bfext_raises hout).trans hraise, rfl, hcause, hval, hepc, hx, hsram, hrings⟩
  · obtain ⟨t, hdone, hends, hsram, hrings, -⟩ := fwDone_ends (hself s) rd _
    exact ⟨t, (swait_done hg hw).trans hdone, hends, hsram, hrings⟩
  · obtain ⟨hfw, hfws⟩ := s.aged_cores
    have hme : s.aged.fwMe = s.fwMe := by rw [State.fwMe, State.fwCore, hfw, hfws]; rfl
    let n := (s.fwMe.reg rs1).toNat
    obtain ⟨t, hdone, hends, hsram, hrings, -⟩ :=
      fwDone_ends ((FwStands.of_fws hfw hfws).setRing n { s.ring n with pending := false, age := 0 }) 0 0
    have hring (m : Nat) : t.ring m = _ := congrArg (Tbl.get default · m) hrings
    exact ⟨t, (pclr_done hn).trans hdone, hends, (hring n).trans (State.ring_setRing ..),
      fun m hm => (hring m).trans (State.ring_setRing_ne _ _ _ _ hm), hsram.trans (congrArg FwCore.sram hme)⟩
  · intro slot hslot hbound r hroom
    refine ⟨fun hempty => ?_, fun hsome hread hlen => ?_, fun host hsome hread => ?_⟩
    · obtain ⟨t, hdone, hends, hsram, hrings, -⟩ := fwDone_ends (hself s) rd (BitVec.allOnes 64)
      exact ⟨t, (rfetch_empty hslot hbound hroom hempty).trans hdone, hends, hrings, hsram⟩
    · have hkeeps : ReadKeeps s v := readCommand_keeps (congrArg EntryRead.after hread)
      obtain ⟨t, hdone, hleaves⟩ := rfetch_leaves k.ring (0xFFC00 + 64 * slot)
        { r with head := (r.head + 1) % 2 ^ r.size } (BitVec.ofNat 64 r.head) rd hkeeps hlen
      exact ⟨t, (rfetch_taken hslot hbound hroom hsome hread).trans hdone, hleaves⟩
    · have hkeeps : ReadKeeps s v := readCommand_keeps (congrArg EntryRead.after hread)
      obtain ⟨t, hraise, hcause, hval, hepc, -, hx, hsram, -, hrings, -⟩ := raise_enters hkeeps.stands 24
        (BitVec.ofNat 64 (r.headAddr % 2 ^ 63 + bitNum host * 2 ^ 63))
      exact ⟨t, (rfetch_fails hslot hbound hroom hsome hread).trans hraise, hcause, hval, hepc, hx,
        hrings.trans hkeeps.rings, hsram.trans hkeeps.sram⟩

end Sys2Proof.Machine
end
